-- ==== Sys2Proof/Word.lean ====
section
/-! DEFINITION. The words of the machine and the two kinds of width the spec uses
(`00_scope.md` rules R7, R8): the operand width `w` (8, 16 or 32 bits) and the size `opsz`, `adsz`,
`stksz` (16 or 32 bits). -/

namespace Sys2Proof

/-- A byte, the addressable unit of memory and of the port space (R80). -/
abbrev Byte := BitVec 8

/-- A binary64 pattern, the content of one FPU slot (R45). -/
abbrev F64 := BitVec 64

/-- An operand width `w` (R8). -/
inductive Width
  | w8
  | w16
  | w32
  deriving DecidableEq, Repr

/-- The number of bits of an operand width. -/
abbrev Width.bits : Width → Nat
  | .w8 => 8
  | .w16 => 16
  | .w32 => 32

/-- The number of bytes of an operand width, `n = w/8`. -/
abbrev Width.bytes : Width → Nat
  | .w8 => 1
  | .w16 => 2
  | .w32 => 4

/-- An operand size, address size or stack-pointer size (R128, R129, R200): 16 or 32. -/
inductive Size
  | s16
  | s32
  deriving DecidableEq, Repr

/-- The operand width of a "generic word" of a size. -/
abbrev Size.width : Size → Width
  | .s16 => .w16
  | .s32 => .w32

/-- The number of bits of a size. -/
abbrev Size.bits (z : Size) : Nat := z.width.bits

/-- The number of bytes of a size. -/
abbrev Size.bytes (z : Size) : Nat := z.width.bytes

end Sys2Proof
end

