-- ==== Sys2Proof/Operand.lean ====
section
/-! DEFINITION. The operand kinds of the instruction grammar (`30_encoding.md` rules R131 to R142,
`40_operand_resolver.md` rules R181 to R187): register codes, segment, control and debug registers,
ModRM and SIB memory forms, FPU stack indexes and condition codes. -/

namespace Sys2Proof

/-- A general register code, 0 to 7 in this order (R20, R21). The constructor is named by the 32-bit
view. The 16-bit view of a code is the low half of that register; the 8-bit view of codes 0 to 3 is
the low byte of the register, and of codes 4 to 7 (AH, CH, DH, BH) the second byte of registers
0 to 3. -/
inductive Reg
  | eax
  | ecx
  | edx
  | ebx
  | esp
  | ebp
  | esi
  | edi
  deriving DecidableEq, Repr

/-- A segment register, codes 0 to 5 in this order (R26). -/
inductive SegReg
  | es
  | cs
  | ss
  | ds
  | fs
  | gs
  deriving DecidableEq, Repr

/-- A control register that exists in this block (R36): numbers 0, 2, 3. -/
inductive CtlReg
  | cr0
  | cr2
  | cr3
  deriving DecidableEq, Repr

/-- A debug register that exists in this block (R36): numbers 0 to 3, 6, 7. -/
inductive DbgReg
  | dr0
  | dr1
  | dr2
  | dr3
  | dr6
  | dr7
  deriving DecidableEq, Repr

/-- The base of a 16-bit memory form, rm = 0 to 7 in this order (R181). -/
inductive Base16
  | bxsi
  | bxdi
  | bpsi
  | bpdi
  | si
  | di
  | bp
  | bx
  deriving DecidableEq, Repr

/-- The displacement of a based 16-bit form: mod = 0, 1, 2 (R136). -/
inductive Disp16
  | none
  | d8 (d : BitVec 8)
  | d16 (d : BitVec 16)
  deriving DecidableEq, Repr

/-- The displacement of a based 32-bit form: mod = 0, 1, 2 (R136). -/
inductive Disp32
  | none
  | d8 (d : BitVec 8)
  | d32 (d : BitVec 32)
  deriving DecidableEq, Repr

/-- The SIB scale field: the multiplier 1, 2, 4 or 8 (R186). -/
inductive Scale
  | x1
  | x2
  | x4
  | x8
  deriving DecidableEq, Repr

/-- A memory operand as ModRM, SIB and displacement name it (R181, R185, R186). In the SIB forms the
index `esp` means "no index". -/
inductive MemOp
  | direct16 (d : BitVec 16)
  | based16 (b : Base16) (d : Disp16)
  | direct32 (d : BitVec 32)
  | based32 (b : Reg) (d : Disp32)
  | sib (scale : Scale) (index base : Reg) (d : Disp32)
  | sibNoBase (scale : Scale) (index : Reg) (d : BitVec 32)
  deriving DecidableEq, Repr

/-- A register-or-memory operand (R132): `mod = 3` names a register code. -/
inductive RM
  | reg (r : Reg)
  | mem (m : MemOp)
  deriving DecidableEq, Repr

/-- The index `i` of `ST(i)` (R48, R131). -/
abbrev StIndex := BitVec 3

/-- The sixteen conditions of Jcc and SETcc, codes 0x0 to 0xF in this order (R250). -/
inductive Cond
  | o
  | no
  | b
  | nb
  | z
  | nz
  | be
  | nbe
  | s
  | ns
  | p
  | np
  | l
  | nl
  | le
  | nle
  deriving DecidableEq, Repr

/-! ### Operand forms

The rows of the opcode table that share one mnemonic ("alternates joined by `|` sharing one handler",
R142) are the constructors of that mnemonic's form type. -/

/-- The nine encodings of a two-operand ALU operation (R330). -/
inductive AluForm
  | rmbRb (rm : RM) (r : Reg)
  | rmwRw (rm : RM) (r : Reg)
  | rbRmb (r : Reg) (rm : RM)
  | rwRmw (r : Reg) (rm : RM)
  | alIb (imm : BitVec 8)
  | axIw (imm : BitVec 32)
  | rmbIb (rm : RM) (imm : BitVec 8)
  | rmwIw (rm : RM) (imm : BitVec 32)
  | rmwIb (rm : RM) (imm : BitVec 8)
  deriving DecidableEq, Repr

/-- The encodings of TEST (R339). -/
inductive TestForm
  | rmbRb (rm : RM) (r : Reg)
  | rmwRw (rm : RM) (r : Reg)
  | alIb (imm : BitVec 8)
  | axIw (imm : BitVec 32)
  | rmbIb (rm : RM) (imm : BitVec 8)
  | rmwIw (rm : RM) (imm : BitVec 32)
  deriving DecidableEq, Repr

/-- The encodings of INC and DEC (R340, R341). -/
inductive StepForm
  | rw (r : Reg)
  | rmb (rm : RM)
  | rmw (rm : RM)
  deriving DecidableEq, Repr

/-- The encodings of a group-3 operation without an immediate (R342 to R345, R348, R349). -/
inductive UnaryForm
  | rmb (rm : RM)
  | rmw (rm : RM)
  deriving DecidableEq, Repr

/-- The encodings of IMUL (R345 to R347). -/
inductive ImulForm
  | rmb (rm : RM)
  | rmw (rm : RM)
  | rwRmw (r : Reg) (rm : RM)
  | rwRmwIw (r : Reg) (rm : RM) (imm : BitVec 32)
  | rwRmwIb (r : Reg) (rm : RM) (imm : BitVec 8)
  deriving DecidableEq, Repr

/-- The six encodings of a group-2 shift or rotate (R380). -/
inductive ShiftForm
  | rmbIb (rm : RM) (imm : BitVec 8)
  | rmwIb (rm : RM) (imm : BitVec 8)
  | rmbOne (rm : RM)
  | rmwOne (rm : RM)
  | rmbCl (rm : RM)
  | rmwCl (rm : RM)
  deriving DecidableEq, Repr

/-- The encodings of SHLD and SHRD (R390, R391). -/
inductive DoubleShiftForm
  | ib (rm : RM) (r : Reg) (imm : BitVec 8)
  | cl (rm : RM) (r : Reg)
  deriving DecidableEq, Repr

/-- The encodings of BT, BTS, BTR, BTC (R396). -/
inductive BitForm
  | rmwRw (rm : RM) (r : Reg)
  | rmwIb (rm : RM) (imm : BitVec 8)
  deriving DecidableEq, Repr

/-- The encodings of PUSH (R270 to R273). -/
inductive PushForm
  | sreg (sr : SegReg)
  | rw (r : Reg)
  | iw (imm : BitVec 32)
  | ib (imm : BitVec 8)
  | rmw (rm : RM)
  deriving DecidableEq, Repr

/-- The encodings of POP (R274 to R276). -/
inductive PopForm
  | sreg (sr : SegReg)
  | rw (r : Reg)
  | rmw (rm : RM)
  deriving DecidableEq, Repr

/-- The encodings of XCHG (R267, R268). -/
inductive XchgForm
  | rmbRb (rm : RM) (r : Reg)
  | rmwRw (rm : RM) (r : Reg)
  | axRw (r : Reg)
  deriving DecidableEq, Repr

/-- The encodings of MOV (R261 to R266, R318 to R321). -/
inductive MovForm
  | rmbRb (rm : RM) (r : Reg)
  | rmwRw (rm : RM) (r : Reg)
  | rbRmb (r : Reg) (rm : RM)
  | rwRmw (r : Reg) (rm : RM)
  | rmwSreg (rm : RM) (sr : SegReg)
  | sregRmw (sr : SegReg) (rm : RM)
  | alMoffs (off : BitVec 32)
  | axMoffs (off : BitVec 32)
  | moffsAl (off : BitVec 32)
  | moffsAx (off : BitVec 32)
  | rbIb (r : Reg) (imm : BitVec 8)
  | rwIw (r : Reg) (imm : BitVec 32)
  | rmbIb (rm : RM) (imm : BitVec 8)
  | rmwIw (rm : RM) (imm : BitVec 32)
  | r32Crn (r : Reg) (c : CtlReg)
  | crnR32 (c : CtlReg) (r : Reg)
  | r32Drn (r : Reg) (d : DbgReg)
  | drnR32 (d : DbgReg) (r : Reg)
  deriving DecidableEq, Repr

/-- The encodings of MOVZX and MOVSX (R289, R290). -/
inductive ExtendForm
  | rmb (r : Reg) (rm : RM)
  | rmw16 (r : Reg) (rm : RM)
  deriving DecidableEq, Repr

/-- The element of a string instruction: a byte, or a generic word of `opsz` bits (R470). -/
inductive StringForm
  | b
  | w
  deriving DecidableEq, Repr

/-- The encodings of IN (R294, R295). -/
inductive InForm
  | alIb (imm : BitVec 8)
  | axIb (imm : BitVec 8)
  | alDx
  | axDx
  deriving DecidableEq, Repr

/-- The encodings of OUT (R296, R297). -/
inductive OutForm
  | ibAl (imm : BitVec 8)
  | ibAx (imm : BitVec 8)
  | dxAl
  | dxAx
  deriving DecidableEq, Repr

/-- The encodings of Jcc (R426, R427). -/
inductive JccForm
  | jb (rel : BitVec 8)
  | jw (rel : BitVec 32)
  deriving DecidableEq, Repr

/-- The encodings of JMP (R421 to R425). -/
inductive JmpForm
  | jb (rel : BitVec 8)
  | jw (rel : BitVec 32)
  | pw (off : BitVec 32) (sel : BitVec 16)
  | rmw (rm : RM)
  | mp (m : MemOp)
  deriving DecidableEq, Repr

/-- The encodings of CALL (R432 to R435). -/
inductive CallForm
  | jw (rel : BitVec 32)
  | pw (off : BitVec 32) (sel : BitVec 16)
  | rmw (rm : RM)
  | mp (m : MemOp)
  deriving DecidableEq, Repr

/-- The encodings of RET and RETF (R436 to R439). -/
inductive RetForm
  | plain
  | iw (imm16 : BitVec 16)
  deriving DecidableEq, Repr

/-- The encodings of an FPU operation with a float memory or register operand (R619). -/
inductive FArithForm
  | mf32 (m : MemOp)
  | mf64 (m : MemOp)
  | st0St (i : StIndex)
  | stSt0 (i : StIndex)
  deriving DecidableEq, Repr

/-- The encodings of an FPU operation with an integer memory operand (R619, R624). -/
inductive FIntForm
  | m32 (m : MemOp)
  | m16 (m : MemOp)
  deriving DecidableEq, Repr

/-- The encodings of FCOM and FCOMP (R621, R622). -/
inductive FComForm
  | mf32 (m : MemOp)
  | mf64 (m : MemOp)
  | st (i : StIndex)
  deriving DecidableEq, Repr

/-- The encodings of FLD (R540 to R542) and FSTP (R545 to R547). -/
inductive FldForm
  | mf32 (m : MemOp)
  | mf64 (m : MemOp)
  | mf80 (m : MemOp)
  | st (i : StIndex)
  deriving DecidableEq, Repr

/-- The encodings of FST (R543, R544). -/
inductive FstForm
  | mf32 (m : MemOp)
  | mf64 (m : MemOp)
  | st (i : StIndex)
  deriving DecidableEq, Repr

/-- The encodings of FILD (R548) and FISTP (R550). -/
inductive FildForm
  | m16 (m : MemOp)
  | m32 (m : MemOp)
  | m64 (m : MemOp)
  deriving DecidableEq, Repr

/-- The encodings of FIST (R549). -/
inductive FistForm
  | m16 (m : MemOp)
  | m32 (m : MemOp)
  deriving DecidableEq, Repr

/-- The encodings of FNSTSW (R566, R567). -/
inductive FnstswForm
  | m16 (m : MemOp)
  | ax
  deriving DecidableEq, Repr

end Sys2Proof
end

