-- ==== Sys2Proof/Config.lean ====
section
/-! DEFINITION. What the platform and an implementation fix (`00_scope.md` rule R7): the parameters the
spec gives a default, at that default, and the functions it leaves to the platform, as constants
without a body (nothing can be proved about their values). -/

namespace Sys2Proof

/-- One byte access to the port interface (R95): a read with the byte the platform answered, or a
write with the byte sent. -/
inductive PortEvent
  | read (port : BitVec 16) (value : Byte)
  | write (port : BitVec 16) (value : Byte)
  deriving DecidableEq, Repr

/-- What the descriptor hook returns (R27): the base and the `big` bit. -/
structure Descriptor where
  base : BitVec 32
  big : Bool
  deriving DecidableEq, Repr, Inhabited

/-- What a push onto a used FPU slot stores (R531). -/
inductive PushOnUsed
  | overwrite
  | keep
  deriving DecidableEq, Repr

/-- The floating-point operations that can ask for a NaN (R600(b), R643 to R648). -/
inductive FpOp
  | add
  | sub
  | mul
  | div
  | sqrt
  | rndint
  | scale
  | xtract
  | prem
  | prem1
  deriving DecidableEq, Repr

namespace Config

/-- `DescLookup(s, sel)`, the protected-mode descriptor hook: an oracle of its arguments (R7, R27,
R671); `none` is `fail`. No body: the platform supplies it. -/
opaque descLookup : SegReg → BitVec 16 → Option Descriptor

/-- `ReadPortByte(p)` (R95): the byte the platform answers at a port, given every port access made so
far, newest first. No body: the platform supplies it (R81, I23). -/
opaque readPortByte : List PortEvent → BitVec 16 → Byte

/-- `MATH.sin` (R600(f)). No body. -/
opaque sin : F64 → F64

/-- `MATH.cos` (R600(f)). No body. -/
opaque cos : F64 → F64

/-- `MATH.tan` (R600(f)). No body. -/
opaque tan : F64 → F64

/-- `MATH.atan2` of ordinate and abscissa (R600(f), R653). No body. -/
opaque atan2 : F64 → F64 → F64

/-- `MATH.log2` (R600(f)). No body. -/
opaque log2 : F64 → F64

/-- `MATH.exp2` (R600(f)). No body. -/
opaque exp2 : F64 → F64

/-- What a byte of memory nothing has written reads as. The spec leaves it to the platform (R81); the
model fixes 0 (DESIGN CHOICE, unsafe: log entry 3). -/
def unwrittenByte : Byte := 0

end Config

end Sys2Proof
end

