-- ==== Sys2Proof/Machine/State.lean ====
section
/-! DEFINITION. The state of the machine (`10_state.md`), the reasons a step can stop
(`60_exceptions.md` rule R671), and the state after reset (R60, R711). -/

namespace Sys2Proof.Machine

/-- The storage of the eight general registers, 32 bits each (R20). -/
structure Gpr where
  eax : BitVec 32
  ecx : BitVec 32
  edx : BitVec 32
  ebx : BitVec 32
  esp : BitVec 32
  ebp : BitVec 32
  esi : BitVec 32
  edi : BitVec 32
  deriving DecidableEq, Repr

/-- One segment register: the selector and the cached base (R26). -/
structure Seg where
  sel : BitVec 16
  base : BitVec 32
  deriving DecidableEq, Repr

/-- The six segment registers (R26). -/
structure Segs where
  es : Seg
  cs : Seg
  ss : Seg
  ds : Seg
  fs : Seg
  gs : Seg
  deriving DecidableEq, Repr

/-- EFLAGS: each named flag is one independent bit of state (R30). The reserved bits are not state:
the image functions supply them (R33). -/
structure Flags where
  CF : Bool
  PF : Bool
  AF : Bool
  ZF : Bool
  SF : Bool
  TF : Bool
  IF : Bool
  DF : Bool
  OF : Bool
  IOPL : BitVec 2
  NT : Bool
  deriving DecidableEq, Repr

/-- The control registers (R36). -/
structure Ctl where
  cr0 : BitVec 32
  cr2 : BitVec 32
  cr3 : BitVec 32
  deriving DecidableEq, Repr

/-- The debug registers (R36). -/
structure Dbg where
  dr0 : BitVec 32
  dr1 : BitVec 32
  dr2 : BitVec 32
  dr3 : BitVec 32
  dr6 : BitVec 32
  dr7 : BitVec 32
  deriving DecidableEq, Repr

/-- The repeat-prefix mode (R40): `rep` is REPE before CMPS and SCAS. -/
inductive RepMode
  | none
  | rep
  | repne
  deriving DecidableEq, Repr

/-- PrefixState, the per-instruction prefix accumulator (R40). -/
structure PrefixState where
  seg : Option SegReg
  opsize : Bool
  adsize : Bool
  rep : RepMode
  lock : Bool
  count : Nat
  deriving DecidableEq, Repr

/-- PrefixState between steps (R41). -/
def PrefixState.empty : PrefixState := ⟨none, false, false, .none, false, 0⟩

/-- The FPU state (R45 to R51). The status word beyond `FTOP` and C0 to C3, and the tag word, are
derived on read (R51, R53). -/
structure Fpu where
  FPR : Vector F64 8
  FUSED : Vector Bool 8
  FTOP : BitVec 3
  FCW : BitVec 16
  C0 : Bool
  C1 : Bool
  C2 : Bool
  C3 : Bool
  deriving DecidableEq, Repr

/-- The memory behind the memory interface (R80): the bytes that differ from
`Config.unwrittenByte`, addresses strictly rising (the canonical form; log entry 3). -/
abbrev Memory := List Host.Cell

/-- The result of a step that completes (R671). The results that stop the machine are `Fault` and
`Refusal`. -/
inductive StepResult
  | retired
  | delivered (vector : BitVec 8)
  | halted
  deriving DecidableEq, Repr

/-- One call of the memory or port interface, without its value: a memory call of 1, 2 or 4 bytes at a
physical address, or one byte at a port (R81, R82, R95). -/
inductive BusAccess
  | read (a : BitVec 32) (bytes : Nat)
  | write (a : BitVec 32) (bytes : Nat)
  | portRead (p : BitVec 16)
  | portWrite (p : BitVec 16)
  deriving DecidableEq, Repr

/-- The state of the block, with what it reaches through its interfaces: the memory, the port history,
and the record `bus` of every interface call made so far, newest first (R98, R100). -/
structure State where
  gpr : Gpr
  seg : Segs
  csD : Bool
  ssB : Bool
  flags : Flags
  eip : BitVec 32
  ctl : Ctl
  dbg : Dbg
  pfx : PrefixState
  nextEip : BitVec 32
  fpu : Fpu
  mem : Memory
  ports : List PortEvent
  bus : List BusAccess
  result : Option StepResult
  deriving DecidableEq, Repr

/-- The result `Fault` of a step (R671). -/
inductive Fault
  /-- `Fault(Undecodable)`: the bytes at CS:EIP match no row of the opcode table, or the instruction
  would need a sixteenth byte (R126, R173). Raised by the fetch of an instruction. Safe: the spec
  stops the step here too. -/
  | undecodable
  deriving DecidableEq, Repr

/-- The result `Refused` of a step (R671). -/
inductive Refusal
  /-- An instruction without a meaning yet. No arm of `exec` uses it. Safe. -/
  | notModelled (mnemonic : String)
  /-- `Refused(DescLookup)`: a selector load in protected mode for which the hook returned fail (R27).
  Raised by every selector load. Safe: the spec refuses the step here too. -/
  | descLookup
  /-- `Refused(ProtectedInterrupt)`: an exception or interrupt would have to be delivered while
  `CR0.PE = 1` (R676, R678). Raised by delivery. Safe: the spec refuses the step here too. -/
  | protectedInterrupt
  deriving DecidableEq, Repr

/-- What running an instruction answers. -/
abbrev Result := Host.Outcome State Fault Refusal

/-- A general register file holding one value everywhere. -/
def Gpr.reset : Gpr := ⟨0, 0, 0, 0, 0, 0, 0, 0⟩

/-- A segment register after reset (R60). -/
def Seg.reset : Seg := ⟨0, 0⟩

/-- EFLAGS after reset: every flag 0, image 0x00000002 (R60). -/
def Flags.reset : Flags := ⟨false, false, false, false, false, false, false, false, false, 0, false⟩

/-- The FPU after reset (R60, R711). -/
def Fpu.reset : Fpu where
  FPR := #v[0, 0, 0, 0, 0, 0, 0, 0]
  FUSED := #v[false, false, false, false, false, false, false, false]
  FTOP := 0
  FCW := 0x037F
  C0 := false
  C1 := false
  C2 := false
  C3 := false

/-- The state after reset (R60, R711). `nextEip`, `ports`, `bus` and `result` are the model's own fields; the
memory is the platform's and holds nothing written (DESIGN CHOICE: log entries 2, 3, 4). -/
def State.reset : State where
  gpr := .reset
  seg := ⟨.reset, .reset, .reset, .reset, .reset, .reset⟩
  csD := false
  ssB := false
  flags := .reset
  eip := 0
  ctl := ⟨0, 0, 0⟩
  dbg := ⟨0, 0, 0, 0, 0, 0⟩
  pfx := .empty
  nextEip := 0
  fpu := .reset
  mem := []
  ports := []
  bus := []
  result := none

end Sys2Proof.Machine
end

