-- ==== Sys2Proof/Machine/Flags.lean ====
section
/-! DEFINITION. The flags engine (`41_flags_engine.md`) and the EFLAGS image (`10_state.md` rule R33):
one function per arithmetic class, generic in the operand width. -/

namespace Sys2Proof.Machine

/-- `Parity(r)`: the number of 1 bits in the low byte is even (R222). -/
def parity {n : Nat} (r : BitVec n) : Bool :=
  ((List.range 8).filter fun i => r.getLsbD i).length % 2 == 0

/-- `SetSZP(w, r)` (R221). -/
def Flags.setSZP {n : Nat} (f : Flags) (r : BitVec n) : Flags :=
  { f with ZF := r == 0, SF := r.msb, PF := parity r }

/-- `FlagsAdd(w, a, b, cin)`: the result and the six flags (R223). -/
def flagsAdd {n : Nat} (f : Flags) (a b : BitVec n) (cin : Bool) : BitVec n × Flags :=
  let s := a.toNat + b.toNat + cin.toNat
  let r := BitVec.ofNat n s
  (r, { f.setSZP r with
    CF := decide (2 ^ n ≤ s)
    OF := ((a ^^^ r) &&& (b ^^^ r)).msb
    AF := (a ^^^ b ^^^ r).getLsbD 4 })

/-- `FlagsSub(w, a, b, bin)`: the result and the six flags (R224). -/
def flagsSub {n : Nat} (f : Flags) (a b : BitVec n) (bin : Bool) : BitVec n × Flags :=
  let d : Int := (a.toNat : Int) - b.toNat - bin.toNat
  let r := BitVec.ofInt n d
  (r, { f.setSZP r with
    CF := decide (d < 0)
    OF := ((a ^^^ b) &&& (a ^^^ r)).msb
    AF := (a ^^^ b ^^^ r).getLsbD 4 })

/-- `FlagsInc(w, a)`: as an addition of 1 that leaves CF (R226). -/
def flagsInc {n : Nat} (f : Flags) (a : BitVec n) : BitVec n × Flags :=
  let (r, g) := flagsAdd f a 1 false
  (r, { g with CF := f.CF })

/-- `FlagsDec(w, a)`: as a subtraction of 1 that leaves CF (R226). -/
def flagsDec {n : Nat} (f : Flags) (a : BitVec n) : BitVec n × Flags :=
  let (r, g) := flagsSub f a 1 false
  (r, { g with CF := f.CF })

/-- `FlagsNeg(w, a)`: as `0 - a` (R227). -/
def flagsNeg {n : Nat} (f : Flags) (a : BitVec n) : BitVec n × Flags :=
  flagsSub f 0 a false

/-- `FlagsLogic(w, r)`: CF and OF cleared, SF, ZF, PF from the result, AF unchanged (R228). -/
def flagsLogic {n : Nat} (f : Flags) (r : BitVec n) : Flags :=
  { f.setSZP r with CF := false, OF := false }

/-- `FlagsMul(hi_significant)` (R229). -/
def flagsMul (f : Flags) (hi : Bool) : Flags := { f with CF := hi, OF := hi }

/-- `Cond(cc)` (R250). -/
def Flags.cond (f : Flags) : Cond → Bool
  | .o => f.OF
  | .no => !f.OF
  | .b => f.CF
  | .nb => !f.CF
  | .z => f.ZF
  | .nz => !f.ZF
  | .be => f.CF || f.ZF
  | .nbe => !f.CF && !f.ZF
  | .s => f.SF
  | .ns => !f.SF
  | .p => f.PF
  | .np => !f.PF
  | .l => f.SF != f.OF
  | .nl => f.SF == f.OF
  | .le => f.ZF || f.SF != f.OF
  | .nle => !f.ZF && f.SF == f.OF

/-- A flag as bit `k` of an image. -/
def flagBit (b : Bool) (k : Nat) : BitVec 32 := (BitVec.ofBool b).setWidth 32 <<< k

/-- `FlagsImage()`: bit 1 is 1, the other reserved bits 0 (R33). -/
def Flags.image (f : Flags) : BitVec 32 :=
  flagBit f.CF 0 ||| flagBit true 1 ||| flagBit f.PF 2 ||| flagBit f.AF 4 ||| flagBit f.ZF 6 |||
    flagBit f.SF 7 ||| flagBit f.TF 8 ||| flagBit f.IF 9 ||| flagBit f.DF 10 ||| flagBit f.OF 11 |||
    f.IOPL.setWidth 32 <<< 12 ||| flagBit f.NT 14

/-- `WriteFlagsImage(v, w)`: every named flag from its bit, the reserved bits ignored; all named bits
lie below 16, so the result is the same for `w` = 16 and 32 (R33). -/
def Flags.ofImage {n : Nat} (v : BitVec n) : Flags where
  CF := v.getLsbD 0
  PF := v.getLsbD 2
  AF := v.getLsbD 4
  ZF := v.getLsbD 6
  SF := v.getLsbD 7
  TF := v.getLsbD 8
  IF := v.getLsbD 9
  DF := v.getLsbD 10
  OF := v.getLsbD 11
  IOPL := v.extractLsb' 12 2
  NT := v.getLsbD 14

end Sys2Proof.Machine
end

