-- ==== Sys2Proof/Machine/Memory.lean ====
section
/-! DEFINITION. The memory behind the memory interface (`20_memory.md` rules R80 to R84): one byte per
32-bit physical address, held in one canonical form, and the little-endian reading and writing of
byte sequences. -/

namespace Sys2Proof.Machine

/-- The byte at an address: the listed one, or `Config.unwrittenByte` (R80, R81). -/
def Memory.get : Memory → Nat → Byte
  | [], _ => Config.unwrittenByte
  | (k, v) :: m, a => if a = k then v else Memory.get m a

/-- The memory with every entry for one address removed. -/
def Memory.without (m : Memory) (a : Nat) : Memory := m.filter fun c => c.1 != a

/-- The memory with an entry put before the first entry of a higher address. -/
def Memory.place : Memory → Nat → Byte → Memory
  | [], a, b => [(a, b)]
  | (k, v) :: m, a, b => if a < k then (a, b) :: (k, v) :: m else (k, v) :: Memory.place m a b

/-- The memory with one byte replaced (R82). Writing the value an unlisted address reads as removes the
entry, so equal memories are equal lists. -/
def Memory.put (m : Memory) (a : Nat) (b : Byte) : Memory :=
  if b = Config.unwrittenByte then m.without a else (m.without a).place a b

/-- Every listed address is at least `lo` and below 2^32, addresses rise strictly, and no entry holds
the value an unlisted address reads as. -/
def Memory.wfFrom (lo : Nat) : Memory → Bool
  | [] => true
  | (k, v) :: m =>
    decide (lo ≤ k) && decide (k < 2 ^ 32) && v != Config.unwrittenByte && Memory.wfFrom (k + 1) m

/-- The canonical form of a memory. -/
def Memory.wf (m : Memory) : Bool := Memory.wfFrom 0 m

/-- `n` bytes at ascending addresses modulo 2^32, the first at `a` (R82, R84). -/
def Memory.readBytes (m : Memory) (a : BitVec 32) : Nat → List Byte
  | 0 => []
  | n + 1 => m.get a.toNat :: Memory.readBytes m (a + 1) n

/-- Bytes written at ascending addresses modulo 2^32, the first at `a` (R82, R84). -/
def Memory.writeBytes (m : Memory) (a : BitVec 32) : List Byte → Memory
  | [] => m
  | b :: bs => Memory.writeBytes (m.put a.toNat b) (a + 1) bs

/-- The number a little-endian byte sequence denotes (R83). -/
def leNat : List Byte → Nat
  | [] => 0
  | b :: bs => b.toNat + 256 * leNat bs

/-- The low `n` bytes of a number, least significant first (R83). -/
def leBytes : Nat → Nat → List Byte
  | 0, _ => []
  | n + 1, v => BitVec.ofNat 8 v :: leBytes n (v / 256)

end Sys2Proof.Machine
end

