-- ==== Sys2Proof/Machine/Ops.lean ====
section
/-! DEFINITION. The named operations over registers, memory, ports and the stack that the meanings are
written with (`10_state.md`, `20_memory.md`, `40_operand_resolver.md` section 6), loading a selector
(R27), taking an exception (R675, R676) and returning from one (R443, R681). -/

namespace Sys2Proof.Machine

/-- Runs the rest of an instruction on the state an operation left, or passes on its stop. -/
def thenDo (o : Result) (k : State → Result) : Result :=
  match o with
  | .next s => k s
  | .fault r => .fault r
  | .refused r => .refused r

/-! ### General registers (R20 to R22) -/

/-- The 32-bit storage of a register. -/
def Gpr.get (g : Gpr) : Reg → BitVec 32
  | .eax => g.eax
  | .ecx => g.ecx
  | .edx => g.edx
  | .ebx => g.ebx
  | .esp => g.esp
  | .ebp => g.ebp
  | .esi => g.esi
  | .edi => g.edi

/-- The storage with one register replaced. -/
def Gpr.set (g : Gpr) (r : Reg) (v : BitVec 32) : Gpr :=
  match r with
  | .eax => { g with eax := v }
  | .ecx => { g with ecx := v }
  | .edx => { g with edx := v }
  | .ebx => { g with ebx := v }
  | .esp => { g with esp := v }
  | .ebp => { g with ebp := v }
  | .esi => { g with esi := v }
  | .edi => { g with edi := v }

/-- The register whose storage holds the 8-bit view of a code: codes 4 to 7 name the second byte of
registers 0 to 3 (R21). -/
def home8 : Reg → Reg
  | .eax | .esp => .eax
  | .ecx | .ebp => .ecx
  | .edx | .esi => .edx
  | .ebx | .edi => .ebx

/-- The 8-bit view of a code is the second byte of its storage: AH, CH, DH, BH (R21). -/
def isHigh8 : Reg → Bool
  | .eax | .ecx | .edx | .ebx => false
  | .esp | .ebp | .esi | .edi => true

/-- The `w`-bit view of a 32-bit register value, `high` choosing the second byte at width 8 (R21). -/
def viewOf (w : Width) (high : Bool) (x : BitVec 32) : BitVec w.bits :=
  match w with
  | .w8 => if high then x.extractLsb' 8 8 else x.extractLsb' 0 8
  | .w16 => x.extractLsb' 0 16
  | .w32 => x

/-- A 32-bit register value with the bits of one view replaced, every other bit unchanged (R22). -/
def withView (w : Width) (high : Bool) (x : BitVec 32) (v : BitVec w.bits) : BitVec 32 :=
  match w with
  | .w8 =>
    if high then x.extractLsb' 16 16 ++ (v : BitVec 8) ++ x.extractLsb' 0 8
    else x.extractLsb' 8 24 ++ (v : BitVec 8)
  | .w16 => x.extractLsb' 16 16 ++ (v : BitVec 16)
  | .w32 => v

/-- The register whose storage holds the `w`-bit view of a code (R21). -/
def homeOf : Width → Reg → Reg
  | .w8, r => home8 r
  | .w16, r => r
  | .w32, r => r

/-- `Rw[r]` as a value (R21, R22). -/
def State.readReg (s : State) (w : Width) (r : Reg) : BitVec w.bits :=
  viewOf w (isHigh8 r) (s.gpr.get (homeOf w r))

/-- `Rw[r] <- v`: exactly the bits of the view change (R22). -/
def State.writeReg (s : State) (w : Width) (r : Reg) (v : BitVec w.bits) : State :=
  { s with gpr := s.gpr.set (homeOf w r) (withView w (isHigh8 r) (s.gpr.get (homeOf w r)) v) }

/-! ### Segment, control and debug registers -/

/-- A segment register (R26). -/
def Segs.get (g : Segs) : SegReg → Seg
  | .es => g.es
  | .cs => g.cs
  | .ss => g.ss
  | .ds => g.ds
  | .fs => g.fs
  | .gs => g.gs

/-- The segment registers with one replaced. -/
def Segs.set (g : Segs) (r : SegReg) (v : Seg) : Segs :=
  match r with
  | .es => { g with es := v }
  | .cs => { g with cs := v }
  | .ss => { g with ss := v }
  | .ds => { g with ds := v }
  | .fs => { g with fs := v }
  | .gs => { g with gs := v }

/-- A control register (R36). -/
def Ctl.get (c : Ctl) : CtlReg → BitVec 32
  | .cr0 => c.cr0
  | .cr2 => c.cr2
  | .cr3 => c.cr3

/-- The control registers with one replaced, every bit stored as written (R36). -/
def Ctl.set (c : Ctl) (r : CtlReg) (v : BitVec 32) : Ctl :=
  match r with
  | .cr0 => { c with cr0 := v }
  | .cr2 => { c with cr2 := v }
  | .cr3 => { c with cr3 := v }

/-- A debug register (R36). -/
def Dbg.get (d : Dbg) : DbgReg → BitVec 32
  | .dr0 => d.dr0
  | .dr1 => d.dr1
  | .dr2 => d.dr2
  | .dr3 => d.dr3
  | .dr6 => d.dr6
  | .dr7 => d.dr7

/-- The debug registers with one replaced, every bit stored as written (R36). -/
def Dbg.set (d : Dbg) (r : DbgReg) (v : BitVec 32) : Dbg :=
  match r with
  | .dr0 => { d with dr0 := v }
  | .dr1 => { d with dr1 := v }
  | .dr2 => { d with dr2 := v }
  | .dr3 => { d with dr3 := v }
  | .dr6 => { d with dr6 := v }
  | .dr7 => { d with dr7 := v }

/-- `CR0.PE`: protected mode (R37). -/
def State.protectedMode (s : State) : Bool := s.ctl.cr0.getLsbD 0

/-- `SEG[r].sel`. -/
def State.sel (s : State) (r : SegReg) : BitVec 16 := (s.seg.get r).sel

/-- A segment register with its hidden bit: `CS.D` goes with CS, `SS.B` with SS (R27, R28). -/
def State.setSeg (s : State) (r : SegReg) (sel : BitVec 16) (base : BitVec 32) (big : Bool) :
    State :=
  { s with
    seg := s.seg.set r ⟨sel, base⟩
    csD := if r = .cs then big else s.csD
    ssB := if r = .ss then big else s.ssB }

/-- `LoadSeg(r, sel)`: in real mode the base is `sel * 16` and the hidden bit 0; in protected mode both
come from the descriptor hook, whose failure ends the step refused (R27). Nothing else writes the hidden
bits: a MOV to CR0 that clears PE leaves a bit that is 1 so until the next load of its register, which
R28 leaves open (DESIGN CHOICE, unsafe: log entry 20). -/
def loadSeg (r : SegReg) (sel : BitVec 16) (s : State) : Result :=
  if s.protectedMode then
    match Config.descLookup r sel with
    | some d => .next (s.setSeg r sel d.base d.big)
    | none => .refused .descLookup
  else .next (s.setSeg r sel (sel.setWidth 32 <<< 4) false)

/-! ### Sizes (R128, R129, R200) -/

/-- The size a default bit and an override bit select (R128, R129). -/
def sizeFor (default override : Bool) : Size := if default ^^ override then .s32 else .s16

/-- `opsz` (R128). -/
def State.opsz (s : State) : Size := sizeFor s.csD s.pfx.opsize

/-- `adsz` (R129). -/
def State.adsz (s : State) : Size := sizeFor s.csD s.pfx.adsize

/-- `stksz` (R200). -/
def State.stksz (s : State) : Size := if s.ssB then .s32 else .s16

/-- A 16- or 32-bit register view, zero-extended to 32 bits. -/
def State.readIndex (s : State) (z : Size) (r : Reg) : BitVec 32 :=
  (s.readReg z.width r).setWidth 32

/-- Writes the low bits of a 32-bit value to a 16- or 32-bit register view. -/
def State.writeIndex (s : State) (z : Size) (r : Reg) (v : BitVec 32) : State :=
  s.writeReg z.width r (v.setWidth z.bits)

/-! ### Memory through segments (R82, R84, R88, R89) -/

/-- `Lin(r, off)`: the physical address (R88). -/
def State.lin (s : State) (r : SegReg) (off : BitVec 32) : BitVec 32 := (s.seg.get r).base + off

/-- `MemRead(a, w/8)`, little-endian (R82, R83). -/
def State.memRead (s : State) (w : Width) (a : BitVec 32) : BitVec w.bits :=
  BitVec.ofNat w.bits (leNat (s.mem.readBytes a w.bytes))

/-- `MemWrite(a, w/8, v)`, little-endian (R82, R83). -/
def State.memWrite (s : State) (w : Width) (a : BitVec 32) (v : BitVec w.bits) : State :=
  { s with mem := s.mem.writeBytes a (leBytes w.bytes v.toNat) }

/-- `MemReadSpan(a, n)` as one little-endian number (R84). -/
def State.memReadSpan (s : State) (n : Nat) (a : BitVec 32) : Nat := leNat (s.mem.readBytes a n)

/-- `MemWriteSpan(a, n, bytes)` (R84). -/
def State.memWriteSpan (s : State) (a : BitVec 32) (bytes : List Byte) : State :=
  { s with mem := s.mem.writeBytes a bytes }

/-- `SegRead(r, off, w/8)` (R89). -/
def State.segRead (s : State) (w : Width) (r : SegReg) (off : BitVec 32) : BitVec w.bits :=
  s.memRead w (s.lin r off)

/-- `SegWrite(r, off, w/8, v)` (R89). -/
def State.segWrite (s : State) (w : Width) (r : SegReg) (off : BitVec 32) (v : BitVec w.bits) :
    State :=
  s.memWrite w (s.lin r off) v

/-! ### Ports (R95, R96) -/

/-- One byte read from a port: the platform's answer, recorded in the port history (R95). -/
def State.portReadByte (s : State) (p : BitVec 16) : Byte × State :=
  let b := Config.readPortByte s.ports p
  (b, { s with ports := .read p b :: s.ports })

/-- One byte written to a port, recorded in the port history (R95). -/
def State.portWriteByte (s : State) (p : BitVec 16) (b : Byte) : State :=
  { s with ports := .write p b :: s.ports }

/-- `n` byte reads at consecutive port numbers modulo 2^16, low byte first (R96). -/
def State.portReadBytes (s : State) (p : BitVec 16) : Nat → List Byte × State
  | 0 => ([], s)
  | n + 1 =>
    let (b, s1) := s.portReadByte p
    let (bs, s2) := s1.portReadBytes (p + 1) n
    (b :: bs, s2)

/-- Byte writes at consecutive port numbers modulo 2^16 (R96). -/
def State.portWriteBytes (s : State) (p : BitVec 16) : List Byte → State
  | [] => s
  | b :: bs => (s.portWriteByte p b).portWriteBytes (p + 1) bs

/-- `PortRead(p, w/8)` (R96). -/
def State.portRead (s : State) (w : Width) (p : BitVec 16) : BitVec w.bits × State :=
  let (bs, s1) := s.portReadBytes p w.bytes
  (BitVec.ofNat w.bits (leNat bs), s1)

/-- `PortWrite(p, w/8, v)` (R96). -/
def State.portWrite (s : State) (w : Width) (p : BitVec 16) (v : BitVec w.bits) : State :=
  s.portWriteBytes p (leBytes w.bytes v.toNat)

/-! ### The stack (R200 to R202) -/

/-- The stack pointer, SP or ESP by `stksz`, zero-extended (R200). -/
def State.stackPtr (s : State) : BitVec 32 := s.readIndex s.stksz .esp

/-- Writes SP or ESP by `stksz`; with SP the upper half of ESP is unchanged (R200). -/
def State.setStackPtr (s : State) (v : BitVec 32) : State := s.writeIndex s.stksz .esp v

/-- `Push(z, v)`: the pointer is decremented first, then the write is made at the new pointer (R201). -/
def State.push (s : State) (z : Size) (v : BitVec z.bits) : State :=
  let s1 := s.setStackPtr (s.stackPtr - BitVec.ofNat 32 z.bytes)
  s1.segWrite z.width .ss s1.stackPtr v

/-- The value `Pop(z)` returns (R202). -/
def State.popValue (s : State) (z : Size) : BitVec z.bits := s.segRead z.width .ss s.stackPtr

/-- The state after `Pop(z)` (R202). -/
def State.popped (s : State) (z : Size) : State :=
  s.setStackPtr (s.stackPtr + BitVec.ofNat 32 z.bytes)

/-- A stack pointer value reduced to the width of the stack pointer (R200 to R202). -/
def State.wrapSP (s : State) (v : BitVec 32) : BitVec 32 := (v.setWidth s.stksz.bits).setWidth 32

/-- The stack pointer moved up by `n` bytes (R202). -/
def State.spUp (s : State) (n : Nat) : BitVec 32 := s.wrapSP (s.stackPtr + BitVec.ofNat 32 n)

/-- The stack pointer moved down by `n` bytes (R201). -/
def State.spDown (s : State) (n : Nat) : BitVec 32 := s.wrapSP (s.stackPtr - BitVec.ofNat 32 n)

/-- The physical address of the `i`-th word of size `z` from the stack pointer up (R202). -/
def State.slot (s : State) (z : Size) (i : Nat) : BitVec 32 := s.lin .ss (s.spUp (i * z.bytes))

/-! ### The instruction pointer (R34, R35, R144) -/

/-- `EIP <- NextEIP`. -/
def State.retire (s : State) : State := { s with eip := s.nextEip }

/-- The instruction ends with `EIP <- NextEIP` (R35(a)). -/
def done (s : State) : Result := .next s.retire

/-- `EIP <- t`. -/
def State.jumpTo (s : State) (t : BitVec 32) : State := { s with eip := t }

/-! ### Taking an exception and returning (R443, R675 to R677, R681) -/

/-- `FlagsImage()` as a pushed word of a size (R279, R676). -/
def State.flagsWord (s : State) (z : Size) : BitVec z.bits := s.flags.image.setWidth z.bits

/-- The flags with IF and TF cleared, as delivery leaves them (R676). -/
def Flags.masked (f : Flags) : Flags := { f with IF := false, TF := false }

/-- The three pushes of delivery and the clearing of IF and TF (R676). -/
def State.pushFrame (s : State) (ip : BitVec 32) : State :=
  let s1 := s.push .s16 (s.flagsWord .s16)
  let s2 := { s1 with flags := s1.flags.masked }
  let s3 := s2.push .s16 (s2.sel .cs)
  s3.push .s16 (ip.setWidth 16)

/-- The physical address of an interrupt vector table entry, `4*v` (R676). -/
def vectorAddr (v : BitVec 8) : BitVec 32 := v.setWidth 32 <<< 2

/-- `Deliver(v, ip)`: refused in protected mode; else push FLAGS, CS and `ip`, clear IF and TF, and
continue at the vector's CS:EIP (R676, R678). -/
def deliver (v : BitVec 8) (ip : BitVec 32) (s : State) : Result :=
  if s.protectedMode then .refused .protectedInterrupt
  else
    let s1 := s.pushFrame ip
    let off := s1.memRead .w16 (vectorAddr v)
    let sel := s1.memRead .w16 (vectorAddr v + 2)
    thenDo (loadSeg .cs sel s1) fun s2 => .next (s2.jumpTo (off.setWidth 32))

/-- `raise X`: delivery of the vector of X with its saved instruction pointer, the step's result being
`Delivered(v)` (R671, R675). -/
def raiseVector (v : BitVec 8) (ip : BitVec 32) (s : State) : Result :=
  thenDo (deliver v ip s) fun t => .next { t with result := some (.delivered v) }

/-- A fault saves `InstrStart`, which EIP still holds while the instruction runs (R672, R677). -/
def raiseFault (v : BitVec 8) (s : State) : Result := raiseVector v s.eip s

/-- A trap saves `NextEIP` (R672, R677). -/
def raiseTrap (v : BitVec 8) (s : State) : Result := raiseVector v s.nextEip s

/-- The return of IRET: pops the offset, the selector and the flags image (R443, R681). -/
def interruptReturn (s : State) : Result :=
  let z := s.opsz
  let off := s.popValue z
  let s1 := s.popped z
  let sel := (s1.popValue z).setWidth 16
  let s2 := s1.popped z
  let f := s2.popValue z
  let s3 := s2.popped z
  thenDo (loadSeg .cs sel s3) fun s4 =>
    .next { s4.jumpTo (off.setWidth 32) with flags := .ofImage f }

end Sys2Proof.Machine
end

