-- ==== Sys2Proof/Machine/Operands.lean ====
section
/-! DEFINITION. The effective address resolver and the operand access helpers
(`40_operand_resolver.md` rules R180 to R199), and the values of immediate fields (R138 to R140). -/

namespace Sys2Proof.Machine

/-! ### Effective addresses -/

/-- The sum of the base registers of a 16-bit form, modulo 2^16 (R181, R183). -/
def State.base16 (s : State) : Base16 → BitVec 16
  | .bxsi => s.readReg .w16 .ebx + s.readReg .w16 .esi
  | .bxdi => s.readReg .w16 .ebx + s.readReg .w16 .edi
  | .bpsi => s.readReg .w16 .ebp + s.readReg .w16 .esi
  | .bpdi => s.readReg .w16 .ebp + s.readReg .w16 .edi
  | .si => s.readReg .w16 .esi
  | .di => s.readReg .w16 .edi
  | .bp => s.readReg .w16 .ebp
  | .bx => s.readReg .w16 .ebx

/-- The displacement of a 16-bit form (R136, R181). -/
def disp16 : Disp16 → BitVec 16
  | .none => 0
  | .d8 d => d.signExtend 16
  | .d16 d => d

/-- The displacement of a 32-bit form (R136, R185). -/
def disp32 : Disp32 → BitVec 32
  | .none => 0
  | .d8 d => d.signExtend 32
  | .d32 d => d

/-- The shift of a SIB scale: multiplier 1, 2, 4, 8 (R186). -/
def Scale.shift : Scale → Nat
  | .x1 => 0
  | .x2 => 1
  | .x4 => 2
  | .x8 => 3

/-- The scaled index of a SIB form; the index code 4 means no index (R186). -/
def State.sibIndex (s : State) (sc : Scale) (index : Reg) : BitVec 32 :=
  if index = .esp then 0 else s.readReg .w32 index <<< Scale.shift sc

/-- `RMoff`: the effective offset, a 16-bit one zero-extended (R181, R183, R185, R186, R188). -/
def State.memOffset (s : State) : MemOp → BitVec 32
  | .direct16 d => d.setWidth 32
  | .based16 b d => (s.base16 b + disp16 d).setWidth 32
  | .direct32 d => d
  | .based32 b d => s.readReg .w32 b + disp32 d
  | .sib sc ix b d => s.readReg .w32 b + s.sibIndex sc ix + disp32 d
  | .sibNoBase sc ix d => s.sibIndex sc ix + d

/-- The default segment: SS whenever BP, EBP or ESP takes part as a base, else DS (R182, R187). -/
def defaultSeg : MemOp → SegReg
  | .direct16 _ => .ds
  | .based16 .bpsi _ | .based16 .bpdi _ | .based16 .bp _ => .ss
  | .based16 .bxsi _ | .based16 .bxdi _ | .based16 .si _ | .based16 .di _ | .based16 .bx _ => .ds
  | .direct32 _ => .ds
  | .based32 b _ => if b = .ebp ∨ b = .esp then .ss else .ds
  | .sib _ _ b _ => if b = .ebp ∨ b = .esp then .ss else .ds
  | .sibNoBase _ _ _ => .ds

/-- A segment-override prefix wins over a default (R189). -/
def State.overridden (s : State) (r : SegReg) : SegReg := s.pfx.seg.getD r

/-- `RMseg` (R189, R196). -/
def State.memSeg (s : State) (m : MemOp) : SegReg := s.overridden (defaultSeg m)

/-- The physical address of a memory operand, `Lin(RMseg, RMoff)` (R189). -/
def State.memAddr (s : State) (m : MemOp) : BitVec 32 := s.lin (s.memSeg m) (s.memOffset m)

/-! ### Operand access -/

/-- `ReadRM(w)` (R194). -/
def State.readRM (s : State) (w : Width) : RM → BitVec w.bits
  | .reg r => s.readReg w r
  | .mem m => s.memRead w (s.memAddr m)

/-- `WriteRM(w, v)` to the operand a memory form named in the state `e` (R195, R197). -/
def State.writeRMAt (s e : State) (w : Width) (rm : RM) (v : BitVec w.bits) : State :=
  match rm with
  | .reg r => s.writeReg w r v
  | .mem m => s.memWrite w (e.memAddr m) v

/-- `WriteRM(w, v)` (R195). -/
def State.writeRM (s : State) (w : Width) (rm : RM) (v : BitVec w.bits) : State :=
  s.writeRMAt s w rm v

/-- `immw`: an immediate of the operand size (R139). -/
def State.immw (s : State) (imm : BitVec 32) : BitVec s.opsz.bits := imm.setWidth s.opsz.bits

/-- A byte immediate sign-extended to the operand size (R138). -/
def State.immSext (s : State) (imm : BitVec 8) : BitVec s.opsz.bits := imm.signExtend s.opsz.bits

/-- The operand width of a generic word (R128). -/
def State.opw (s : State) : Width := s.opsz.width

/-- The physical address of a direct offset operand; default segment DS (R199). -/
def State.moffsAddr (s : State) (off : BitVec 32) : BitVec 32 := s.lin (s.overridden .ds) off

end Sys2Proof.Machine
end

