-- ==== Sys2Proof/Machine/Alu.lean ====
section
/-! DEFINITION. The two-operand ALU group, TEST, INC, DEC, NOT and NEG (`43_arithmetic_logic.md` rules
R330 to R343). -/

namespace Sys2Proof.Machine

/-- The operands of a two-operand form: the width, the place the first operand comes from, and both
values (R330). -/
structure AluArgs where
  w : Width
  dst : RM
  a : BitVec w.bits
  b : BitVec w.bits

/-- The operands of the nine encodings (R330). -/
def State.aluArgs (s : State) : AluForm → AluArgs
  | .rmbRb rm r => ⟨.w8, rm, s.readRM .w8 rm, s.readReg .w8 r⟩
  | .rmwRw rm r => ⟨s.opw, rm, s.readRM s.opw rm, s.readReg s.opw r⟩
  | .rbRmb r rm => ⟨.w8, .reg r, s.readReg .w8 r, s.readRM .w8 rm⟩
  | .rwRmw r rm => ⟨s.opw, .reg r, s.readReg s.opw r, s.readRM s.opw rm⟩
  | .alIb imm => ⟨.w8, .reg .eax, s.readReg .w8 .eax, imm⟩
  | .axIw imm => ⟨s.opw, .reg .eax, s.readReg s.opw .eax, s.immw imm⟩
  | .rmbIb rm imm => ⟨.w8, rm, s.readRM .w8 rm, imm⟩
  | .rmwIw rm imm => ⟨s.opw, rm, s.readRM s.opw rm, s.immw imm⟩
  | .rmwIb rm imm => ⟨s.opw, rm, s.readRM s.opw rm, s.immSext imm⟩

/-- The operands of TEST (R339). -/
def State.testArgs (s : State) : TestForm → AluArgs
  | .rmbRb rm r => ⟨.w8, rm, s.readRM .w8 rm, s.readReg .w8 r⟩
  | .rmwRw rm r => ⟨s.opw, rm, s.readRM s.opw rm, s.readReg s.opw r⟩
  | .alIb imm => ⟨.w8, .reg .eax, s.readReg .w8 .eax, imm⟩
  | .axIw imm => ⟨s.opw, .reg .eax, s.readReg s.opw .eax, s.immw imm⟩
  | .rmbIb rm imm => ⟨.w8, rm, s.readRM .w8 rm, imm⟩
  | .rmwIw rm imm => ⟨s.opw, rm, s.readRM s.opw rm, s.immw imm⟩

/-- Writes a result and the flags, and retires: `r` goes to the place the first operand came from
(R330). -/
def State.finishRM (s : State) (w : Width) (dst : RM) (out : BitVec w.bits × Flags) : Result :=
  done ({ s with flags := out.2 }.writeRM w dst out.1)

/-- The template of the two-operand operations but CMP (R330). -/
def aluWrite (op : ∀ {n : Nat}, Flags → BitVec n → BitVec n → BitVec n × Flags) (f : AluForm)
    (s : State) : Result :=
  let x := s.aluArgs f
  s.finishRM x.w x.dst (op s.flags x.a x.b)

/-- A logic operation's result and flags (R332, R335, R337). -/
def logicOut {n : Nat} (f : Flags) (r : BitVec n) : BitVec n × Flags := (r, flagsLogic f r)

/-- ADD (R331). -/
def execAdd (f : AluForm) (s : State) : Result := aluWrite (fun fl a b => flagsAdd fl a b false) f s

/-- OR (R332). -/
def execOr (f : AluForm) (s : State) : Result := aluWrite (fun fl a b => logicOut fl (a ||| b)) f s

/-- ADC, with CF as it was before the instruction (R333). -/
def execAdc (f : AluForm) (s : State) : Result := aluWrite (fun fl a b => flagsAdd fl a b fl.CF) f s

/-- SBB, with CF as it was before the instruction (R334). -/
def execSbb (f : AluForm) (s : State) : Result := aluWrite (fun fl a b => flagsSub fl a b fl.CF) f s

/-- AND (R335). -/
def execAnd (f : AluForm) (s : State) : Result := aluWrite (fun fl a b => logicOut fl (a &&& b)) f s

/-- SUB (R336). -/
def execSub (f : AluForm) (s : State) : Result := aluWrite (fun fl a b => flagsSub fl a b false) f s

/-- XOR (R337). -/
def execXor (f : AluForm) (s : State) : Result := aluWrite (fun fl a b => logicOut fl (a ^^^ b)) f s

/-- CMP: the flags of a subtraction, nothing else written (R338). -/
def execCmp (f : AluForm) (s : State) : Result :=
  let x := s.aluArgs f
  done { s with flags := (flagsSub s.flags x.a x.b false).2 }

/-- TEST: the flags of an AND, nothing else written (R339). -/
def execTest (f : TestForm) (s : State) : Result :=
  let x := s.testArgs f
  done { s with flags := flagsLogic s.flags (x.a &&& x.b) }

/-- The width and the operand of INC and DEC (R340). -/
def State.stepArg (s : State) : StepForm → Width × RM
  | .rw r => (s.opw, .reg r)
  | .rmb rm => (.w8, rm)
  | .rmw rm => (s.opw, rm)

/-- INC (R340). -/
def execInc (f : StepForm) (s : State) : Result :=
  let x := s.stepArg f
  s.finishRM x.1 x.2 (flagsInc s.flags (s.readRM x.1 x.2))

/-- DEC (R341). -/
def execDec (f : StepForm) (s : State) : Result :=
  let x := s.stepArg f
  s.finishRM x.1 x.2 (flagsDec s.flags (s.readRM x.1 x.2))

/-- The width and the operand of a group-3 operation (R342 to R345, R348, R349). -/
def State.unaryArg (s : State) : UnaryForm → Width × RM
  | .rmb rm => (.w8, rm)
  | .rmw rm => (s.opw, rm)

/-- NOT: no flag changes (R342). -/
def execNot (f : UnaryForm) (s : State) : Result :=
  let x := s.unaryArg f
  done (s.writeRM x.1 x.2 (~~~(s.readRM x.1 x.2)))

/-- NEG (R343). -/
def execNeg (f : UnaryForm) (s : State) : Result :=
  let x := s.unaryArg f
  s.finishRM x.1 x.2 (flagsNeg s.flags (s.readRM x.1 x.2))

end Sys2Proof.Machine
end

