-- ==== Sys2Proof/Machine/MulDiv.lean ====
section
/-! DEFINITION. The multiplies and divides (`43_arithmetic_logic.md` rules R344 to R349). -/

namespace Sys2Proof.Machine

/-- Writes the low `2w` bits of a product: AX at width 8, else the low half to AX or EAX and the high
half to DX or EDX (R344). -/
def State.writeProduct (s : State) (w : Width) (p : Int) : State :=
  match w with
  | .w8 => s.writeReg .w16 .eax (BitVec.ofInt 16 p)
  | .w16 => (s.writeReg .w16 .eax (BitVec.ofInt 16 p)).writeReg .w16 .edx (BitVec.ofInt 16 (p / 2 ^ 16))
  | .w32 => (s.writeReg .w32 .eax (BitVec.ofInt 32 p)).writeReg .w32 .edx (BitVec.ofInt 32 (p / 2 ^ 32))

/-- MUL: CF and OF say whether the upper half is non-zero (R344, R229). -/
def execMul (f : UnaryForm) (s : State) : Result :=
  let x := s.unaryArg f
  let p := (s.readReg x.1 .eax).toNat * (s.readRM x.1 x.2).toNat
  done { s.writeProduct x.1 p with flags := flagsMul s.flags (decide (2 ^ x.1.bits ≤ p)) }

/-- A product does not fit a signed number of `n` bits (R345 to R347). -/
def signedLoss (n : Nat) (p : Int) : Bool := p != (BitVec.ofInt n p).toInt

/-- IMUL with one operand (R345). -/
def imulWide (w : Width) (rm : RM) (s : State) : Result :=
  let p := (s.readReg w .eax).toInt * (s.readRM w rm).toInt
  done { s.writeProduct w p with flags := flagsMul s.flags (signedLoss w.bits p) }

/-- IMUL into a register: the product modulo `2^w` (R346, R347). -/
def imulReg (w : Width) (r : Reg) (a b : BitVec w.bits) (s : State) : Result :=
  let p := a.toInt * b.toInt
  done { s.writeReg w r (BitVec.ofInt w.bits p) with
    flags := flagsMul s.flags (signedLoss w.bits p) }

/-- IMUL (R345 to R347). -/
def execImul (f : ImulForm) (s : State) : Result :=
  match f with
  | .rmb rm => imulWide .w8 rm s
  | .rmw rm => imulWide s.opw rm s
  | .rwRmw r rm => imulReg s.opw r (s.readReg s.opw r) (s.readRM s.opw rm) s
  | .rwRmwIw r rm imm => imulReg s.opw r (s.readRM s.opw rm) (s.immw imm) s
  | .rwRmwIb r rm imm => imulReg s.opw r (s.readRM s.opw rm) (s.immSext imm) s

/-- The `2w`-bit dividend: AX, DX:AX or EDX:EAX (R348). -/
def State.dividend (s : State) : (w : Width) → BitVec (2 * w.bits)
  | .w8 => s.readReg .w16 .eax
  | .w16 => s.readReg .w16 .edx ++ s.readReg .w16 .eax
  | .w32 => s.readReg .w32 .edx ++ s.readReg .w32 .eax

/-- Writes quotient and remainder: AL and AH (code 4 at width 8), else the accumulator and DX or EDX
(R348). -/
def State.writeQuotient (s : State) (w : Width) (q r : BitVec w.bits) : State :=
  match w with
  | .w8 => (s.writeReg .w8 .eax q).writeReg .w8 .esp r
  | .w16 => (s.writeReg .w16 .eax q).writeReg .w16 .edx r
  | .w32 => (s.writeReg .w32 .eax q).writeReg .w32 .edx r

/-- Divide error, vector 0, a fault (R672). -/
def divideError (s : State) : Result := raiseFault 0 s

/-- DIV: the flags are unchanged (R348). -/
def execDiv (f : UnaryForm) (s : State) : Result :=
  let x := s.unaryArg f
  let n := (s.dividend x.1).toNat
  let d := (s.readRM x.1 x.2).toNat
  if d = 0 ∨ 2 ^ x.1.bits ≤ n / d then divideError s
  else done (s.writeQuotient x.1 (BitVec.ofNat _ (n / d)) (BitVec.ofNat _ (n % d)))

/-- IDIV: the quotient is truncated toward zero, the remainder has the dividend's sign; the flags are
unchanged (R349). -/
def execIdiv (f : UnaryForm) (s : State) : Result :=
  let x := s.unaryArg f
  let n := (s.dividend x.1).toInt
  let d := (s.readRM x.1 x.2).toInt
  let q := n.tdiv d
  if d = 0 ∨ q < -(2 ^ (x.1.bits - 1)) ∨ (2 ^ (x.1.bits - 1) : Int) ≤ q then divideError s
  else done (s.writeQuotient x.1 (BitVec.ofInt _ q) (BitVec.ofInt _ (n.tmod d)))

end Sys2Proof.Machine
end

