-- ==== Sys2Proof/Machine/Bcd.lean ====
section
/-! DEFINITION. The six BCD adjust instructions (`43_arithmetic_logic.md` rules R350 to R355). Register
code 4 at width 8 is AH (R21). -/

namespace Sys2Proof.Machine

/-- AL. -/
def State.al (s : State) : BitVec 8 := s.readReg .w8 .eax

/-- AH. -/
def State.ah (s : State) : BitVec 8 := s.readReg .w8 .esp

/-- The low nibble of AL is above 9, or AF is set (R350 to R353). -/
def State.nibbleAdjust (s : State) : Bool := decide (9 < s.al &&& 0x0F) || s.flags.AF

/-- AL is above 0x99, or CF is set (R350, R351). -/
def State.byteAdjust (s : State) : Bool := decide (0x99 < s.al) || s.flags.CF

/-- DAA: OF is unchanged (R350). -/
def execDaa (s : State) : Result :=
  let al1 := if s.nibbleAdjust then s.al + 6 else s.al
  let al2 := if s.byteAdjust then al1 + 0x60 else al1
  done { s.writeReg .w8 .eax al2 with
    flags := { s.flags.setSZP al2 with AF := s.nibbleAdjust, CF := s.byteAdjust } }

/-- DAS: CF keeps the value the first test gave it when the second fails; OF is unchanged (R351). -/
def execDas (s : State) : Result :=
  let borrow := s.nibbleAdjust && (s.flags.CF || decide (s.al < 6))
  let al1 := if s.nibbleAdjust then s.al - 6 else s.al
  let al2 := if s.byteAdjust then al1 - 0x60 else al1
  done { s.writeReg .w8 .eax al2 with
    flags := { s.flags.setSZP al2 with AF := s.nibbleAdjust, CF := borrow || s.byteAdjust } }

/-- AAA: AL and AH are adjusted separately; OF, SF, ZF, PF are unchanged (R352). -/
def execAaa (s : State) : Result :=
  let al1 := if s.nibbleAdjust then s.al + 6 else s.al
  let ah1 := if s.nibbleAdjust then s.ah + 1 else s.ah
  done { (s.writeReg .w8 .eax (al1 &&& 0x0F)).writeReg .w8 .esp ah1 with
    flags := { s.flags with AF := s.nibbleAdjust, CF := s.nibbleAdjust } }

/-- AAS: as AAA, subtracting (R353). -/
def execAas (s : State) : Result :=
  let al1 := if s.nibbleAdjust then s.al - 6 else s.al
  let ah1 := if s.nibbleAdjust then s.ah - 1 else s.ah
  done { (s.writeReg .w8 .eax (al1 &&& 0x0F)).writeReg .w8 .esp ah1 with
    flags := { s.flags with AF := s.nibbleAdjust, CF := s.nibbleAdjust } }

/-- AAM: an immediate of 0 is a divide error; CF, OF, AF are unchanged (R354). -/
def execAam (imm : BitVec 8) (s : State) : Result :=
  if imm = 0 then divideError s
  else
    let q := s.al / imm
    let r := s.al % imm
    done { (s.writeReg .w8 .esp q).writeReg .w8 .eax r with flags := s.flags.setSZP r }

/-- AAD: CF, OF, AF are unchanged (R355). -/
def execAad (imm : BitVec 8) (s : State) : Result :=
  let r := s.al + s.ah * imm
  done { (s.writeReg .w8 .eax r).writeReg .w8 .esp 0 with flags := s.flags.setSZP r }

end Sys2Proof.Machine
end

