-- ==== Sys2Proof/Machine/Shift.lean ====
section
/-! DEFINITION. The group-2 shifts and rotates and the double shifts (`44_shift_rotate_bit.md` rules
R380 to R391, `41_flags_engine.md` rules R230 to R234). -/

namespace Sys2Proof.Machine

/-- The seven group-2 operations (R380). -/
inductive ShiftKind
  | rol
  | ror
  | rcl
  | rcr
  | shl
  | shr
  | sar
  deriving DecidableEq, Repr

/-- A bit as the top bit of `n` bits. -/
def topBit (n : Nat) (b : Bool) : BitVec n := (BitVec.ofBool b).setWidth n <<< (n - 1)

/-- A bit as the low bit of `n` bits. -/
def lowBit (n : Nat) (b : Bool) : BitVec n := (BitVec.ofBool b).setWidth n

/-- The single-bit step of an operation on the value and CF (R380). -/
def ShiftKind.step {n : Nat} (k : ShiftKind) (x : BitVec n × Bool) : BitVec n × Bool :=
  let v := x.1
  match k with
  | .rol => (v <<< 1 ||| lowBit n v.msb, v.msb)
  | .ror => (v >>> 1 ||| topBit n (v.getLsbD 0), v.getLsbD 0)
  | .rcl => (v <<< 1 ||| lowBit n x.2, v.msb)
  | .rcr => (v >>> 1 ||| topBit n x.2, v.getLsbD 0)
  | .shl => (v <<< 1, v.msb)
  | .shr => (v >>> 1, v.getLsbD 0)
  | .sar => (v >>> 1 ||| topBit n v.msb, v.getLsbD 0)

/-- The number of single-bit steps: the count masked to 5 bits, for RCL and RCR further modulo `w + 1`
(R230, R231). -/
def ShiftKind.steps (k : ShiftKind) (w : Nat) (count : BitVec 8) : Nat :=
  let c := count.toNat % 32
  match k with
  | .rcl | .rcr => c % (w + 1)
  | .rol | .ror | .shl | .shr | .sar => c

/-- OF after a count of 1: `a` the operand, `r` the result (R233). -/
def ShiftKind.overflow {n : Nat} (k : ShiftKind) (a r : BitVec n) (cf : Bool) : Bool :=
  match k with
  | .rol | .rcl | .shl => r.msb ^^ cf
  | .ror | .rcr => r.msb ^^ r.getLsbD (n - 2)
  | .shr => a.msb
  | .sar => false

/-- SF, ZF and PF: written by the shifts, left alone by the rotates (R234). -/
def ShiftKind.resultFlags {n : Nat} (k : ShiftKind) (f : Flags) (r : BitVec n) : Flags :=
  match k with
  | .shl | .shr | .sar => f.setSZP r
  | .rol | .ror | .rcl | .rcr => f

/-- The result and the flags of at least one step (R380). -/
def ShiftKind.out {n : Nat} (k : ShiftKind) (f : Flags) (a : BitVec n) (steps : Nat) :
    BitVec n × Flags :=
  let (r, cf) := (ShiftKind.step k)^[steps] (a, f.CF)
  (r, { k.resultFlags f r with
    CF := cf
    OF := if steps = 1 then k.overflow a r cf else f.OF })

/-- CL. -/
def State.cl (s : State) : BitVec 8 := s.readReg .w8 .ecx

/-- The width, the operand and the count of the six encodings (R380). -/
def State.shiftArgs (s : State) : ShiftForm → Width × RM × BitVec 8
  | .rmbIb rm imm => (.w8, rm, imm)
  | .rmwIb rm imm => (s.opw, rm, imm)
  | .rmbOne rm => (.w8, rm, 1)
  | .rmwOne rm => (s.opw, rm, 1)
  | .rmbCl rm => (.w8, rm, s.cl)
  | .rmwCl rm => (s.opw, rm, s.cl)

/-- The common execution: no step, nothing written (R380). -/
def shiftExec (k : ShiftKind) (f : ShiftForm) (s : State) : Result :=
  let x := s.shiftArgs f
  let n := k.steps x.1.bits x.2.2
  if n = 0 then done s
  else s.finishRM x.1 x.2.1 (k.out s.flags (s.readRM x.1 x.2.1) n)

/-- ROL (R381). -/
def execRol (f : ShiftForm) (s : State) : Result := shiftExec .rol f s

/-- ROR (R382). -/
def execRor (f : ShiftForm) (s : State) : Result := shiftExec .ror f s

/-- RCL (R383). -/
def execRcl (f : ShiftForm) (s : State) : Result := shiftExec .rcl f s

/-- RCR (R384). -/
def execRcr (f : ShiftForm) (s : State) : Result := shiftExec .rcr f s

/-- SHL (R385). -/
def execShl (f : ShiftForm) (s : State) : Result := shiftExec .shl f s

/-- SHR (R386). -/
def execShr (f : ShiftForm) (s : State) : Result := shiftExec .shr f s

/-- SAR (R387). -/
def execSar (f : ShiftForm) (s : State) : Result := shiftExec .sar f s

/-- The operand, the source register and the count of SHLD and SHRD (R390). -/
def State.doubleShiftArgs (s : State) : DoubleShiftForm → RM × Reg × BitVec 8
  | .ib rm r imm => (rm, r, imm)
  | .cl rm r => (rm, r, s.cl)

/-- The pattern `a ++ b ++ a` the double shifts select from (R390, R391). -/
def doubleShiftBits {n : Nat} (a b : BitVec n) : BitVec (n + n + n) := a ++ b ++ a

/-- SHLD's result and CF for a count of at least 1 (R390). -/
def shldBits {n : Nat} (a b : BitVec n) (c : Nat) : BitVec n × Bool :=
  ((doubleShiftBits a b).extractLsb' (2 * n - c) n, (doubleShiftBits a b).getLsbD (3 * n - c))

/-- SHRD's result and CF for a count of at least 1 (R391). -/
def shrdBits {n : Nat} (a b : BitVec n) (c : Nat) : BitVec n × Bool :=
  ((doubleShiftBits a b).extractLsb' c n, (doubleShiftBits a b).getLsbD (c - 1))

/-- The common execution of the double shifts: a masked count of 0 writes nothing; OF is written at
count 1 only, AF never (R390, R391). -/
def doubleShiftExec (bits : ∀ {n : Nat}, BitVec n → BitVec n → Nat → BitVec n × Bool)
    (f : DoubleShiftForm) (s : State) : Result :=
  let x := s.doubleShiftArgs f
  let c := x.2.2.toNat % 32
  if c = 0 then done s
  else
    let a := s.readRM s.opw x.1
    let out := bits a (s.readReg s.opw x.2.1) c
    s.finishRM s.opw x.1 (out.1, { s.flags.setSZP out.1 with
      CF := out.2
      OF := if c = 1 then out.1.msb ^^ a.msb else s.flags.OF })

/-- SHLD (R390). -/
def execShld (f : DoubleShiftForm) (s : State) : Result := doubleShiftExec shldBits f s

/-- SHRD (R391). -/
def execShrd (f : DoubleShiftForm) (s : State) : Result := doubleShiftExec shrdBits f s

end Sys2Proof.Machine
end

