-- ==== Sys2Proof/Machine/BitOps.lean ====
section
/-! DEFINITION. The bit tests and bit scans (`44_shift_rotate_bit.md` rules R392 to R398). -/

namespace Sys2Proof.Machine

/-- Where the word a bit test reads stands. -/
inductive BitPlace
  | reg (r : Reg)
  | phys (a : BitVec 32)
  deriving DecidableEq, Repr

/-- The place and the bit number of a bit test; a register offset reaches bits outside the addressed
word of memory, the address wrapping in `adsz` bits (R396). -/
def State.bitTarget (s : State) : BitForm → BitPlace × Nat
  | .rmwRw (.reg rm) r => (.reg rm, (s.readReg s.opw r).toNat % s.opsz.bits)
  | .rmwRw (.mem m) r =>
    let off := (s.readReg s.opw r).toInt
    let words := off / (s.opsz.bits : Int)
    let ea := BitVec.ofInt s.adsz.bits ((s.memOffset m).toNat + (s.opsz.bytes : Int) * words)
    (.phys (s.lin (s.memSeg m) (ea.setWidth 32)), (off % (s.opsz.bits : Int)).toNat)
  | .rmwIb (.reg rm) imm => (.reg rm, imm.toNat % s.opsz.bits)
  | .rmwIb (.mem m) imm => (.phys (s.memAddr m), imm.toNat % s.opsz.bits)

/-- The word at a place. -/
def State.readPlace (s : State) : BitPlace → BitVec s.opw.bits
  | .reg r => s.readReg s.opw r
  | .phys a => s.memRead s.opw a

/-- Writes a word back to its place. -/
def State.writePlace (s : State) (w : Width) (p : BitPlace) (v : BitVec w.bits) : State :=
  match p with
  | .reg r => s.writeReg w r v
  | .phys a => s.memWrite w a v

/-- CF receives the old bit; the other flags are unchanged (R396). -/
def State.setCF (s : State) (b : Bool) : State := { s with flags := { s.flags with CF := b } }

/-- The bit tests that write: the whole word goes back, even when the bit does not change (R396). -/
def bitModify (change : ∀ {n : Nat}, BitVec n → BitVec n → BitVec n) (f : BitForm) (s : State) :
    Result :=
  let t := s.bitTarget f
  let word := s.readPlace t.1
  let mask : BitVec s.opw.bits := 1#_ <<< t.2
  done ((s.writePlace s.opw t.1 (change word mask)).setCF (word.getLsbD t.2))

/-- BT (R392). -/
def execBt (f : BitForm) (s : State) : Result :=
  let t := s.bitTarget f
  done (s.setCF ((s.readPlace t.1).getLsbD t.2))

/-- BTS (R393). -/
def execBts (f : BitForm) (s : State) : Result := bitModify (fun word mask => word ||| mask) f s

/-- BTR (R394). -/
def execBtr (f : BitForm) (s : State) : Result := bitModify (fun word mask => word &&& ~~~mask) f s

/-- BTC (R395). -/
def execBtc (f : BitForm) (s : State) : Result := bitModify (fun word mask => word ^^^ mask) f s

/-- The least number below `n` whose bit is set, `n` if there is none (R397). -/
def lowestBit {n : Nat} (v : BitVec n) : Nat := ((List.range n).find? fun i => v.getLsbD i).getD n

/-- The greatest number below `n` whose bit is set, `n` if there is none (R398). -/
def highestBit {n : Nat} (v : BitVec n) : Nat :=
  ((List.range n).reverse.find? fun i => v.getLsbD i).getD n

/-- ZF alone. -/
def State.setZF (s : State) (b : Bool) : State := { s with flags := { s.flags with ZF := b } }

/-- A bit scan: a zero source sets ZF and leaves the destination, else ZF is cleared and the register
gets the bit number; the other flags are unchanged (R397, R398). -/
def bitScan (find : ∀ {n : Nat}, BitVec n → Nat) (r : Reg) (rm : RM) (s : State) : Result :=
  let v := s.readRM s.opw rm
  if v = 0 then done (s.setZF true)
  else done ((s.writeReg s.opw r (BitVec.ofNat _ (find v))).setZF false)

/-- BSF (R397). -/
def execBsf (r : Reg) (rm : RM) (s : State) : Result := bitScan lowestBit r rm s

/-- BSR (R398). -/
def execBsr (r : Reg) (rm : RM) (s : State) : Result := bitScan highestBit r rm s

end Sys2Proof.Machine
end

