-- ==== Sys2Proof/Machine/Float.lean ====
section
/-! DEFINITION. Binary floating point (`48_fpu_data_control.md` rules R534 to R536,
`49_fpu_arithmetic.md` rules R600, R643 to R648): every operation reads its patterns as exact
values, computes exactly on integers, and rounds once. -/

namespace Sys2Proof.Machine

/-- The value of a floating-point pattern: `fin neg m e` is `m * 2^e`, negated if `neg`. -/
inductive FVal
  | nan
  | inf (neg : Bool)
  | fin (neg : Bool) (m : Nat) (e : Int)
  deriving DecidableEq, Repr

/-- A binary interchange format: the number of fraction bits, the exponent of the unit in the last
place of a subnormal, and the pattern of infinity without its sign. -/
structure FFormat where
  frac : Nat
  emin : Int
  infinity : Nat
  deriving DecidableEq, Repr

/-- IEEE 754 binary64. -/
def FFormat.f64 : FFormat := ⟨52, -1074, 0x7FF0000000000000⟩

/-- IEEE 754 binary32. -/
def FFormat.f32 : FFormat := ⟨23, -149, 0x7F800000⟩

/-! ### Rounding to nearest, ties to even -/

/-- `m / 2^k` rounded to the nearest integer, a tie going to the even one. -/
def roundShift (m k : Nat) : Nat :=
  if k = 0 then m
  else
    let q := m >>> k
    let r := m % 2 ^ k
    let half := 2 ^ (k - 1)
    if half < r ∨ (r = half ∧ q % 2 = 1) then q + 1 else q

/-- `m * 2^e` rounded to a format, as the pattern without its sign: to nearest, ties to even,
overflow to infinity, underflow to subnormals or zero (R534, R600(a)). -/
def FFormat.round (f : FFormat) (m : Nat) (e : Int) : Nat :=
  if m = 0 then 0
  else
    let p := Nat.log2 m + 1
    let q := max (e + p - 1 - f.frac) f.emin
    let shift := q - e
    let sig :=
      if shift ≤ 0 then m <<< (-shift).toNat
      else if (p : Int) < shift then 0
      else roundShift m shift.toNat
    min ((q - f.emin).toNat * 2 ^ f.frac + sig) f.infinity

/-- A binary64 pattern from its sign and the rest. -/
def signed64 (neg : Bool) (mag : Nat) : F64 := BitVec.ofBool neg ++ BitVec.ofNat 63 mag

/-- `±m * 2^e` rounded to binary64, nearest even. -/
def round64 (neg : Bool) (m : Nat) (e : Int) : F64 := signed64 neg (FFormat.f64.round m e)

/-! ### Patterns -/

/-- The sign bit of a binary64 pattern (R45). -/
def F64.sign (x : F64) : Bool := x.msb

/-- The exponent field (R45). -/
def F64.expo (x : F64) : Nat := (x.extractLsb' 52 11).toNat

/-- The fraction field (R45). -/
def F64.fraction (x : F64) : Nat := (x.extractLsb' 0 52).toNat

/-- The value of a binary64 pattern (R45, R56). -/
def F64.val (x : F64) : FVal :=
  if F64.expo x = 0x7FF then (if F64.fraction x = 0 then .inf (F64.sign x) else .nan)
  else if F64.expo x = 0 then .fin (F64.sign x) (F64.fraction x) (-1074)
  else .fin (F64.sign x) (F64.fraction x + 2 ^ 52) ((F64.expo x : Int) - 1075)

/-- The value class of a binary64 pattern (R56). -/
inductive FClass
  | zero
  | subnormal
  | normal
  | infinity
  | nan
  deriving DecidableEq, Repr

/-- The value class of a binary64 pattern (R56). -/
def F64.cls (x : F64) : FClass :=
  if F64.expo x = 0 then (if F64.fraction x = 0 then .zero else .subnormal)
  else if F64.expo x = 0x7FF then (if F64.fraction x = 0 then .infinity else .nan)
  else .normal

/-- +0.0. -/
def f64Zero : F64 := 0x0000000000000000

/-- 1.0. -/
def f64One : F64 := 0x3FF0000000000000

/-- An infinity. -/
def f64Inf (neg : Bool) : F64 := signed64 neg FFormat.f64.infinity

/-- `NAN_POLICY(op, a, b)` at the spec's default: the fixed quiet NaN for every case (R7, R600(b);
DESIGN CHOICE, unsafe: log entry 7). -/
def nanPolicy (_op : FpOp) (_a _b : F64) : F64 := 0xFFF8000000000000

/-- The binary64 result of an operation whose exact value is known: rounded to nearest even, a NaN
chosen by the policy (R600(a), (b)). -/
def packResult (op : FpOp) (a b : F64) : FVal → F64
  | .nan => nanPolicy op a b
  | .inf s => f64Inf s
  | .fin s m e => round64 s m e

/-! ### Exact arithmetic on values -/

/-- The opposite value. -/
def FVal.neg : FVal → FVal
  | .nan => .nan
  | .inf s => .inf !s
  | .fin s m e => .fin (!s) m e

/-- A finite value in units of `2^u`, for `u` at most its exponent. -/
def unitsAt (u : Int) (neg : Bool) (m : Nat) (e : Int) : Int :=
  let n : Int := m * 2 ^ (e - u).toNat
  if neg then -n else n

/-- The exact sum; `∞ - ∞` is a NaN, and a zero sum is -0 only when both operands are negative
(R600(a), (b)). -/
def FVal.add : FVal → FVal → FVal
  | .nan, _ => .nan
  | _, .nan => .nan
  | .inf s, .inf t => if s = t then .inf s else .nan
  | .inf s, .fin _ _ _ => .inf s
  | .fin _ _ _, .inf t => .inf t
  | .fin s m e, .fin t n d =>
    let u := min e d
    let sum := unitsAt u s m e + unitsAt u t n d
    .fin (if sum = 0 then s && t else decide (sum < 0)) sum.natAbs u

/-- The exact product; `0 * ∞` is a NaN (R600(a), (b)). -/
def FVal.mul : FVal → FVal → FVal
  | .nan, _ => .nan
  | _, .nan => .nan
  | .inf s, .inf t => .inf (s ^^ t)
  | .inf s, .fin t n _ => if n = 0 then .nan else .inf (s ^^ t)
  | .fin s m _, .inf t => if m = 0 then .nan else .inf (s ^^ t)
  | .fin s m e, .fin t n d => .fin (s ^^ t) (m * n) (e + d)

/-- A number with one extra low bit that is set when something below it was dropped: rounding to a
format is not changed by the rest. -/
def withSticky (q : Nat) (inexact : Bool) : Nat := 2 * q + inexact.toNat

/-- The quotient, to more bits than the format holds and a sticky bit; `0/0` and `∞/∞` are NaNs, a
non-zero value over 0 is an infinity (R600(a), (b)). -/
def FVal.div : FVal → FVal → FVal
  | .nan, _ => .nan
  | _, .nan => .nan
  | .inf _, .inf _ => .nan
  | .inf s, .fin t _ _ => .inf (s ^^ t)
  | .fin s _ _, .inf t => .fin (s ^^ t) 0 0
  | .fin s m e, .fin t n d =>
    if n = 0 then (if m = 0 then .nan else .inf (s ^^ t))
    else
      let q := (m <<< 110) / n
      .fin (s ^^ t) (withSticky q ((m <<< 110) % n != 0)) (e - d - 111)

/-- The integer square root below `2^k` added to the root found so far, bit by bit. -/
def isqrtLoop (n : Nat) : Nat → Nat → Nat
  | 0, r => r
  | k + 1, r => isqrtLoop n k (if (r + 2 ^ k) * (r + 2 ^ k) ≤ n then r + 2 ^ k else r)

/-- The integer square root of a number below `2^166`. -/
def isqrt (n : Nat) : Nat := isqrtLoop n 83 0

/-- The square root, to more bits than the format holds and a sticky bit (R643). -/
def FVal.sqrt : FVal → FVal
  | .nan => .nan
  | .inf s => if s then .nan else .inf false
  | .fin s m e =>
    if m = 0 then .fin s 0 0
    else if s then .nan
    else
      let k : Nat := if e % 2 = 0 then 110 else 111
      let n := m <<< k
      let r := isqrt n
      .fin false (withSticky r (r * r != n)) ((e - k) / 2 - 1)

/-- The order of two values, none when one is a NaN; zeros are equal whatever their signs (R620). -/
def FVal.cmp : FVal → FVal → Option Ordering
  | .nan, _ => none
  | _, .nan => none
  | .inf s, .inf t => some (if s = t then .eq else if s then .lt else .gt)
  | .inf s, .fin _ _ _ => some (if s then .lt else .gt)
  | .fin _ _ _, .inf t => some (if t then .gt else .lt)
  | .fin s m e, .fin t n d =>
    let u := min e d
    let a := unitsAt u s m e
    let b := unitsAt u t n d
    some (if a < b then .lt else if a = b then .eq else .gt)

/-! ### The operations of the block -/

/-- `a ⊕ b` (R600(a)). -/
def fadd64 (a b : F64) : F64 := packResult .add a b ((F64.val a).add (F64.val b))

/-- `a ⊖ b` (R600(a)). -/
def fsub64 (a b : F64) : F64 := packResult .sub a b ((F64.val a).add (F64.val b).neg)

/-- `a ⊗ b` (R600(a)). -/
def fmul64 (a b : F64) : F64 := packResult .mul a b ((F64.val a).mul (F64.val b))

/-- `a ⊘ b` (R600(a)). -/
def fdiv64 (a b : F64) : F64 := packResult .div a b ((F64.val a).div (F64.val b))

/-- `MATH.sqrt`, the correctly rounded square root (R643). -/
def fsqrt64 (a : F64) : F64 := packResult .sqrt a a (F64.val a).sqrt

/-- The magnitude of `RoundToInt` of `±m * 2^e` (R535): `rc` = 0 nearest even, 1 toward -∞, 2 toward
+∞, 3 toward zero. -/
def roundIntMag (rc : BitVec 2) (neg : Bool) (m : Nat) (e : Int) : Nat :=
  if 0 ≤ e then m <<< e.toNat
  else
    let k := (-e).toNat
    let q := m >>> k
    let inexact := m % 2 ^ k != 0
    match rc.toNat with
    | 0 => roundShift m k
    | 1 => if neg && inexact then q + 1 else q
    | 2 => if !neg && inexact then q + 1 else q
    | _ => q

/-- `RoundToInt(x, rc)`, none when `x` is not finite (R535). -/
def roundToInt (rc : BitVec 2) (x : F64) : Option Int :=
  match F64.val x with
  | .fin s m e => some (if s then -(roundIntMag rc s m e : Int) else roundIntMag rc s m e)
  | .inf _ => none
  | .nan => none

/-- `StoreInt(x, bits)`: the rounded integer, or the integer indefinite when `x` is not finite or the
integer does not fit (R536). -/
def storeInt (rc : BitVec 2) (x : F64) (n : Nat) : BitVec n :=
  match roundToInt rc x with
  | some i =>
    if -(2 ^ (n - 1) : Int) ≤ i ∧ i < 2 ^ (n - 1) then BitVec.ofInt n i
    else BitVec.ofNat n (2 ^ (n - 1))
  | none => BitVec.ofNat n (2 ^ (n - 1))

/-- FRNDINT's result: a zero keeps the operand's sign (R644). -/
def frndint64 (rc : BitVec 2) (x : F64) : F64 :=
  match F64.val x with
  | .nan => nanPolicy .rndint x x
  | .inf _ => x
  | .fin s m e => round64 s (roundIntMag rc s m e) 0

/-- FSCALE's result (R645). -/
def fscale64 (x y : F64) : F64 :=
  packResult .scale x y <|
    match F64.val x, F64.val y with
    | .nan, _ => .nan
    | _, .nan => .nan
    | v, .inf s => if s then v.mul (.fin false 0 0) else v.mul (.inf false)
    | .inf s, .fin _ _ _ => .inf s
    | .fin s m e, .fin t n d =>
      let k : Int := roundIntMag 3 t n d
      .fin s m (if t then e - k else e + k)

/-- `IntToF64(i)` (R534). -/
def intToF64 (i : Int) : F64 := round64 (decide (i < 0)) i.natAbs 0

/-- FXTRACT's two results: the exponent, then the significand (R646). -/
def fxtract64 (x : F64) : F64 × F64 :=
  match F64.val x with
  | .nan => (nanPolicy .xtract x x, nanPolicy .xtract x x)
  | .inf _ => (f64Inf false, x)
  | .fin s m e =>
    if m = 0 then (f64Inf true, x)
    else (intToF64 (Nat.log2 m + e), round64 s m (-(Nat.log2 m : Int)))

/-- The result of FPREM or FPREM1 and, unless the operands call for a NaN, the magnitude of the
quotient (R647, R648). -/
def fremainder64 (nearest : Bool) (x y : F64) : F64 × Option Nat :=
  let bad := (nanPolicy (if nearest then .prem1 else .prem) x y, none)
  match F64.val x, F64.val y with
  | .fin _ _ _, .inf _ => (x, some 0)
  | .fin s m e, .fin _ n d =>
    if n = 0 then bad
    else
      let u := min e d
      let a := m * 2 ^ (e - u).toNat
      let b := n * 2 ^ (d - u).toNat
      let q := a / b
      let r := a % b
      if nearest && (decide (b < 2 * r) || (decide (2 * r = b) && decide (q % 2 = 1))) then
        (round64 (!s) (b - r) u, some (q + 1))
      else (round64 s r u, some q)
  | _, _ => bad

/-! ### Conversions (R534) -/

/-- `F32toF64(b)`: exact; a NaN keeps its sign and its fraction, moved to the top. -/
def f32ToF64 (b : BitVec 32) : F64 :=
  let expo := (b.extractLsb' 23 8).toNat
  let frac := (b.extractLsb' 0 23).toNat
  if expo = 0xFF then signed64 b.msb (FFormat.f64.infinity + frac * 2 ^ 29)
  else if expo = 0 then round64 b.msb frac (-149)
  else round64 b.msb (frac + 2 ^ 23) ((expo : Int) - 150)

/-- `F64toF32(x)`: to nearest, ties to even; a NaN keeps its sign and the top of its fraction, bit 22
set if that would be 0. -/
def f64ToF32 (x : F64) : BitVec 32 :=
  let mag : Nat :=
    match F64.val x with
    | .nan =>
      let frac := F64.fraction x / 2 ^ 29
      FFormat.f32.infinity + (if frac = 0 then 2 ^ 22 else frac)
    | .inf _ => FFormat.f32.infinity
    | .fin _ m e => FFormat.f32.round m e
  BitVec.ofBool (F64.sign x) ++ BitVec.ofNat 31 mag

/-- `F80toF64(e)`: to nearest, ties to even. -/
def f80ToF64 (v : BitVec 80) : F64 :=
  let expo := (v.extractLsb' 64 15).toNat
  let m := (v.extractLsb' 0 64).toNat
  if expo = 0x7FFF then
    if m % 2 ^ 63 = 0 then f64Inf v.msb
    else
      let frac := m % 2 ^ 63 / 2 ^ 11
      signed64 v.msb (FFormat.f64.infinity + (if frac = 0 then 2 ^ 51 else frac))
  else round64 v.msb m ((max expo 1 : Nat) - 16383 - 63)

/-- `F64toF80(x)`: exact. -/
def f64ToF80 (x : F64) : BitVec 80 :=
  let frac := F64.fraction x
  let (expo, m) : Nat × Nat :=
    match F64.cls x with
    | .zero => (0, 0)
    | .subnormal => (16383 - 1074 + Nat.log2 frac, frac <<< (63 - Nat.log2 frac))
    | .normal => (F64.expo x + 16383 - 1023, 2 ^ 63 + frac * 2 ^ 11)
    | .infinity => (0x7FFF, 2 ^ 63)
    | .nan => (0x7FFF, 2 ^ 63 + frac * 2 ^ 11)
  BitVec.ofBool (F64.sign x) ++ BitVec.ofNat 15 expo ++ BitVec.ofNat 64 m

/-! ### Packed BCD (R552, R553) -/

/-- The number a sequence of packed BCD bytes denotes, the low digits first; a nibble above 9 enters
with its value (R552). -/
def bcdValue : List Byte → Nat
  | [] => 0
  | b :: bs => b.toNat % 16 + 10 * (b.toNat / 16) + 100 * bcdValue bs

/-- The low `2n` decimal digits of a number as `n` packed BCD bytes (R553). -/
def bcdBytes : Nat → Nat → List Byte
  | 0, _ => []
  | n + 1, v => BitVec.ofNat 8 (v % 10 + 16 * (v / 10 % 10)) :: bcdBytes n (v / 100)

/-- The packed BCD indefinite (R553). -/
def bcdIndefinite : List Byte := [0, 0, 0, 0, 0, 0, 0, 0xC0, 0xFF, 0xFF]

/-- FBLD's value of ten bytes: bit 7 of the last is the sign, its other bits are ignored (R552). -/
def bcdToF64 (bytes : List Byte) : F64 :=
  round64 (bytes.getD 9 0).msb (bcdValue (bytes.take 9)) 0

/-- FBSTP's ten bytes: the digits of the rounded magnitude and the operand's sign (R553). -/
def f64ToBcd (rc : BitVec 2) (x : F64) : List Byte :=
  match roundToInt rc x with
  | some i =>
    if i.natAbs ≤ 10 ^ 18 - 1 then bcdBytes 9 i.natAbs ++ [if F64.sign x then 0x80 else 0x00]
    else bcdIndefinite
  | none => bcdIndefinite

end Sys2Proof.Machine
end

