-- ==== Sys2Proof/Machine/Fpu.lean ====
section
/-! DEFINITION. The FPU stack, its status and tag words, and its memory operands (`10_state.md` rules
R45 to R56, `48_fpu_data_control.md` rules R530 to R533, R575, R578). -/

namespace Sys2Proof.Machine

/-! ### Slots (R46 to R48) -/

/-- The physical slot of `ST(i)` (R48). -/
def Fpu.slot (f : Fpu) (i : StIndex) : BitVec 3 := f.FTOP + i

/-- The value of a physical slot. -/
def Fpu.reg (f : Fpu) (k : BitVec 3) : F64 := f.FPR[k.toNat]'k.isLt

/-- The used bit of a physical slot. -/
def Fpu.used (f : Fpu) (k : BitVec 3) : Bool := f.FUSED[k.toNat]'k.isLt

/-- The FPU with one slot's value replaced. -/
def Fpu.setReg (f : Fpu) (k : BitVec 3) (v : F64) : Fpu :=
  { f with FPR := f.FPR.set k.toNat v k.isLt }

/-- The FPU with one slot's used bit replaced. -/
def Fpu.setUsed (f : Fpu) (k : BitVec 3) (u : Bool) : Fpu :=
  { f with FUSED := f.FUSED.set k.toNat u k.isLt }

/-- `ST(i)` as a value; an unused slot reads as stored (R48, R533). -/
def Fpu.st (f : Fpu) (i : StIndex) : F64 := f.reg (f.slot i)

/-- `ST(i) <- v`: the used bit is left as it was (R48, R600(e)). -/
def Fpu.setSt (f : Fpu) (i : StIndex) (v : F64) : Fpu := f.setReg (f.slot i) v

/-- `FPU_PUSH_ON_USED`, at the spec's default (R7, R531; DESIGN CHOICE, unsafe: log entry 6). -/
def fpuPushOnUsed : PushOnUsed := .overwrite

/-- `FpuPush(v)` (R531). -/
def Fpu.push (f : Fpu) (v : F64) : Fpu :=
  let g := { f with FTOP := f.FTOP - 1 }
  if g.used g.FTOP then
    match fpuPushOnUsed with
    | .overwrite => g.setReg g.FTOP v
    | .keep => g
  else (g.setUsed g.FTOP true).setReg g.FTOP v

/-- `FpuPop()`: the value stays in its slot (R532). -/
def Fpu.pop (f : Fpu) : Fpu := { f.setUsed f.FTOP false with FTOP := f.FTOP + 1 }

/-- `FCW.RC` (R49). -/
def Fpu.rc (f : Fpu) : BitVec 2 := f.FCW.extractLsb' 10 2

/-! ### Status and tag words (R51, R53) -/

/-- `FSW()` (R51). -/
def Fpu.statusWord (f : Fpu) : BitVec 16 :=
  (BitVec.ofBool f.C0).setWidth 16 <<< 8 ||| (BitVec.ofBool f.C1).setWidth 16 <<< 9 |||
    (BitVec.ofBool f.C2).setWidth 16 <<< 10 ||| f.FTOP.setWidth 16 <<< 11 |||
    (BitVec.ofBool f.C3).setWidth 16 <<< 14

/-- `WriteFSW(v)` (R51). -/
def Fpu.writeStatus (f : Fpu) (v : BitVec 16) : Fpu :=
  { f with
    C0 := v.getLsbD 8
    C1 := v.getLsbD 9
    C2 := v.getLsbD 10
    FTOP := v.extractLsb' 11 3
    C3 := v.getLsbD 14 }

/-- `Tag(k)` (R53). -/
def Fpu.tag (f : Fpu) (k : BitVec 3) : BitVec 2 :=
  if f.used k then
    match F64.cls (f.reg k) with
    | .zero => 1
    | .nan | .infinity | .subnormal => 2
    | .normal => 0
  else 3

/-- `FTW()` (R53). -/
def Fpu.tagWord (f : Fpu) : BitVec 16 :=
  f.tag 7 ++ f.tag 6 ++ f.tag 5 ++ f.tag 4 ++ f.tag 3 ++ f.tag 2 ++ f.tag 1 ++ f.tag 0

/-- `WriteFTW(v)`: the used bits only (R53). -/
def Fpu.writeTags (f : Fpu) (v : BitVec 16) : Fpu :=
  { f with FUSED := Vector.ofFn fun k : Fin 8 => v.extractLsb' (2 * k.val) 2 != 3 }

/-- FNINIT's effect: slot values are unchanged (R562). -/
def Fpu.init (f : Fpu) : Fpu where
  FPR := f.FPR
  FUSED := Fpu.reset.FUSED
  FTOP := 0
  FCW := 0x037F
  C0 := false
  C1 := false
  C2 := false
  C3 := false

/-! ### Instructions -/

/-- The end of an FPU instruction that changes FPU state only (R530). -/
def fpuDone (s : State) (f : Fpu) : Result := done { s with fpu := f }

/-- An integer memory operand of 2 or 4 bytes, signed (R548, R619). -/
def State.memInt (s : State) (w : Width) (m : MemOp) : Int := (s.memRead w (s.memAddr m)).toInt

/-- An 8-byte memory operand (R530, R540). -/
def State.mem64 (s : State) (m : MemOp) : BitVec 64 :=
  BitVec.ofNat 64 (s.memReadSpan 8 (s.memAddr m))

/-- A binary32 memory operand (R540). -/
def State.memF32 (s : State) (m : MemOp) : F64 := f32ToF64 (s.memRead .w32 (s.memAddr m))

/-- Writes a value of `8 * n` bits at ascending addresses (R530). -/
def State.storeSpan (s : State) (m : MemOp) (n : Nat) (v : Nat) : State :=
  s.memWriteSpan (s.memAddr m) (leBytes n v)

/-! ### Images (R575, R578) -/

/-- The environment image (R575). -/
def Fpu.envBytes (f : Fpu) (z : Size) : List Byte :=
  match z with
  | .s16 =>
    leBytes 2 f.FCW.toNat ++ leBytes 2 f.statusWord.toNat ++ leBytes 2 f.tagWord.toNat ++
      List.replicate 8 0
  | .s32 =>
    leBytes 4 f.FCW.toNat ++ leBytes 4 f.statusWord.toNat ++ leBytes 4 f.tagWord.toNat ++
      List.replicate 16 0

/-- The size of the environment image (R575). -/
def envSize : Size → Nat
  | .s16 => 14
  | .s32 => 28

/-- The distance between the words of the environment image (R575). -/
def envStride : Size → Nat
  | .s16 => 2
  | .s32 => 4

/-- The three assignments of FLDENV from the image at an address (R577). -/
def Fpu.loadEnv (f : Fpu) (z : Size) (m : Memory) (a : BitVec 32) : Fpu :=
  let word (k : Nat) : BitVec 16 :=
    BitVec.ofNat 16 (leNat (m.readBytes (a + BitVec.ofNat 32 (k * envStride z)) 2))
  ({ f with FCW := word 0 }.writeStatus (word 1)).writeTags (word 2)

/-- The indexes of the stack, top first. -/
def stIndexes : List StIndex := [0, 1, 2, 3, 4, 5, 6, 7]

/-- The save image: the environment, then the eight values in stack order (R578). -/
def Fpu.saveBytes (f : Fpu) (z : Size) : List Byte :=
  f.envBytes z ++ stIndexes.flatMap fun i => leBytes 10 (f64ToF80 (f.st i)).toNat

/-- The eight values of a save image, written by the new top of stack (R580). -/
def Fpu.loadRegs (f : Fpu) (z : Size) (m : Memory) (a : BitVec 32) : Fpu :=
  stIndexes.foldl (fun g i =>
    let p := a + BitVec.ofNat 32 (envSize z + 10 * i.toNat)
    g.setSt i (f80ToF64 (BitVec.ofNat 80 (leNat (m.readBytes p 10))))) f

end Sys2Proof.Machine
end

