-- ==== Sys2Proof/Machine/FpuData.lean ====
section
/-! DEFINITION. FPU loads, stores, exchange, stack control, control and status words, and the images
(`48_fpu_data_control.md` rules R540 to R580). -/

namespace Sys2Proof.Machine

/-- A push, and nothing else (R531). -/
def fpuLoad (v : F64) (s : State) : Result := fpuDone s (s.fpu.push v)

/-- FLD: `ST(i)` is read before the push moves the top (R540 to R542). -/
def execFld (f : FldForm) (s : State) : Result :=
  match f with
  | .mf32 m => fpuLoad (s.memF32 m) s
  | .mf64 m => fpuLoad (s.mem64 m) s
  | .mf80 m => fpuLoad (f80ToF64 (BitVec.ofNat 80 (s.memReadSpan 10 (s.memAddr m)))) s
  | .st i => fpuLoad (s.fpu.st i) s

/-- FILD (R548). -/
def execFild (f : FildForm) (s : State) : Result :=
  match f with
  | .m16 m => fpuLoad (intToF64 (s.memInt .w16 m)) s
  | .m32 m => fpuLoad (intToF64 (s.memInt .w32 m)) s
  | .m64 m => fpuLoad (intToF64 (s.mem64 m).toInt) s

/-- FBLD (R552). -/
def execFbld (m : MemOp) (s : State) : Result :=
  fpuLoad (bcdToF64 (s.mem.readBytes (s.memAddr m) 10)) s

/-- FLD1 (R555). -/
def execFld1 (s : State) : Result := fpuLoad 0x3FF0000000000000 s

/-- FLDL2T (R556). -/
def execFldl2t (s : State) : Result := fpuLoad 0x400A934F0979A371 s

/-- FLDL2E (R557). -/
def execFldl2e (s : State) : Result := fpuLoad 0x3FF71547652B82FE s

/-- FLDPI (R558). -/
def execFldpi (s : State) : Result := fpuLoad 0x400921FB54442D18 s

/-- FLDLG2 (R559). -/
def execFldlg2 (s : State) : Result := fpuLoad 0x3FD34413509F79FF s

/-- FLDLN2 (R560). -/
def execFldln2 (s : State) : Result := fpuLoad 0x3FE62E42FEFA39EF s

/-- FLDZ (R561). -/
def execFldz (s : State) : Result := fpuLoad 0x0000000000000000 s

/-- `ST(i) <- ST(0)`, marking the slot used (R544). -/
def Fpu.copyTop (f : Fpu) (i : StIndex) : Fpu := (f.setSt i (f.st 0)).setUsed (f.slot i) true

/-- The state after a pop. -/
def State.fpuPopped (s : State) : State := { s with fpu := s.fpu.pop }

/-- Stores `ST(0)` as binary32 (R543). -/
def State.storeF32 (s : State) (m : MemOp) : State :=
  s.memWrite .w32 (s.memAddr m) (f64ToF32 (s.fpu.st 0))

/-- Stores the pattern of `ST(0)` (R543). -/
def State.storeF64 (s : State) (m : MemOp) : State := s.storeSpan m 8 (s.fpu.st 0).toNat

/-- FST (R543, R544). -/
def execFst (f : FstForm) (s : State) : Result :=
  match f with
  | .mf32 m => done (s.storeF32 m)
  | .mf64 m => done (s.storeF64 m)
  | .st i => fpuDone s (s.fpu.copyTop i)

/-- FSTP (R545 to R547). -/
def execFstp (f : FldForm) (s : State) : Result :=
  match f with
  | .mf32 m => done (s.storeF32 m).fpuPopped
  | .mf64 m => done (s.storeF64 m).fpuPopped
  | .mf80 m => done (s.storeSpan m 10 (f64ToF80 (s.fpu.st 0)).toNat).fpuPopped
  | .st i => fpuDone s (s.fpu.copyTop i).pop

/-- Stores `ST(0)` as a 2- or 4-byte integer (R549). -/
def State.storeIntW (s : State) (w : Width) (m : MemOp) : State :=
  s.memWrite w (s.memAddr m) (storeInt s.fpu.rc (s.fpu.st 0) w.bits)

/-- FIST (R549). -/
def execFist (f : FistForm) (s : State) : Result :=
  match f with
  | .m16 m => done (s.storeIntW .w16 m)
  | .m32 m => done (s.storeIntW .w32 m)

/-- FISTP (R550). -/
def execFistp (f : FildForm) (s : State) : Result :=
  match f with
  | .m16 m => done (s.storeIntW .w16 m).fpuPopped
  | .m32 m => done (s.storeIntW .w32 m).fpuPopped
  | .m64 m => done (s.storeSpan m 8 (storeInt s.fpu.rc (s.fpu.st 0) 64).toNat).fpuPopped

/-- FBSTP (R553). -/
def execFbstp (m : MemOp) (s : State) : Result :=
  done (s.memWriteSpan (s.memAddr m) (f64ToBcd s.fpu.rc (s.fpu.st 0))).fpuPopped

/-- FXCH: the values and the used bits are swapped (R554). -/
def execFxch (i : StIndex) (s : State) : Result :=
  let f := s.fpu
  let k := f.slot i
  let g := (f.setSt 0 (f.st i)).setSt i (f.st 0)
  fpuDone s ((g.setUsed f.FTOP (f.used k)).setUsed k (f.used f.FTOP))

/-- FINCSTP (R568). -/
def execFincstp (s : State) : Result := fpuDone s { s.fpu with FTOP := s.fpu.FTOP + 1 }

/-- FDECSTP (R569). -/
def execFdecstp (s : State) : Result := fpuDone s { s.fpu with FTOP := s.fpu.FTOP - 1 }

/-- FFREE (R570). -/
def execFfree (i : StIndex) (s : State) : Result := fpuDone s (s.fpu.setUsed (s.fpu.slot i) false)

/-- FNOP (R571). -/
def execFnop (s : State) : Result := done s

/-- FENI (R572). -/
def execFeni (s : State) : Result := done s

/-- FDISI (R572). -/
def execFdisi (s : State) : Result := done s

/-- FSETPM (R572). -/
def execFsetpm (s : State) : Result := done s

/-- FNINIT (R562). -/
def execFninit (s : State) : Result := fpuDone s s.fpu.init

/-- FNCLEX: the block keeps no exception flags (R563). -/
def execFnclex (s : State) : Result := done s

/-- FLDCW (R564). -/
def execFldcw (m : MemOp) (s : State) : Result :=
  fpuDone s { s.fpu with FCW := s.memRead .w16 (s.memAddr m) }

/-- FNSTCW (R565). -/
def execFnstcw (m : MemOp) (s : State) : Result := done (s.memWrite .w16 (s.memAddr m) s.fpu.FCW)

/-- FNSTSW (R566, R567). -/
def execFnstsw (f : FnstswForm) (s : State) : Result :=
  match f with
  | .m16 m => done (s.memWrite .w16 (s.memAddr m) s.fpu.statusWord)
  | .ax => done (s.writeReg .w16 .eax s.fpu.statusWord)

/-- FNSTENV: the image, then all exception masks set (R576). -/
def execFnstenv (m : MemOp) (s : State) : Result :=
  fpuDone (s.memWriteSpan (s.memAddr m) (s.fpu.envBytes s.opsz))
    { s.fpu with FCW := s.fpu.FCW ||| 0x003F }

/-- FLDENV (R577). -/
def execFldenv (m : MemOp) (s : State) : Result :=
  fpuDone s (s.fpu.loadEnv s.opsz s.mem (s.memAddr m))

/-- FNSAVE: the image, then FNINIT (R579). -/
def execFnsave (m : MemOp) (s : State) : Result :=
  fpuDone (s.memWriteSpan (s.memAddr m) (s.fpu.saveBytes s.opsz)) s.fpu.init

/-- FRSTOR: the environment first, then the eight values by the new top (R580). -/
def execFrstor (m : MemOp) (s : State) : Result :=
  let a := s.memAddr m
  fpuDone s ((s.fpu.loadEnv s.opsz s.mem a).loadRegs s.opsz s.mem a)

end Sys2Proof.Machine
end

