-- ==== Sys2Proof/Machine/FpuArith.lean ====
section
/-! DEFINITION. FPU arithmetic, compares, and the operations on `ST(0)` (`49_fpu_arithmetic.md` rules
R600 to R657). -/

namespace Sys2Proof.Machine

/-- The destination index and the source value of the four float forms (R619). -/
def State.farithArgs (s : State) : FArithForm → StIndex × F64
  | .mf32 m => (0, s.memF32 m)
  | .mf64 m => (0, s.mem64 m)
  | .st0St i => (0, s.fpu.st i)
  | .stSt0 i => (i, s.fpu.st 0)

/-- The integer source, converted (R619). -/
def State.fintArg (s : State) : FIntForm → F64
  | .m32 m => intToF64 (s.memInt .w32 m)
  | .m16 m => intToF64 (s.memInt .w16 m)

/-- `D <- op D S` (R619). -/
def Fpu.arith (f : Fpu) (op : F64 → F64 → F64) (d : StIndex) (src : F64) : Fpu :=
  f.setSt d (op (f.st d) src)

/-- An arithmetic operation with a float source (R619). -/
def farith (op : F64 → F64 → F64) (f : FArithForm) (s : State) : Result :=
  let x := s.farithArgs f
  fpuDone s (s.fpu.arith op x.1 x.2)

/-- An arithmetic operation with an integer source (R619). -/
def fiarith (op : F64 → F64 → F64) (f : FIntForm) (s : State) : Result :=
  fpuDone s (s.fpu.arith op 0 (s.fintArg f))

/-- An arithmetic operation on `ST(i)` and `ST(0)`, then a pop (R619). -/
def farithPop (op : F64 → F64 → F64) (i : StIndex) (s : State) : Result :=
  fpuDone s (s.fpu.arith op i (s.fpu.st 0)).pop

/-- The reversed difference, `S ⊖ D` (R619). -/
def fsubr64 (d src : F64) : F64 := fsub64 src d

/-- The reversed quotient, `S ⊘ D` (R619). -/
def fdivr64 (d src : F64) : F64 := fdiv64 src d

/-- FADD (R601). -/
def execFadd (f : FArithForm) (s : State) : Result := farith fadd64 f s

/-- FADDP (R602). -/
def execFaddp (i : StIndex) (s : State) : Result := farithPop fadd64 i s

/-- FIADD (R603). -/
def execFiadd (f : FIntForm) (s : State) : Result := fiarith fadd64 f s

/-- FMUL (R604). -/
def execFmul (f : FArithForm) (s : State) : Result := farith fmul64 f s

/-- FMULP (R605). -/
def execFmulp (i : StIndex) (s : State) : Result := farithPop fmul64 i s

/-- FIMUL (R606). -/
def execFimul (f : FIntForm) (s : State) : Result := fiarith fmul64 f s

/-- FSUB (R607). -/
def execFsub (f : FArithForm) (s : State) : Result := farith fsub64 f s

/-- FSUBP (R608). -/
def execFsubp (i : StIndex) (s : State) : Result := farithPop fsub64 i s

/-- FISUB (R609). -/
def execFisub (f : FIntForm) (s : State) : Result := fiarith fsub64 f s

/-- FSUBR (R610). -/
def execFsubr (f : FArithForm) (s : State) : Result := farith fsubr64 f s

/-- FSUBRP (R611). -/
def execFsubrp (i : StIndex) (s : State) : Result := farithPop fsubr64 i s

/-- FISUBR (R612). -/
def execFisubr (f : FIntForm) (s : State) : Result := fiarith fsubr64 f s

/-- FDIV (R613). -/
def execFdiv (f : FArithForm) (s : State) : Result := farith fdiv64 f s

/-- FDIVP (R614). -/
def execFdivp (i : StIndex) (s : State) : Result := farithPop fdiv64 i s

/-- FIDIV (R615). -/
def execFidiv (f : FIntForm) (s : State) : Result := fiarith fdiv64 f s

/-- FDIVR (R616). -/
def execFdivr (f : FArithForm) (s : State) : Result := farith fdivr64 f s

/-- FDIVRP (R617). -/
def execFdivrp (i : StIndex) (s : State) : Result := farithPop fdivr64 i s

/-- FIDIVR (R618). -/
def execFidivr (f : FIntForm) (s : State) : Result := fiarith fdivr64 f s

/-! ### Compare and classify -/

/-- C3, C2 and C0; C1 is unchanged. -/
def Fpu.setCodes (f : Fpu) (c3 c2 c0 : Bool) : Fpu := { f with C3 := c3, C2 := c2, C0 := c0 }

/-- `FCompare(a, b)` (R620). -/
def Fpu.compare (f : Fpu) (a b : F64) : Fpu :=
  match (F64.val a).cmp (F64.val b) with
  | some .gt => f.setCodes false false false
  | some .lt => f.setCodes false false true
  | some .eq => f.setCodes true false false
  | none => f.setCodes true true true

/-- The source of FCOM and FCOMP (R621). -/
def State.fcomArg (s : State) : FComForm → F64
  | .mf32 m => s.memF32 m
  | .mf64 m => s.mem64 m
  | .st i => s.fpu.st i

/-- `FCompare(ST(0), b)` (R620). -/
def Fpu.compareTop (f : Fpu) (b : F64) : Fpu := f.compare (f.st 0) b

/-- FCOM (R621). -/
def execFcom (f : FComForm) (s : State) : Result := fpuDone s (s.fpu.compareTop (s.fcomArg f))

/-- FCOMP (R622). -/
def execFcomp (f : FComForm) (s : State) : Result := fpuDone s (s.fpu.compareTop (s.fcomArg f)).pop

/-- FCOMPP (R623). -/
def execFcompp (s : State) : Result := fpuDone s (s.fpu.compareTop (s.fpu.st 1)).pop.pop

/-- FICOM (R624). -/
def execFicom (f : FIntForm) (s : State) : Result := fpuDone s (s.fpu.compareTop (s.fintArg f))

/-- FICOMP (R625). -/
def execFicomp (f : FIntForm) (s : State) : Result :=
  fpuDone s (s.fpu.compareTop (s.fintArg f)).pop

/-- FUCOM (R626). -/
def execFucom (i : StIndex) (s : State) : Result := fpuDone s (s.fpu.compareTop (s.fpu.st i))

/-- FUCOMP (R627). -/
def execFucomp (i : StIndex) (s : State) : Result := fpuDone s (s.fpu.compareTop (s.fpu.st i)).pop

/-- FUCOMPP (R628). -/
def execFucompp (s : State) : Result := fpuDone s (s.fpu.compareTop (s.fpu.st 1)).pop.pop

/-- FTST (R629). -/
def execFtst (s : State) : Result := fpuDone s (s.fpu.compareTop f64Zero)

/-- The condition codes of FXAM (R640). -/
def Fpu.examine (f : Fpu) : Fpu :=
  let g := { f with C1 := F64.sign (f.reg f.FTOP) }
  if f.used f.FTOP then
    match F64.cls (f.reg f.FTOP) with
    | .nan => g.setCodes false false true
    | .normal => g.setCodes false true false
    | .infinity => g.setCodes false true true
    | .zero => g.setCodes true false false
    | .subnormal => g.setCodes true true false
  else g.setCodes true false true

/-- FXAM (R640). -/
def execFxam (s : State) : Result := fpuDone s s.fpu.examine

/-! ### Operations on `ST(0)` -/

/-- `ST(0) <- g ST(0)`. -/
def Fpu.mapTop (f : Fpu) (g : F64 → F64) : Fpu := f.setSt 0 (g (f.st 0))

/-- FCHS (R641). -/
def execFchs (s : State) : Result := fpuDone s (s.fpu.mapTop fun x => x ^^^ 0x8000000000000000)

/-- FABS (R642). -/
def execFabs (s : State) : Result := fpuDone s (s.fpu.mapTop fun x => x &&& 0x7FFFFFFFFFFFFFFF)

/-- FSQRT (R643). -/
def execFsqrt (s : State) : Result := fpuDone s (s.fpu.mapTop fsqrt64)

/-- FRNDINT (R644). -/
def execFrndint (s : State) : Result := fpuDone s (s.fpu.mapTop (frndint64 s.fpu.rc))

/-- FSCALE: ST(1) is unchanged (R645). -/
def execFscale (s : State) : Result := fpuDone s (s.fpu.mapTop fun x => fscale64 x (s.fpu.st 1))

/-- FXTRACT: the exponent replaces ST(0), the significand is pushed (R646). -/
def execFxtract (s : State) : Result :=
  let r := fxtract64 (s.fpu.st 0)
  fpuDone s ((s.fpu.setSt 0 r.1).push r.2)

/-- The condition codes of a remainder: C2 cleared, and the low three bits of the quotient's magnitude
unless the operands called for a NaN (R647). -/
def Fpu.quotientCodes (f : Fpu) : Option Nat → Fpu
  | some q => { f with C2 := false, C0 := q.testBit 2, C3 := q.testBit 1, C1 := q.testBit 0 }
  | none => { f with C2 := false }

/-- FPREM and FPREM1 (R647, R648). -/
def fremainder (nearest : Bool) (s : State) : Result :=
  let r := fremainder64 nearest (s.fpu.st 0) (s.fpu.st 1)
  fpuDone s ((s.fpu.setSt 0 r.1).quotientCodes r.2)

/-- FPREM (R647). -/
def execFprem (s : State) : Result := fremainder false s

/-- FPREM1 (R648). -/
def execFprem1 (s : State) : Result := fremainder true s

/-! ### Transcendental operations: the values come from `MATH` -/

/-- `C2 <- 0`. -/
def Fpu.clearC2 (f : Fpu) : Fpu := { f with C2 := false }

/-- `ST(1) <- r; FpuPop()`. -/
def Fpu.replaceTwo (f : Fpu) (r : F64) : Fpu := (f.setSt 1 r).pop

/-- F2XM1: `2^x - 1`, C2 cleared (R650 and the text before it, I29). -/
def execF2xm1 (s : State) : Result :=
  fpuDone s (s.fpu.mapTop fun x => fsub64 (Config.exp2 x) f64One).clearC2

/-- FYL2X; C2 is cleared (R651; DEDUCED, unsafe: log entry 11). -/
def execFyl2x (s : State) : Result :=
  fpuDone s (s.fpu.replaceTwo (fmul64 (s.fpu.st 1) (Config.log2 (s.fpu.st 0)))).clearC2

/-- FPTAN: the tangent, then 1.0 pushed (R652). -/
def execFptan (s : State) : Result :=
  fpuDone s ((s.fpu.mapTop Config.tan).push f64One).clearC2

/-- FPATAN; C2 is cleared (R653; DEDUCED, unsafe: log entry 11). -/
def execFpatan (s : State) : Result :=
  fpuDone s (s.fpu.replaceTwo (Config.atan2 (s.fpu.st 1) (s.fpu.st 0))).clearC2

/-- FYL2XP1, C2 cleared (R654 and the text before R650, I29). -/
def execFyl2xp1 (s : State) : Result :=
  fpuDone s
    (s.fpu.replaceTwo (fmul64 (s.fpu.st 1) (Config.log2 (fadd64 (s.fpu.st 0) f64One)))).clearC2

/-- FSINCOS: the sine, then the cosine pushed (R655). -/
def execFsincos (s : State) : Result :=
  let x := s.fpu.st 0
  fpuDone s ((s.fpu.setSt 0 (Config.sin x)).push (Config.cos x)).clearC2

/-- FSIN (R656). -/
def execFsin (s : State) : Result := fpuDone s (s.fpu.mapTop Config.sin).clearC2

/-- FCOS (R657). -/
def execFcos (s : State) : Result := fpuDone s (s.fpu.mapTop Config.cos).clearC2

end Sys2Proof.Machine
end

