-- ==== Sys2Proof/Machine/Processor.lean ====
section
/-! DEFINITION. The prefixes (`30_encoding.md` rules R122 to R125), the flag instructions, HLT and WAIT
(`47_processor_control.md` rules R500 to R508). -/

namespace Sys2Proof.Machine

/-- A prefix byte: it changes PrefixState and is counted; the instruction pointer stays at the first
prefix byte (R122, R123). -/
def recordPrefix (change : PrefixState → PrefixState) (s : State) : Result :=
  .next { s with pfx := { change s.pfx with count := s.pfx.count + 1 } }

/-- A segment override; the last one wins (R122, R123). -/
def overridePrefix (r : SegReg) (s : State) : Result :=
  recordPrefix (fun p => { p with seg := some r }) s

/-- ES: (R122). -/
def execPfxEs (s : State) : Result := overridePrefix .es s

/-- CS: (R122). -/
def execPfxCs (s : State) : Result := overridePrefix .cs s

/-- SS: (R122). -/
def execPfxSs (s : State) : Result := overridePrefix .ss s

/-- DS: (R122). -/
def execPfxDs (s : State) : Result := overridePrefix .ds s

/-- FS: (R122). -/
def execPfxFs (s : State) : Result := overridePrefix .fs s

/-- GS: (R122). -/
def execPfxGs (s : State) : Result := overridePrefix .gs s

/-- The operand-size override; a repeated one does not toggle (R122, R123). -/
def execPfxOpsize (s : State) : Result := recordPrefix (fun p => { p with opsize := true }) s

/-- The address-size override (R122, R123). -/
def execPfxAdsize (s : State) : Result := recordPrefix (fun p => { p with adsize := true }) s

/-- LOCK: recorded, without effect (R122, R125). -/
def execPfxLock (s : State) : Result := recordPrefix (fun p => { p with lock := true }) s

/-- REPNE; of F2 and F3 the last wins (R122, R123). -/
def execPfxRepne (s : State) : Result := recordPrefix (fun p => { p with rep := .repne }) s

/-- REP (R122, R123). -/
def execPfxRep (s : State) : Result := recordPrefix (fun p => { p with rep := .rep }) s

/-- Changes flags and retires. -/
def flagsOnly (change : Flags → Flags) (s : State) : Result := done { s with flags := change s.flags }

/-- CLC (R500). -/
def execClc (s : State) : Result := flagsOnly (fun f => { f with CF := false }) s

/-- STC (R501). -/
def execStc (s : State) : Result := flagsOnly (fun f => { f with CF := true }) s

/-- CMC (R502). -/
def execCmc (s : State) : Result := flagsOnly (fun f => { f with CF := !f.CF }) s

/-- CLD (R503). -/
def execCld (s : State) : Result := flagsOnly (fun f => { f with DF := false }) s

/-- STD (R504). -/
def execStd (s : State) : Result := flagsOnly (fun f => { f with DF := true }) s

/-- CLI (R505). -/
def execCli (s : State) : Result := flagsOnly (fun f => { f with IF := false }) s

/-- STI (R506). -/
def execSti (s : State) : Result := flagsOnly (fun f => { f with IF := true }) s

/-- HLT: EIP moves past it and the step's result is `Halted`; no halted latch is kept (R507, R671). -/
def execHlt (s : State) : Result := .next { s.retire with result := some .halted }

/-- WAIT: nothing to wait for (R508). -/
def execWait (s : State) : Result := done s

end Sys2Proof.Machine
end

