-- ==== Sys2Proof/Machine/Stack.lean ====
section
/-! DEFINITION. PUSH, POP, PUSHA, POPA, PUSHF, POPF, LAHF, SAHF, ENTER and LEAVE
(`42_data_transfer.md` rules R270 to R282, `45_control_transfer.md` rules R444, R445). -/

namespace Sys2Proof.Machine

/-- PUSH: the value is read before the pointer moves (R270 to R273). -/
def execPush (f : PushForm) (s : State) : Result :=
  match f with
  | .sreg sr => done (s.push s.opsz ((s.sel sr).setWidth s.opsz.bits))
  | .rw r => done (s.push s.opsz (s.readReg s.opw r))
  | .iw imm => done (s.push s.opsz (s.immw imm))
  | .ib imm => done (s.push s.opsz (s.immSext imm))
  | .rmw rm => done (s.push s.opsz (s.readRM s.opw rm))

/-- POP: the pointer is incremented, then the destination is resolved and written (R274 to R276). -/
def execPop (f : PopForm) (s : State) : Result :=
  let v := s.popValue s.opsz
  let t := s.popped s.opsz
  match f with
  | .sreg sr => thenDo (loadSeg sr (v.setWidth 16) t) done
  | .rw r => done (t.writeReg s.opw r v)
  | .rmw rm => done (t.writeRM s.opw rm v)

/-- PUSHA, PUSHAD: the fifth word is the stack pointer before the instruction (R277). -/
def execPusha (s : State) : Result :=
  let z := s.opsz
  let w := z.width
  let s1 := s.push z (s.readReg w .eax)
  let s2 := s1.push z (s.readReg w .ecx)
  let s3 := s2.push z (s.readReg w .edx)
  let s4 := s3.push z (s.readReg w .ebx)
  let s5 := s4.push z (s.readReg w .esp)
  let s6 := s5.push z (s.readReg w .ebp)
  let s7 := s6.push z (s.readReg w .esi)
  done (s7.push z (s.readReg w .edi))

/-- `Rw[r] <- Pop(w)` (R274, R278). -/
def State.popReg (s : State) (z : Size) (r : Reg) : State :=
  (s.popped z).writeReg z.width r (s.popValue z)

/-- POPA, POPAD: the saved stack pointer is read and discarded (R278). -/
def execPopa (s : State) : Result :=
  let z := s.opsz
  let s1 := ((s.popReg z .edi).popReg z .esi).popReg z .ebp
  done ((((s1.popped z).popReg z .ebx).popReg z .edx).popReg z .ecx |>.popReg z .eax)

/-- PUSHF, PUSHFD (R279). -/
def execPushf (s : State) : Result := done (s.push s.opsz (s.flagsWord s.opsz))

/-- POPF, POPFD: every named flag, no privilege check (R280). -/
def execPopf (s : State) : Result :=
  done { s.popped s.opsz with flags := .ofImage (s.popValue s.opsz) }

/-- LAHF: AH (code 4 at width 8) gets the low byte of the image (R281). -/
def execLahf (s : State) : Result := done (s.writeReg .w8 .esp (s.flags.image.setWidth 8))

/-- SAHF: five flags from AH; the others are unchanged (R282). -/
def execSahf (s : State) : Result :=
  let ah := s.readReg .w8 .esp
  done { s with flags := { s.flags with
    SF := ah.getLsbD 7
    ZF := ah.getLsbD 6
    AF := ah.getLsbD 4
    PF := ah.getLsbD 2
    CF := ah.getLsbD 0 } }

/-- The frame pointers ENTER copies: BP or EBP moves down by one frame pointer, and the word it then
addresses is pushed (R444). -/
def enterLoop (z : Size) : Nat → State → State
  | 0, s => s
  | k + 1, s =>
    let s1 := s.writeIndex s.stksz .ebp (s.readIndex s.stksz .ebp - BitVec.ofNat 32 z.bytes)
    enterLoop z k (s1.push z (s1.segRead z.width .ss (s1.readIndex s1.stksz .ebp)))

/-- ENTER (R444). A 16-bit frame is zero-extended into EBP under an operand size of 32 (DEDUCED, safe: log
entry 12). -/
def execEnter (imm16 : BitVec 16) (imm : BitVec 8) (s : State) : Result :=
  let z := s.opsz
  let level := imm.toNat % 32
  let s1 := s.push z (s.readReg z.width .ebp)
  let frame := s1.stackPtr
  let s2 := if level = 0 then s1 else (enterLoop z (level - 1) s1).push z (frame.setWidth z.bits)
  let s3 := s2.writeReg z.width .ebp (frame.setWidth z.bits)
  done (s3.setStackPtr (s3.stackPtr - imm16.setWidth 32))

/-- LEAVE (R445). -/
def execLeave (s : State) : Result :=
  done ((s.setStackPtr (s.readIndex s.stksz .ebp)).popReg s.opsz .ebp)

end Sys2Proof.Machine
end

