-- ==== Sys2Proof/Machine/Transfer.lean ====
section
/-! DEFINITION. Moves, exchanges, address and far-pointer loads, extensions, port input and output, and
SETcc (`42_data_transfer.md` rules R261 to R269, R283 to R298, R318 to R321). -/

namespace Sys2Proof.Machine

/-- MOV register or memory, segment register: two bytes to memory whatever `opsz` is; a register gets
the selector zero-extended to `opsz` (R265). -/
def movFromSeg (rm : RM) (sr : SegReg) (s : State) : Result :=
  match rm with
  | .reg r => done (s.writeReg s.opw r ((s.sel sr).setWidth s.opsz.bits))
  | .mem m => done (s.memWrite .w16 (s.memAddr m) (s.sel sr))

/-- MOV (R261 to R266, R318 to R321). A MOV to CR0 leaves `CS.D` and `SS.B` as they
are, also where it clears PE with one of them 1 (DESIGN CHOICE, unsafe: log entry 20). -/
def execMov (f : MovForm) (s : State) : Result :=
  match f with
  | .rmbRb rm r => done (s.writeRM .w8 rm (s.readReg .w8 r))
  | .rmwRw rm r => done (s.writeRM s.opw rm (s.readReg s.opw r))
  | .rbRmb r rm => done (s.writeReg .w8 r (s.readRM .w8 rm))
  | .rwRmw r rm => done (s.writeReg s.opw r (s.readRM s.opw rm))
  | .rmwSreg rm sr => movFromSeg rm sr s
  | .sregRmw sr rm => thenDo (loadSeg sr (s.readRM .w16 rm) s) done
  | .alMoffs off => done (s.writeReg .w8 .eax (s.memRead .w8 (s.moffsAddr off)))
  | .axMoffs off => done (s.writeReg s.opw .eax (s.memRead s.opw (s.moffsAddr off)))
  | .moffsAl off => done (s.memWrite .w8 (s.moffsAddr off) (s.readReg .w8 .eax))
  | .moffsAx off => done (s.memWrite s.opw (s.moffsAddr off) (s.readReg s.opw .eax))
  | .rbIb r imm => done (s.writeReg .w8 r imm)
  | .rwIw r imm => done (s.writeReg s.opw r (s.immw imm))
  | .rmbIb rm imm => done (s.writeRM .w8 rm imm)
  | .rmwIw rm imm => done (s.writeRM s.opw rm (s.immw imm))
  | .r32Crn r c => done (s.writeReg .w32 r (s.ctl.get c))
  | .crnR32 c r => done { s with ctl := s.ctl.set c (s.readReg .w32 r) }
  | .r32Drn r d => done (s.writeReg .w32 r (s.dbg.get d))
  | .drnR32 d r => done { s with dbg := s.dbg.set d (s.readReg .w32 r) }

/-- The exchange of an operand and a register; the address is resolved before the writes (R267,
R197). -/
def exchange (w : Width) (rm : RM) (r : Reg) (s : State) : Result :=
  done ((s.writeRM w rm (s.readReg w r)).writeReg w r (s.readRM w rm))

/-- XCHG (R267, R268). -/
def execXchg (f : XchgForm) (s : State) : Result :=
  match f with
  | .rmbRb rm r => exchange .w8 rm r s
  | .rmwRw rm r => exchange s.opw rm r s
  | .axRw r => exchange s.opw (.reg .eax) r s

/-- NOP (R269). -/
def execNop (s : State) : Result := done s

/-- LEA: the effective offset, no memory access (R283). -/
def execLea (r : Reg) (m : MemOp) (s : State) : Result :=
  done (s.writeReg s.opw r ((s.memOffset m).setWidth s.opsz.bits))

/-- The offset a far pointer in memory holds (R284, R425). -/
def State.farOffset (s : State) (m : MemOp) : BitVec s.opw.bits := s.memRead s.opw (s.memAddr m)

/-- The selector a far pointer in memory holds, after its offset (R284, R425). -/
def State.farSelector (s : State) (m : MemOp) : BitVec 16 :=
  s.memRead .w16 (s.memAddr m + BitVec.ofNat 32 s.opsz.bytes)

/-- A far-pointer load: both reads come before any write (R284). -/
def loadFarPointer (sr : SegReg) (r : Reg) (m : MemOp) (s : State) : Result :=
  thenDo (loadSeg sr (s.farSelector m) s) fun t => done (t.writeReg s.opw r (s.farOffset m))

/-- LDS (R284). -/
def execLds (r : Reg) (m : MemOp) (s : State) : Result := loadFarPointer .ds r m s

/-- LES (R285). -/
def execLes (r : Reg) (m : MemOp) (s : State) : Result := loadFarPointer .es r m s

/-- LFS (R286). -/
def execLfs (r : Reg) (m : MemOp) (s : State) : Result := loadFarPointer .fs r m s

/-- LGS (R287). -/
def execLgs (r : Reg) (m : MemOp) (s : State) : Result := loadFarPointer .gs r m s

/-- LSS (R288). -/
def execLss (r : Reg) (m : MemOp) (s : State) : Result := loadFarPointer .ss r m s

/-- MOVZX (R289). -/
def execMovzx (f : ExtendForm) (s : State) : Result :=
  match f with
  | .rmb r rm => done (s.writeReg s.opw r ((s.readRM .w8 rm).setWidth s.opsz.bits))
  | .rmw16 r rm => done (s.writeReg s.opw r ((s.readRM .w16 rm).setWidth s.opsz.bits))

/-- MOVSX (R290). -/
def execMovsx (f : ExtendForm) (s : State) : Result :=
  match f with
  | .rmb r rm => done (s.writeReg s.opw r ((s.readRM .w8 rm).signExtend s.opsz.bits))
  | .rmw16 r rm => done (s.writeReg s.opw r ((s.readRM .w16 rm).signExtend s.opsz.bits))

/-- CBW and CWDE (R291). -/
def execCbw (s : State) : Result :=
  match s.opsz with
  | .s16 => done (s.writeReg .w16 .eax ((s.readReg .w8 .eax).signExtend 16))
  | .s32 => done (s.writeReg .w32 .eax ((s.readReg .w16 .eax).signExtend 32))

/-- CWD and CDQ (R292). -/
def execCwd (s : State) : Result :=
  done (s.writeReg s.opw .edx (if (s.readReg s.opw .eax).msb then BitVec.allOnes _ else 0))

/-- The offset of XLAT's byte: AL is added unsigned to BX or EBX by `adsz` (R293). -/
def State.xlatOffset (s : State) : BitVec 32 :=
  match s.adsz with
  | .s16 => (s.readReg .w16 .ebx + (s.readReg .w8 .eax).setWidth 16).setWidth 32
  | .s32 => s.readReg .w32 .ebx + (s.readReg .w8 .eax).setWidth 32

/-- XLAT (R293). -/
def execXlat (s : State) : Result :=
  done (s.writeReg .w8 .eax (s.segRead .w8 (s.overridden .ds) s.xlatOffset))

/-- DX. -/
def State.dx (s : State) : BitVec 16 := s.readReg .w16 .edx

/-- A port read into the accumulator (R294). -/
def portIn (w : Width) (p : BitVec 16) (s : State) : Result :=
  let (v, t) := s.portRead w p
  done (t.writeReg w .eax v)

/-- A port write from the accumulator (R296). -/
def portOut (w : Width) (p : BitVec 16) (s : State) : Result :=
  done (s.portWrite w p (s.readReg w .eax))

/-- IN (R294, R295). -/
def execIn (f : InForm) (s : State) : Result :=
  match f with
  | .alIb imm => portIn .w8 (imm.setWidth 16) s
  | .axIb imm => portIn s.opw (imm.setWidth 16) s
  | .alDx => portIn .w8 s.dx s
  | .axDx => portIn s.opw s.dx s

/-- OUT (R296, R297). -/
def execOut (f : OutForm) (s : State) : Result :=
  match f with
  | .ibAl imm => portOut .w8 (imm.setWidth 16) s
  | .ibAx imm => portOut s.opw (imm.setWidth 16) s
  | .dxAl => portOut .w8 s.dx s
  | .dxAx => portOut s.opw s.dx s

/-- SETcc: 1 or 0, no flag changed (R298). -/
def setcc (cc : Cond) (rm : RM) (s : State) : Result :=
  done (s.writeRM .w8 rm (if s.flags.cond cc then 1 else 0))

/-- SETO (R298). -/
def execSeto (rm : RM) (s : State) : Result := setcc .o rm s

/-- SETNO (R298). -/
def execSetno (rm : RM) (s : State) : Result := setcc .no rm s

/-- SETB (R298). -/
def execSetb (rm : RM) (s : State) : Result := setcc .b rm s

/-- SETNB (R298). -/
def execSetnb (rm : RM) (s : State) : Result := setcc .nb rm s

/-- SETZ (R298). -/
def execSetz (rm : RM) (s : State) : Result := setcc .z rm s

/-- SETNZ (R298). -/
def execSetnz (rm : RM) (s : State) : Result := setcc .nz rm s

/-- SETBE (R298). -/
def execSetbe (rm : RM) (s : State) : Result := setcc .be rm s

/-- SETNBE (R298). -/
def execSetnbe (rm : RM) (s : State) : Result := setcc .nbe rm s

/-- SETS (R298). -/
def execSets (rm : RM) (s : State) : Result := setcc .s rm s

/-- SETNS (R298). -/
def execSetns (rm : RM) (s : State) : Result := setcc .ns rm s

/-- SETP (R298). -/
def execSetp (rm : RM) (s : State) : Result := setcc .p rm s

/-- SETNP (R298). -/
def execSetnp (rm : RM) (s : State) : Result := setcc .np rm s

/-- SETL (R298). -/
def execSetl (rm : RM) (s : State) : Result := setcc .l rm s

/-- SETNL (R298). -/
def execSetnl (rm : RM) (s : State) : Result := setcc .nl rm s

/-- SETLE (R298). -/
def execSetle (rm : RM) (s : State) : Result := setcc .le rm s

/-- SETNLE (R298). -/
def execSetnle (rm : RM) (s : State) : Result := setcc .nle rm s

end Sys2Proof.Machine
end

