-- ==== Sys2Proof/Machine/Control.lean ====
section
/-! DEFINITION. Jumps, loops, calls, returns, software interrupts, IRET and BOUND
(`45_control_transfer.md` rules R420 to R443, R446). -/

namespace Sys2Proof.Machine

/-- A near relative target (R420(a)). -/
def State.nearTarget (s : State) (rel : BitVec 32) : BitVec 32 :=
  match s.opsz with
  | .s16 => (s.nextEip + rel) &&& 0x0000FFFF
  | .s32 => s.nextEip + rel

/-- `EIP <- t` or `EIP <- NextEIP` (R426). -/
def branchIf (c : Bool) (rel : BitVec 32) (s : State) : Result :=
  if c then .next (s.jumpTo (s.nearTarget rel)) else done s

/-- A far transfer in the state its pushes or pops left (R420(d)). -/
def farTransfer (sel : BitVec 16) (off : BitVec 32) (s : State) : Result :=
  thenDo (loadSeg .cs sel s) fun t => .next (t.jumpTo off)

/-- JMP (R421 to R425). -/
def execJmp (f : JmpForm) (s : State) : Result :=
  match f with
  | .jb rel => .next (s.jumpTo (s.nearTarget (rel.signExtend 32)))
  | .jw rel => .next (s.jumpTo (s.nearTarget rel))
  | .pw off sel => farTransfer sel ((s.immw off).setWidth 32) s
  | .rmw rm => .next (s.jumpTo ((s.readRM s.opw rm).setWidth 32))
  | .mp m => farTransfer (s.farSelector m) ((s.farOffset m).setWidth 32) s

/-- Jcc, short and near (R426, R427). -/
def jcc (cc : Cond) (f : JccForm) (s : State) : Result :=
  match f with
  | .jb rel => branchIf (s.flags.cond cc) (rel.signExtend 32) s
  | .jw rel => branchIf (s.flags.cond cc) rel s

/-- JO (R426, R427). -/
def execJo (f : JccForm) (s : State) : Result := jcc .o f s

/-- JNO (R426, R427). -/
def execJno (f : JccForm) (s : State) : Result := jcc .no f s

/-- JB (R426, R427). -/
def execJb (f : JccForm) (s : State) : Result := jcc .b f s

/-- JNB (R426, R427). -/
def execJnb (f : JccForm) (s : State) : Result := jcc .nb f s

/-- JZ (R426, R427). -/
def execJz (f : JccForm) (s : State) : Result := jcc .z f s

/-- JNZ (R426, R427). -/
def execJnz (f : JccForm) (s : State) : Result := jcc .nz f s

/-- JBE (R426, R427). -/
def execJbe (f : JccForm) (s : State) : Result := jcc .be f s

/-- JNBE (R426, R427). -/
def execJnbe (f : JccForm) (s : State) : Result := jcc .nbe f s

/-- JS (R426, R427). -/
def execJs (f : JccForm) (s : State) : Result := jcc .s f s

/-- JNS (R426, R427). -/
def execJns (f : JccForm) (s : State) : Result := jcc .ns f s

/-- JP (R426, R427). -/
def execJp (f : JccForm) (s : State) : Result := jcc .p f s

/-- JNP (R426, R427). -/
def execJnp (f : JccForm) (s : State) : Result := jcc .np f s

/-- JL (R426, R427). -/
def execJl (f : JccForm) (s : State) : Result := jcc .l f s

/-- JNL (R426, R427). -/
def execJnl (f : JccForm) (s : State) : Result := jcc .nl f s

/-- JLE (R426, R427). -/
def execJle (f : JccForm) (s : State) : Result := jcc .le f s

/-- JNLE (R426, R427). -/
def execJnle (f : JccForm) (s : State) : Result := jcc .nle f s

/-- The count register, CX or ECX by `adsz`, zero-extended (R428, R470). -/
def State.count (s : State) : BitVec 32 := s.readIndex s.adsz .ecx

/-- The count register less 1, modulo `2^adsz` (R429, R472). -/
def State.countDown (s : State) : State := s.writeIndex s.adsz .ecx (s.count - 1)

/-- JCXZ, JECXZ (R428). -/
def execJcxz (rel : BitVec 8) (s : State) : Result :=
  branchIf (s.count == 0) (rel.signExtend 32) s

/-- LOOP (R429). -/
def execLoop (rel : BitVec 8) (s : State) : Result :=
  let t := s.countDown
  branchIf (t.count != 0) (rel.signExtend 32) t

/-- LOOPE (R430). -/
def execLoope (rel : BitVec 8) (s : State) : Result :=
  let t := s.countDown
  branchIf (t.count != 0 && s.flags.ZF) (rel.signExtend 32) t

/-- LOOPNE (R431). -/
def execLoopne (rel : BitVec 8) (s : State) : Result :=
  let t := s.countDown
  branchIf (t.count != 0 && !s.flags.ZF) (rel.signExtend 32) t

/-- `Push(opsz, NextEIP[opsz-1:0])` (R432). -/
def State.pushReturn (s : State) (z : Size) : State := s.push z (s.nextEip.setWidth z.bits)

/-- A near call (R432, R433). -/
def nearCall (t : BitVec 32) (s : State) : Result := .next ((s.pushReturn s.opsz).jumpTo t)

/-- A far call: CS and the return offset are pushed, then the far transfer (R434). -/
def farCall (sel : BitVec 16) (off : BitVec 32) (s : State) : Result :=
  let z := s.opsz
  farTransfer sel off ((s.push z ((s.sel .cs).setWidth z.bits)).pushReturn z)

/-- CALL (R432 to R435). -/
def execCall (f : CallForm) (s : State) : Result :=
  match f with
  | .jw rel => nearCall (s.nearTarget rel) s
  | .pw off sel => farCall sel ((s.immw off).setWidth 32) s
  | .rmw rm => nearCall ((s.readRM s.opw rm).setWidth 32) s
  | .mp m => farCall (s.farSelector m) ((s.farOffset m).setWidth 32) s

/-- The stack pointer moved up by a release count (R437). -/
def State.release (s : State) (imm16 : BitVec 16) : State :=
  s.setStackPtr (s.stackPtr + imm16.setWidth 32)

/-- The number of bytes a return releases: none in the plain form (R436 to R439). -/
def releaseCount : RetForm → BitVec 16
  | .plain => 0
  | .iw imm16 => imm16

/-- RET (R436, R437). -/
def execRet (f : RetForm) (s : State) : Result :=
  let off := (s.popValue s.opsz).setWidth 32
  .next (((s.popped s.opsz).release (releaseCount f)).jumpTo off)

/-- RETF: the offset, then the selector, are popped; the release comes last (R438, R439). -/
def execRetf (f : RetForm) (s : State) : Result :=
  let z := s.opsz
  let off := (s.popValue z).setWidth 32
  let s1 := s.popped z
  let sel := (s1.popValue z).setWidth 16
  thenDo (loadSeg .cs sel (s1.popped z)) fun t => .next ((t.release (releaseCount f)).jumpTo off)

/-- INT3: vector 3, a trap (R440). -/
def execInt3 (s : State) : Result := raiseTrap 3 s

/-- INT n: vector `imm`, a trap (R441). -/
def execInt (imm : BitVec 8) (s : State) : Result := raiseTrap imm s

/-- INTO: vector 4, a trap, if OF is set (R442). -/
def execInto (s : State) : Result := if s.flags.OF then raiseTrap 4 s else done s

/-- IRET, IRETD (R443). -/
def execIret (s : State) : Result := interruptReturn s

/-- BOUND: vector 5, a fault, if the signed index is outside the bounds (R446). -/
def execBound (r : Reg) (m : MemOp) (s : State) : Result :=
  let lo := (s.memRead s.opw (s.memAddr m)).toInt
  let hi := (s.memRead s.opw (s.memAddr m + BitVec.ofNat 32 s.opsz.bytes)).toInt
  let i := (s.readReg s.opw r).toInt
  if i < lo ∨ hi < i then raiseFault 5 s else done s

end Sys2Proof.Machine
end

