-- ==== Sys2Proof/Machine/Strings.lean ====
section
/-! DEFINITION. The string primitives and the repeat wrapper (`46_string.md` rules R470 to R482). -/

namespace Sys2Proof.Machine

/-- The element width of a string instruction (R470). -/
def State.elementWidth (s : State) : StringForm → Width
  | .b => .w8
  | .w => s.opw

/-- The step of an index register: `+n`, or `-n` if DF is set (R470). -/
def State.delta (s : State) (w : Width) : BitVec 32 :=
  if s.flags.DF then -(BitVec.ofNat 32 w.bytes) else BitVec.ofNat 32 w.bytes

/-- An index register moved by one element, in its own width (R471). -/
def State.advance (s : State) (w : Width) (r : Reg) : State :=
  s.writeIndex s.adsz r (s.readIndex s.adsz r + s.delta w)

/-- The address of the source element, DS or the override and SI or ESI (R470). -/
def State.srcAddr (s : State) : BitVec 32 := s.lin (s.overridden .ds) (s.readIndex s.adsz .esi)

/-- The address of the destination element, ES and DI or EDI (R470). -/
def State.dstAddr (s : State) : BitVec 32 := s.lin .es (s.readIndex s.adsz .edi)

/-- The source element (R470). -/
def State.srcElement (s : State) (w : Width) : BitVec w.bits := s.memRead w s.srcAddr

/-- The destination element (R470). -/
def State.dstElement (s : State) (w : Width) : BitVec w.bits := s.memRead w s.dstAddr

/-- Writes the destination element (R470). -/
def State.writeDst (s : State) (w : Width) (v : BitVec w.bits) : State := s.memWrite w s.dstAddr v

/-- The repeat wrapper: one `Step` runs at most one element. `compares` marks CMPS and SCAS, which also
look at ZF after the element (R472, R473). -/
def stringStep (prim : State → State) (compares : Bool) (s : State) : Result :=
  match s.pfx.rep with
  | .none => done (prim s)
  | mode =>
    if s.count = 0 then done s
    else
      let t := (prim s).countDown
      let zfOk := !compares || (if mode = .rep then t.flags.ZF else !t.flags.ZF)
      if t.count != 0 && zfOk then .next t else done t

/-- The primitive of MOVS (R474). -/
def movsPrim (w : Width) (s : State) : State :=
  ((s.writeDst w (s.srcElement w)).advance w .esi).advance w .edi

/-- The primitive of CMPS: the flags of source minus destination (R475). -/
def cmpsPrim (w : Width) (s : State) : State :=
  let f := (flagsSub s.flags (s.srcElement w) (s.dstElement w) false).2
  ({ s with flags := f }.advance w .esi).advance w .edi

/-- The primitive of SCAS: the flags of accumulator minus memory (R476). -/
def scasPrim (w : Width) (s : State) : State :=
  let f := (flagsSub s.flags (s.readReg w .eax) (s.dstElement w) false).2
  { s with flags := f }.advance w .edi

/-- The primitive of STOS (R477). -/
def stosPrim (w : Width) (s : State) : State :=
  (s.writeDst w (s.readReg w .eax)).advance w .edi

/-- The primitive of LODS (R478). -/
def lodsPrim (w : Width) (s : State) : State :=
  (s.writeReg w .eax (s.srcElement w)).advance w .esi

/-- The primitive of INS (R479). -/
def insPrim (w : Width) (s : State) : State :=
  let (v, t) := s.portRead w s.dx
  (t.writeDst w v).advance w .edi

/-- The primitive of OUTS (R480). -/
def outsPrim (w : Width) (s : State) : State :=
  (s.portWrite w s.dx (s.srcElement w)).advance w .esi

/-- MOVS (R474). -/
def execMovs (f : StringForm) (s : State) : Result := stringStep (movsPrim (s.elementWidth f)) false s

/-- CMPS (R475). -/
def execCmps (f : StringForm) (s : State) : Result := stringStep (cmpsPrim (s.elementWidth f)) true s

/-- SCAS (R476). -/
def execScas (f : StringForm) (s : State) : Result := stringStep (scasPrim (s.elementWidth f)) true s

/-- STOS (R477). -/
def execStos (f : StringForm) (s : State) : Result := stringStep (stosPrim (s.elementWidth f)) false s

/-- LODS (R478). -/
def execLods (f : StringForm) (s : State) : Result := stringStep (lodsPrim (s.elementWidth f)) false s

/-- INS (R479). -/
def execIns (f : StringForm) (s : State) : Result := stringStep (insPrim (s.elementWidth f)) false s

/-- OUTS (R480). -/
def execOuts (f : StringForm) (s : State) : Result := stringStep (outsPrim (s.elementWidth f)) false s

end Sys2Proof.Machine
end

