-- ==== Sys2Proof/Syntax.lean ====
section
/-! DEFINITION. The instructions of `spec/opcode_table.json`: one constructor per mnemonic of the table.
Every row of the table is a constructor applied to one form of its form type; the docstring of a
constructor lists its rows in the table's grammar. (Lean compiles no inductive type of more than 244
constructors, so the 464 rows cannot be 464 constructors of one type; log entry 1.)

Operand conventions: an immediate `iw|id` and a displacement `jw|jd` are held as 32 bits (`iw`
zero-extended, `jw` sign-extended, R139, R140), an offset of `pw|pd` or `moffs` zero-extended (R141).
The sizes `opsz` and `adsz` are not part of an instruction: they are those of the state it runs in
(R128, R129). The prefix rows are instructions of their own: each records itself in PrefixState
(R122). -/

namespace Sys2Proof

/-- The instructions (R142 to R171). -/
inductive Instr
  /-- ES:: `26` (R122). -/
  | pfxEs
  /-- CS:: `2E` (R122). -/
  | pfxCs
  /-- SS:: `36` (R122). -/
  | pfxSs
  /-- DS:: `3E` (R122). -/
  | pfxDs
  /-- FS:: `64` (R122). -/
  | pfxFs
  /-- GS:: `65` (R122). -/
  | pfxGs
  /-- OPSIZE: `66` (R122). -/
  | pfxOpsize
  /-- ADSIZE: `67` (R122). -/
  | pfxAdsize
  /-- LOCK: `F0` (R125). -/
  | pfxLock
  /-- REPNE: `F2` (R122). -/
  | pfxRepne
  /-- REP: `F3` (R122). -/
  | pfxRep
  /-- ADD: `00 rmb,rb`, `01 rmw,rw`, `02 rb,rmb`, `03 rw,rmw`, `04 al,ib`, `05 ax,iw|id`, `80/0
  rmb,ib`, `81/0 rmw,iw|id`, `83/0 rmw,ib` (R331). -/
  | add (f : AluForm)
  /-- OR: `08 rmb,rb`, `09 rmw,rw`, `0A rb,rmb`, `0B rw,rmw`, `0C al,ib`, `0D ax,iw|id`, `80/1
  rmb,ib`, `81/1 rmw,iw|id`, `83/1 rmw,ib` (R332). -/
  | or (f : AluForm)
  /-- ADC: `10 rmb,rb`, `11 rmw,rw`, `12 rb,rmb`, `13 rw,rmw`, `14 al,ib`, `15 ax,iw|id`, `80/2
  rmb,ib`, `81/2 rmw,iw|id`, `83/2 rmw,ib` (R333). -/
  | adc (f : AluForm)
  /-- SBB: `18 rmb,rb`, `19 rmw,rw`, `1A rb,rmb`, `1B rw,rmw`, `1C al,ib`, `1D ax,iw|id`, `80/3
  rmb,ib`, `81/3 rmw,iw|id`, `83/3 rmw,ib` (R334). -/
  | sbb (f : AluForm)
  /-- AND: `20 rmb,rb`, `21 rmw,rw`, `22 rb,rmb`, `23 rw,rmw`, `24 al,ib`, `25 ax,iw|id`, `80/4
  rmb,ib`, `81/4 rmw,iw|id`, `83/4 rmw,ib` (R335). -/
  | and (f : AluForm)
  /-- SUB: `28 rmb,rb`, `29 rmw,rw`, `2A rb,rmb`, `2B rw,rmw`, `2C al,ib`, `2D ax,iw|id`, `80/5
  rmb,ib`, `81/5 rmw,iw|id`, `83/5 rmw,ib` (R336). -/
  | sub (f : AluForm)
  /-- XOR: `30 rmb,rb`, `31 rmw,rw`, `32 rb,rmb`, `33 rw,rmw`, `34 al,ib`, `35 ax,iw|id`, `80/6
  rmb,ib`, `81/6 rmw,iw|id`, `83/6 rmw,ib` (R337). -/
  | xor (f : AluForm)
  /-- CMP: `38 rmb,rb`, `39 rmw,rw`, `3A rb,rmb`, `3B rw,rmw`, `3C al,ib`, `3D ax,iw|id`, `80/7
  rmb,ib`, `81/7 rmw,iw|id`, `83/7 rmw,ib` (R338). -/
  | cmp (f : AluForm)
  /-- PUSH: `06 es`, `0E cs`, `16 ss`, `1E ds`, `50+rw`, `68 iw|id`, `6A ib`, `FF/6 rmw`, `0F A0
  fs`, `0F A8 gs` (R270, R271, R272, R273). -/
  | push (f : PushForm)
  /-- POP: `07 es`, `17 ss`, `1F ds`, `58+rw`, `8F/0 rmw`, `0F A1 fs`, `0F A9 gs` (R274, R275,
  R276). -/
  | pop (f : PopForm)
  /-- DAA: `27` (R350). -/
  | daa
  /-- DAS: `2F` (R351). -/
  | das
  /-- AAA: `37` (R352). -/
  | aaa
  /-- AAS: `3F` (R353). -/
  | aas
  /-- INC: `40+rw`, `FE/0 rmb`, `FF/0 rmw` (R340). -/
  | inc (f : StepForm)
  /-- DEC: `48+rw`, `FE/1 rmb`, `FF/1 rmw` (R341). -/
  | dec (f : StepForm)
  /-- PUSHA: `60` (R277). -/
  | pusha
  /-- POPA: `61` (R278). -/
  | popa
  /-- BOUND: `62 rw,m` (R446). -/
  | bound (r : Reg) (m : MemOp)
  /-- IMUL: `69 rw,rmw,iw|id`, `6B rw,rmw,ib`, `F6/5 rmb`, `F7/5 rmw`, `0F AF rw,rmw` (R345, R346,
  R347). -/
  | imul (f : ImulForm)
  /-- INS: `6C`, `6D` (R479). -/
  | ins (f : StringForm)
  /-- OUTS: `6E`, `6F` (R480). -/
  | outs (f : StringForm)
  /-- JO: `70 jb`, `0F 80 jw|jd` (R426, R427). -/
  | jo (f : JccForm)
  /-- JNO: `71 jb`, `0F 81 jw|jd` (R426, R427). -/
  | jno (f : JccForm)
  /-- JB: `72 jb`, `0F 82 jw|jd` (R426, R427). -/
  | jb (f : JccForm)
  /-- JNB: `73 jb`, `0F 83 jw|jd` (R426, R427). -/
  | jnb (f : JccForm)
  /-- JZ: `74 jb`, `0F 84 jw|jd` (R426, R427). -/
  | jz (f : JccForm)
  /-- JNZ: `75 jb`, `0F 85 jw|jd` (R426, R427). -/
  | jnz (f : JccForm)
  /-- JBE: `76 jb`, `0F 86 jw|jd` (R426, R427). -/
  | jbe (f : JccForm)
  /-- JNBE: `77 jb`, `0F 87 jw|jd` (R426, R427). -/
  | jnbe (f : JccForm)
  /-- JS: `78 jb`, `0F 88 jw|jd` (R426, R427). -/
  | js (f : JccForm)
  /-- JNS: `79 jb`, `0F 89 jw|jd` (R426, R427). -/
  | jns (f : JccForm)
  /-- JP: `7A jb`, `0F 8A jw|jd` (R426, R427). -/
  | jp (f : JccForm)
  /-- JNP: `7B jb`, `0F 8B jw|jd` (R426, R427). -/
  | jnp (f : JccForm)
  /-- JL: `7C jb`, `0F 8C jw|jd` (R426, R427). -/
  | jl (f : JccForm)
  /-- JNL: `7D jb`, `0F 8D jw|jd` (R426, R427). -/
  | jnl (f : JccForm)
  /-- JLE: `7E jb`, `0F 8E jw|jd` (R426, R427). -/
  | jle (f : JccForm)
  /-- JNLE: `7F jb`, `0F 8F jw|jd` (R426, R427). -/
  | jnle (f : JccForm)
  /-- TEST: `84 rmb,rb`, `85 rmw,rw`, `A8 al,ib`, `A9 ax,iw|id`, `F6/0 rmb,ib`, `F7/0 rmw,iw|id`
  (R339). -/
  | test (f : TestForm)
  /-- XCHG: `86 rmb,rb`, `87 rmw,rw`, `90+rw ax,+rw` (R267, R268). -/
  | xchg (f : XchgForm)
  /-- MOV: `88 rmb,rb`, `89 rmw,rw`, `8A rb,rmb`, `8B rw,rmw`, `8C rmw16,sreg`, `8E sreg,rmw16`,
  `A0 al,moffs`, `A1 ax,moffs`, `A2 moffs,al`, `A3 moffs,ax`, `B0+rb ib`, `B8+rw iw|id`, `C6/0
  rmb,ib`, `C7/0 rmw,iw|id`, `0F 20 r32,crn`, `0F 22 crn,r32`, `0F 21 r32,drn`, `0F 23 drn,r32`
  (R261, R262, R263, R264, R265, R266, R318, R319, R320, R321). -/
  | mov (f : MovForm)
  /-- LEA: `8D rw,m` (R283). -/
  | lea (r : Reg) (m : MemOp)
  /-- NOP: `90` (R269). -/
  | nop
  /-- CBW: `98` (R291). -/
  | cbw
  /-- CWD: `99` (R292). -/
  | cwd
  /-- CALL: `9A pw|pd`, `E8 jw|jd`, `FF/2 rmw`, `FF/3 mp` (R432, R433, R434, R435). -/
  | call (f : CallForm)
  /-- WAIT: `9B` (R508). -/
  | wait
  /-- PUSHF: `9C` (R279). -/
  | pushf
  /-- POPF: `9D` (R280). -/
  | popf
  /-- SAHF: `9E` (R282). -/
  | sahf
  /-- LAHF: `9F` (R281). -/
  | lahf
  /-- MOVS: `A4`, `A5` (R474). -/
  | movs (f : StringForm)
  /-- CMPS: `A6`, `A7` (R475). -/
  | cmps (f : StringForm)
  /-- STOS: `AA`, `AB` (R477). -/
  | stos (f : StringForm)
  /-- LODS: `AC`, `AD` (R478). -/
  | lods (f : StringForm)
  /-- SCAS: `AE`, `AF` (R476). -/
  | scas (f : StringForm)
  /-- ROL: `C0/0 rmb,ib`, `C1/0 rmw,ib`, `D0/0 rmb,1`, `D1/0 rmw,1`, `D2/0 rmb,cl`, `D3/0 rmw,cl`
  (R381). -/
  | rol (f : ShiftForm)
  /-- ROR: `C0/1 rmb,ib`, `C1/1 rmw,ib`, `D0/1 rmb,1`, `D1/1 rmw,1`, `D2/1 rmb,cl`, `D3/1 rmw,cl`
  (R382). -/
  | ror (f : ShiftForm)
  /-- RCL: `C0/2 rmb,ib`, `C1/2 rmw,ib`, `D0/2 rmb,1`, `D1/2 rmw,1`, `D2/2 rmb,cl`, `D3/2 rmw,cl`
  (R383). -/
  | rcl (f : ShiftForm)
  /-- RCR: `C0/3 rmb,ib`, `C1/3 rmw,ib`, `D0/3 rmb,1`, `D1/3 rmw,1`, `D2/3 rmb,cl`, `D3/3 rmw,cl`
  (R384). -/
  | rcr (f : ShiftForm)
  /-- SHL: `C0/4 rmb,ib`, `C1/4 rmw,ib`, `D0/4 rmb,1`, `D1/4 rmw,1`, `D2/4 rmb,cl`, `D3/4 rmw,cl`
  (R385). -/
  | shl (f : ShiftForm)
  /-- SHR: `C0/5 rmb,ib`, `C1/5 rmw,ib`, `D0/5 rmb,1`, `D1/5 rmw,1`, `D2/5 rmb,cl`, `D3/5 rmw,cl`
  (R386). -/
  | shr (f : ShiftForm)
  /-- SAR: `C0/7 rmb,ib`, `C1/7 rmw,ib`, `D0/7 rmb,1`, `D1/7 rmw,1`, `D2/7 rmb,cl`, `D3/7 rmw,cl`
  (R387). -/
  | sar (f : ShiftForm)
  /-- RET: `C2 iw`, `C3` (R436, R437). -/
  | ret (f : RetForm)
  /-- LES: `C4 rw,mp` (R285). -/
  | les (r : Reg) (m : MemOp)
  /-- LDS: `C5 rw,mp` (R284). -/
  | lds (r : Reg) (m : MemOp)
  /-- ENTER: `C8 iw,ib` (R444). -/
  | enter (imm16 : BitVec 16) (imm : BitVec 8)
  /-- LEAVE: `C9` (R445). -/
  | leave
  /-- RETF: `CA iw`, `CB` (R438, R439). -/
  | retf (f : RetForm)
  /-- INT3: `CC` (R440). -/
  | int3
  /-- INT: `CD ib` (R441). -/
  | int (imm : BitVec 8)
  /-- INTO: `CE` (R442). -/
  | into
  /-- IRET: `CF` (R443). -/
  | iret
  /-- AAM: `D4 ib` (R354). -/
  | aam (imm : BitVec 8)
  /-- AAD: `D5 ib` (R355). -/
  | aad (imm : BitVec 8)
  /-- XLAT: `D7` (R293). -/
  | xlat
  /-- LOOPNE: `E0 jb` (R431). -/
  | loopne (rel : BitVec 8)
  /-- LOOPE: `E1 jb` (R430). -/
  | loope (rel : BitVec 8)
  /-- LOOP: `E2 jb` (R429). -/
  | loop (rel : BitVec 8)
  /-- JCXZ: `E3 jb` (R428). -/
  | jcxz (rel : BitVec 8)
  /-- IN: `E4 al,ib`, `E5 ax,ib`, `EC al,dx`, `ED ax,dx` (R294, R295). -/
  | inp (f : InForm)
  /-- OUT: `E6 ib,al`, `E7 ib,ax`, `EE dx,al`, `EF dx,ax` (R296, R297). -/
  | out (f : OutForm)
  /-- JMP: `E9 jw|jd`, `EA pw|pd`, `EB jb`, `FF/4 rmw`, `FF/5 mp` (R421, R422, R423, R424, R425).
  -/
  | jmp (f : JmpForm)
  /-- HLT: `F4` (R507). -/
  | hlt
  /-- CMC: `F5` (R502). -/
  | cmc
  /-- NOT: `F6/2 rmb`, `F7/2 rmw` (R342). -/
  | not (f : UnaryForm)
  /-- NEG: `F6/3 rmb`, `F7/3 rmw` (R343). -/
  | neg (f : UnaryForm)
  /-- MUL: `F6/4 rmb`, `F7/4 rmw` (R344). -/
  | mul (f : UnaryForm)
  /-- DIV: `F6/6 rmb`, `F7/6 rmw` (R348). -/
  | div (f : UnaryForm)
  /-- IDIV: `F6/7 rmb`, `F7/7 rmw` (R349). -/
  | idiv (f : UnaryForm)
  /-- CLC: `F8` (R500). -/
  | clc
  /-- STC: `F9` (R501). -/
  | stc
  /-- CLI: `FA` (R505). -/
  | cli
  /-- STI: `FB` (R506). -/
  | sti
  /-- CLD: `FC` (R503). -/
  | cld
  /-- STD: `FD` (R504). -/
  | std
  /-- SETO: `0F 90 rmb (reg ignored)` (R298). -/
  | seto (rm : RM)
  /-- SETNO: `0F 91 rmb (reg ignored)` (R298). -/
  | setno (rm : RM)
  /-- SETB: `0F 92 rmb (reg ignored)` (R298). -/
  | setb (rm : RM)
  /-- SETNB: `0F 93 rmb (reg ignored)` (R298). -/
  | setnb (rm : RM)
  /-- SETZ: `0F 94 rmb (reg ignored)` (R298). -/
  | setz (rm : RM)
  /-- SETNZ: `0F 95 rmb (reg ignored)` (R298). -/
  | setnz (rm : RM)
  /-- SETBE: `0F 96 rmb (reg ignored)` (R298). -/
  | setbe (rm : RM)
  /-- SETNBE: `0F 97 rmb (reg ignored)` (R298). -/
  | setnbe (rm : RM)
  /-- SETS: `0F 98 rmb (reg ignored)` (R298). -/
  | sets (rm : RM)
  /-- SETNS: `0F 99 rmb (reg ignored)` (R298). -/
  | setns (rm : RM)
  /-- SETP: `0F 9A rmb (reg ignored)` (R298). -/
  | setp (rm : RM)
  /-- SETNP: `0F 9B rmb (reg ignored)` (R298). -/
  | setnp (rm : RM)
  /-- SETL: `0F 9C rmb (reg ignored)` (R298). -/
  | setl (rm : RM)
  /-- SETNL: `0F 9D rmb (reg ignored)` (R298). -/
  | setnl (rm : RM)
  /-- SETLE: `0F 9E rmb (reg ignored)` (R298). -/
  | setle (rm : RM)
  /-- SETNLE: `0F 9F rmb (reg ignored)` (R298). -/
  | setnle (rm : RM)
  /-- BT: `0F A3 rmw,rw`, `0F BA/4 rmw,ib` (R392). -/
  | bt (f : BitForm)
  /-- SHLD: `0F A4 rmw,rw,ib`, `0F A5 rmw,rw,cl` (R390). -/
  | shld (f : DoubleShiftForm)
  /-- BTS: `0F AB rmw,rw`, `0F BA/5 rmw,ib` (R393). -/
  | bts (f : BitForm)
  /-- SHRD: `0F AC rmw,rw,ib`, `0F AD rmw,rw,cl` (R391). -/
  | shrd (f : DoubleShiftForm)
  /-- LSS: `0F B2 rw,mp` (R288). -/
  | lss (r : Reg) (m : MemOp)
  /-- BTR: `0F B3 rmw,rw`, `0F BA/6 rmw,ib` (R394). -/
  | btr (f : BitForm)
  /-- LFS: `0F B4 rw,mp` (R286). -/
  | lfs (r : Reg) (m : MemOp)
  /-- LGS: `0F B5 rw,mp` (R287). -/
  | lgs (r : Reg) (m : MemOp)
  /-- MOVZX: `0F B6 rw,rmb`, `0F B7 rw,rmw16` (R289). -/
  | movzx (f : ExtendForm)
  /-- BTC: `0F BA/7 rmw,ib`, `0F BB rmw,rw` (R395). -/
  | btc (f : BitForm)
  /-- BSF: `0F BC rw,rmw` (R397). -/
  | bsf (r : Reg) (rm : RM)
  /-- BSR: `0F BD rw,rmw` (R398). -/
  | bsr (r : Reg) (rm : RM)
  /-- MOVSX: `0F BE rw,rmb`, `0F BF rw,rmw16` (R290). -/
  | movsx (f : ExtendForm)
  /-- FADD: `D8/0 mf32`, `DC/0 mf64`, `D8 C0+st st0,st`, `DC C0+st st,st0` (R601). -/
  | fadd (f : FArithForm)
  /-- FIADD: `DA/0 m32`, `DE/0 m16` (R603). -/
  | fiadd (f : FIntForm)
  /-- FMUL: `D8/1 mf32`, `DC/1 mf64`, `D8 C8+st st0,st`, `DC C8+st st,st0` (R604). -/
  | fmul (f : FArithForm)
  /-- FIMUL: `DA/1 m32`, `DE/1 m16` (R606). -/
  | fimul (f : FIntForm)
  /-- FCOM: `D8/2 mf32`, `DC/2 mf64`, `D8 D0+st st0,st` (R621). -/
  | fcom (f : FComForm)
  /-- FICOM: `DA/2 m32`, `DE/2 m16` (R624). -/
  | ficom (f : FIntForm)
  /-- FCOMP: `D8/3 mf32`, `DC/3 mf64`, `D8 D8+st st0,st` (R622). -/
  | fcomp (f : FComForm)
  /-- FICOMP: `DA/3 m32`, `DE/3 m16` (R625). -/
  | ficomp (f : FIntForm)
  /-- FSUB: `D8/4 mf32`, `DC/4 mf64`, `D8 E0+st st0,st`, `DC E8+st st,st0` (R607). -/
  | fsub (f : FArithForm)
  /-- FISUB: `DA/4 m32`, `DE/4 m16` (R609). -/
  | fisub (f : FIntForm)
  /-- FSUBR: `D8/5 mf32`, `DC/5 mf64`, `D8 E8+st st0,st`, `DC E0+st st,st0` (R610). -/
  | fsubr (f : FArithForm)
  /-- FISUBR: `DA/5 m32`, `DE/5 m16` (R612). -/
  | fisubr (f : FIntForm)
  /-- FDIV: `D8/6 mf32`, `DC/6 mf64`, `D8 F0+st st0,st`, `DC F8+st st,st0` (R613). -/
  | fdiv (f : FArithForm)
  /-- FIDIV: `DA/6 m32`, `DE/6 m16` (R615). -/
  | fidiv (f : FIntForm)
  /-- FDIVR: `D8/7 mf32`, `DC/7 mf64`, `D8 F8+st st0,st`, `DC F0+st st,st0` (R616). -/
  | fdivr (f : FArithForm)
  /-- FIDIVR: `DA/7 m32`, `DE/7 m16` (R618). -/
  | fidivr (f : FIntForm)
  /-- FLD: `D9/0 mf32`, `DB/5 mf80`, `DD/0 mf64`, `D9 C0+st st` (R540, R541, R542). -/
  | fld (f : FldForm)
  /-- FST: `D9/2 mf32`, `DD/2 mf64`, `DD D0+st st` (R543, R544). -/
  | fst (f : FstForm)
  /-- FSTP: `D9/3 mf32`, `DB/7 mf80`, `DD/3 mf64`, `DD D8+st st` (R545, R546, R547). -/
  | fstp (f : FldForm)
  /-- FLDENV: `D9/4 menv` (R577). -/
  | fldenv (m : MemOp)
  /-- FLDCW: `D9/5 m16` (R564). -/
  | fldcw (m : MemOp)
  /-- FNSTENV: `D9/6 menv` (R576). -/
  | fnstenv (m : MemOp)
  /-- FNSTCW: `D9/7 m16` (R565). -/
  | fnstcw (m : MemOp)
  /-- FILD: `DB/0 m32`, `DF/0 m16`, `DF/5 m64` (R548). -/
  | fild (f : FildForm)
  /-- FIST: `DB/2 m32`, `DF/2 m16` (R549). -/
  | fist (f : FistForm)
  /-- FISTP: `DB/3 m32`, `DF/3 m16`, `DF/7 m64` (R550). -/
  | fistp (f : FildForm)
  /-- FRSTOR: `DD/4 msave` (R580). -/
  | frstor (m : MemOp)
  /-- FNSAVE: `DD/6 msave` (R579). -/
  | fnsave (m : MemOp)
  /-- FNSTSW: `DD/7 m16`, `DF E0 ax` (R566, R567). -/
  | fnstsw (f : FnstswForm)
  /-- FBLD: `DF/4 m80bcd` (R552). -/
  | fbld (m : MemOp)
  /-- FBSTP: `DF/6 m80bcd` (R553). -/
  | fbstp (m : MemOp)
  /-- FXCH: `D9 C8+st st` (R554). -/
  | fxch (i : StIndex)
  /-- FNOP: `D9 D0` (R571). -/
  | fnop
  /-- FCHS: `D9 E0` (R641). -/
  | fchs
  /-- FABS: `D9 E1` (R642). -/
  | fabs
  /-- FTST: `D9 E4` (R629). -/
  | ftst
  /-- FXAM: `D9 E5` (R640). -/
  | fxam
  /-- FLD1: `D9 E8` (R555). -/
  | fld1
  /-- FLDL2T: `D9 E9` (R556). -/
  | fldl2t
  /-- FLDL2E: `D9 EA` (R557). -/
  | fldl2e
  /-- FLDPI: `D9 EB` (R558). -/
  | fldpi
  /-- FLDLG2: `D9 EC` (R559). -/
  | fldlg2
  /-- FLDLN2: `D9 ED` (R560). -/
  | fldln2
  /-- FLDZ: `D9 EE` (R561). -/
  | fldz
  /-- F2XM1: `D9 F0` (R650). -/
  | f2xm1
  /-- FYL2X: `D9 F1` (R651). -/
  | fyl2x
  /-- FPTAN: `D9 F2` (R652). -/
  | fptan
  /-- FPATAN: `D9 F3` (R653). -/
  | fpatan
  /-- FXTRACT: `D9 F4` (R646). -/
  | fxtract
  /-- FPREM1: `D9 F5` (R648). -/
  | fprem1
  /-- FDECSTP: `D9 F6` (R569). -/
  | fdecstp
  /-- FINCSTP: `D9 F7` (R568). -/
  | fincstp
  /-- FPREM: `D9 F8` (R647). -/
  | fprem
  /-- FYL2XP1: `D9 F9` (R654). -/
  | fyl2xp1
  /-- FSQRT: `D9 FA` (R643). -/
  | fsqrt
  /-- FSINCOS: `D9 FB` (R655). -/
  | fsincos
  /-- FRNDINT: `D9 FC` (R644). -/
  | frndint
  /-- FSCALE: `D9 FD` (R645). -/
  | fscale
  /-- FSIN: `D9 FE` (R656). -/
  | fsin
  /-- FCOS: `D9 FF` (R657). -/
  | fcos
  /-- FUCOMPP: `DA E9` (R628). -/
  | fucompp
  /-- FENI: `DB E0` (R572). -/
  | feni
  /-- FDISI: `DB E1` (R572). -/
  | fdisi
  /-- FNCLEX: `DB E2` (R563). -/
  | fnclex
  /-- FNINIT: `DB E3` (R562). -/
  | fninit
  /-- FSETPM: `DB E4` (R572). -/
  | fsetpm
  /-- FFREE: `DD C0+st st` (R570). -/
  | ffree (i : StIndex)
  /-- FUCOM: `DD E0+st st` (R626). -/
  | fucom (i : StIndex)
  /-- FUCOMP: `DD E8+st st` (R627). -/
  | fucomp (i : StIndex)
  /-- FADDP: `DE C0+st st,st0` (R602). -/
  | faddp (i : StIndex)
  /-- FMULP: `DE C8+st st,st0` (R605). -/
  | fmulp (i : StIndex)
  /-- FSUBRP: `DE E0+st st,st0` (R611). -/
  | fsubrp (i : StIndex)
  /-- FSUBP: `DE E8+st st,st0` (R608). -/
  | fsubp (i : StIndex)
  /-- FDIVRP: `DE F0+st st,st0` (R617). -/
  | fdivrp (i : StIndex)
  /-- FDIVP: `DE F8+st st,st0` (R614). -/
  | fdivp (i : StIndex)
  /-- FCOMPP: `DE D9` (R623). -/
  | fcompp
  deriving DecidableEq, Repr

end Sys2Proof
end

