-- ==== Sys2Proof/Machine/Dispatch.lean ====
section
/-! DEFINITION. One arm per instruction. -/

namespace Sys2Proof.Machine

/-- Runs one decoded instruction, or records one prefix. -/
def exec (i : Instr) (s : State) : Host.Outcome State Fault Refusal :=
  match i with
  | .pfxEs => Sys2Proof.Machine.execPfxEs s
  | .pfxCs => Sys2Proof.Machine.execPfxCs s
  | .pfxSs => Sys2Proof.Machine.execPfxSs s
  | .pfxDs => Sys2Proof.Machine.execPfxDs s
  | .pfxFs => Sys2Proof.Machine.execPfxFs s
  | .pfxGs => Sys2Proof.Machine.execPfxGs s
  | .pfxOpsize => Sys2Proof.Machine.execPfxOpsize s
  | .pfxAdsize => Sys2Proof.Machine.execPfxAdsize s
  | .pfxLock => Sys2Proof.Machine.execPfxLock s
  | .pfxRepne => Sys2Proof.Machine.execPfxRepne s
  | .pfxRep => Sys2Proof.Machine.execPfxRep s
  | .add f => Sys2Proof.Machine.execAdd f s
  | .or f => Sys2Proof.Machine.execOr f s
  | .adc f => Sys2Proof.Machine.execAdc f s
  | .sbb f => Sys2Proof.Machine.execSbb f s
  | .and f => Sys2Proof.Machine.execAnd f s
  | .sub f => Sys2Proof.Machine.execSub f s
  | .xor f => Sys2Proof.Machine.execXor f s
  | .cmp f => Sys2Proof.Machine.execCmp f s
  | .push f => Sys2Proof.Machine.execPush f s
  | .pop f => Sys2Proof.Machine.execPop f s
  | .daa => Sys2Proof.Machine.execDaa s
  | .das => Sys2Proof.Machine.execDas s
  | .aaa => Sys2Proof.Machine.execAaa s
  | .aas => Sys2Proof.Machine.execAas s
  | .inc f => Sys2Proof.Machine.execInc f s
  | .dec f => Sys2Proof.Machine.execDec f s
  | .pusha => Sys2Proof.Machine.execPusha s
  | .popa => Sys2Proof.Machine.execPopa s
  | .bound r m => Sys2Proof.Machine.execBound r m s
  | .imul f => Sys2Proof.Machine.execImul f s
  | .ins f => Sys2Proof.Machine.execIns f s
  | .outs f => Sys2Proof.Machine.execOuts f s
  | .jo f => Sys2Proof.Machine.execJo f s
  | .jno f => Sys2Proof.Machine.execJno f s
  | .jb f => Sys2Proof.Machine.execJb f s
  | .jnb f => Sys2Proof.Machine.execJnb f s
  | .jz f => Sys2Proof.Machine.execJz f s
  | .jnz f => Sys2Proof.Machine.execJnz f s
  | .jbe f => Sys2Proof.Machine.execJbe f s
  | .jnbe f => Sys2Proof.Machine.execJnbe f s
  | .js f => Sys2Proof.Machine.execJs f s
  | .jns f => Sys2Proof.Machine.execJns f s
  | .jp f => Sys2Proof.Machine.execJp f s
  | .jnp f => Sys2Proof.Machine.execJnp f s
  | .jl f => Sys2Proof.Machine.execJl f s
  | .jnl f => Sys2Proof.Machine.execJnl f s
  | .jle f => Sys2Proof.Machine.execJle f s
  | .jnle f => Sys2Proof.Machine.execJnle f s
  | .test f => Sys2Proof.Machine.execTest f s
  | .xchg f => Sys2Proof.Machine.execXchg f s
  | .mov f => Sys2Proof.Machine.execMov f s
  | .lea r m => Sys2Proof.Machine.execLea r m s
  | .nop => Sys2Proof.Machine.execNop s
  | .cbw => Sys2Proof.Machine.execCbw s
  | .cwd => Sys2Proof.Machine.execCwd s
  | .call f => Sys2Proof.Machine.execCall f s
  | .wait => Sys2Proof.Machine.execWait s
  | .pushf => Sys2Proof.Machine.execPushf s
  | .popf => Sys2Proof.Machine.execPopf s
  | .sahf => Sys2Proof.Machine.execSahf s
  | .lahf => Sys2Proof.Machine.execLahf s
  | .movs f => Sys2Proof.Machine.execMovs f s
  | .cmps f => Sys2Proof.Machine.execCmps f s
  | .stos f => Sys2Proof.Machine.execStos f s
  | .lods f => Sys2Proof.Machine.execLods f s
  | .scas f => Sys2Proof.Machine.execScas f s
  | .rol f => Sys2Proof.Machine.execRol f s
  | .ror f => Sys2Proof.Machine.execRor f s
  | .rcl f => Sys2Proof.Machine.execRcl f s
  | .rcr f => Sys2Proof.Machine.execRcr f s
  | .shl f => Sys2Proof.Machine.execShl f s
  | .shr f => Sys2Proof.Machine.execShr f s
  | .sar f => Sys2Proof.Machine.execSar f s
  | .ret f => Sys2Proof.Machine.execRet f s
  | .les r m => Sys2Proof.Machine.execLes r m s
  | .lds r m => Sys2Proof.Machine.execLds r m s
  | .enter imm16 imm => Sys2Proof.Machine.execEnter imm16 imm s
  | .leave => Sys2Proof.Machine.execLeave s
  | .retf f => Sys2Proof.Machine.execRetf f s
  | .int3 => Sys2Proof.Machine.execInt3 s
  | .int imm => Sys2Proof.Machine.execInt imm s
  | .into => Sys2Proof.Machine.execInto s
  | .iret => Sys2Proof.Machine.execIret s
  | .aam imm => Sys2Proof.Machine.execAam imm s
  | .aad imm => Sys2Proof.Machine.execAad imm s
  | .xlat => Sys2Proof.Machine.execXlat s
  | .loopne rel => Sys2Proof.Machine.execLoopne rel s
  | .loope rel => Sys2Proof.Machine.execLoope rel s
  | .loop rel => Sys2Proof.Machine.execLoop rel s
  | .jcxz rel => Sys2Proof.Machine.execJcxz rel s
  | .inp f => Sys2Proof.Machine.execIn f s
  | .out f => Sys2Proof.Machine.execOut f s
  | .jmp f => Sys2Proof.Machine.execJmp f s
  | .hlt => Sys2Proof.Machine.execHlt s
  | .cmc => Sys2Proof.Machine.execCmc s
  | .not f => Sys2Proof.Machine.execNot f s
  | .neg f => Sys2Proof.Machine.execNeg f s
  | .mul f => Sys2Proof.Machine.execMul f s
  | .div f => Sys2Proof.Machine.execDiv f s
  | .idiv f => Sys2Proof.Machine.execIdiv f s
  | .clc => Sys2Proof.Machine.execClc s
  | .stc => Sys2Proof.Machine.execStc s
  | .cli => Sys2Proof.Machine.execCli s
  | .sti => Sys2Proof.Machine.execSti s
  | .cld => Sys2Proof.Machine.execCld s
  | .std => Sys2Proof.Machine.execStd s
  | .seto rm => Sys2Proof.Machine.execSeto rm s
  | .setno rm => Sys2Proof.Machine.execSetno rm s
  | .setb rm => Sys2Proof.Machine.execSetb rm s
  | .setnb rm => Sys2Proof.Machine.execSetnb rm s
  | .setz rm => Sys2Proof.Machine.execSetz rm s
  | .setnz rm => Sys2Proof.Machine.execSetnz rm s
  | .setbe rm => Sys2Proof.Machine.execSetbe rm s
  | .setnbe rm => Sys2Proof.Machine.execSetnbe rm s
  | .sets rm => Sys2Proof.Machine.execSets rm s
  | .setns rm => Sys2Proof.Machine.execSetns rm s
  | .setp rm => Sys2Proof.Machine.execSetp rm s
  | .setnp rm => Sys2Proof.Machine.execSetnp rm s
  | .setl rm => Sys2Proof.Machine.execSetl rm s
  | .setnl rm => Sys2Proof.Machine.execSetnl rm s
  | .setle rm => Sys2Proof.Machine.execSetle rm s
  | .setnle rm => Sys2Proof.Machine.execSetnle rm s
  | .bt f => Sys2Proof.Machine.execBt f s
  | .shld f => Sys2Proof.Machine.execShld f s
  | .bts f => Sys2Proof.Machine.execBts f s
  | .shrd f => Sys2Proof.Machine.execShrd f s
  | .lss r m => Sys2Proof.Machine.execLss r m s
  | .btr f => Sys2Proof.Machine.execBtr f s
  | .lfs r m => Sys2Proof.Machine.execLfs r m s
  | .lgs r m => Sys2Proof.Machine.execLgs r m s
  | .movzx f => Sys2Proof.Machine.execMovzx f s
  | .btc f => Sys2Proof.Machine.execBtc f s
  | .bsf r rm => Sys2Proof.Machine.execBsf r rm s
  | .bsr r rm => Sys2Proof.Machine.execBsr r rm s
  | .movsx f => Sys2Proof.Machine.execMovsx f s
  | .fadd f => Sys2Proof.Machine.execFadd f s
  | .fiadd f => Sys2Proof.Machine.execFiadd f s
  | .fmul f => Sys2Proof.Machine.execFmul f s
  | .fimul f => Sys2Proof.Machine.execFimul f s
  | .fcom f => Sys2Proof.Machine.execFcom f s
  | .ficom f => Sys2Proof.Machine.execFicom f s
  | .fcomp f => Sys2Proof.Machine.execFcomp f s
  | .ficomp f => Sys2Proof.Machine.execFicomp f s
  | .fsub f => Sys2Proof.Machine.execFsub f s
  | .fisub f => Sys2Proof.Machine.execFisub f s
  | .fsubr f => Sys2Proof.Machine.execFsubr f s
  | .fisubr f => Sys2Proof.Machine.execFisubr f s
  | .fdiv f => Sys2Proof.Machine.execFdiv f s
  | .fidiv f => Sys2Proof.Machine.execFidiv f s
  | .fdivr f => Sys2Proof.Machine.execFdivr f s
  | .fidivr f => Sys2Proof.Machine.execFidivr f s
  | .fld f => Sys2Proof.Machine.execFld f s
  | .fst f => Sys2Proof.Machine.execFst f s
  | .fstp f => Sys2Proof.Machine.execFstp f s
  | .fldenv m => Sys2Proof.Machine.execFldenv m s
  | .fldcw m => Sys2Proof.Machine.execFldcw m s
  | .fnstenv m => Sys2Proof.Machine.execFnstenv m s
  | .fnstcw m => Sys2Proof.Machine.execFnstcw m s
  | .fild f => Sys2Proof.Machine.execFild f s
  | .fist f => Sys2Proof.Machine.execFist f s
  | .fistp f => Sys2Proof.Machine.execFistp f s
  | .frstor m => Sys2Proof.Machine.execFrstor m s
  | .fnsave m => Sys2Proof.Machine.execFnsave m s
  | .fnstsw f => Sys2Proof.Machine.execFnstsw f s
  | .fbld m => Sys2Proof.Machine.execFbld m s
  | .fbstp m => Sys2Proof.Machine.execFbstp m s
  | .fxch k => Sys2Proof.Machine.execFxch k s
  | .fnop => Sys2Proof.Machine.execFnop s
  | .fchs => Sys2Proof.Machine.execFchs s
  | .fabs => Sys2Proof.Machine.execFabs s
  | .ftst => Sys2Proof.Machine.execFtst s
  | .fxam => Sys2Proof.Machine.execFxam s
  | .fld1 => Sys2Proof.Machine.execFld1 s
  | .fldl2t => Sys2Proof.Machine.execFldl2t s
  | .fldl2e => Sys2Proof.Machine.execFldl2e s
  | .fldpi => Sys2Proof.Machine.execFldpi s
  | .fldlg2 => Sys2Proof.Machine.execFldlg2 s
  | .fldln2 => Sys2Proof.Machine.execFldln2 s
  | .fldz => Sys2Proof.Machine.execFldz s
  | .f2xm1 => Sys2Proof.Machine.execF2xm1 s
  | .fyl2x => Sys2Proof.Machine.execFyl2x s
  | .fptan => Sys2Proof.Machine.execFptan s
  | .fpatan => Sys2Proof.Machine.execFpatan s
  | .fxtract => Sys2Proof.Machine.execFxtract s
  | .fprem1 => Sys2Proof.Machine.execFprem1 s
  | .fdecstp => Sys2Proof.Machine.execFdecstp s
  | .fincstp => Sys2Proof.Machine.execFincstp s
  | .fprem => Sys2Proof.Machine.execFprem s
  | .fyl2xp1 => Sys2Proof.Machine.execFyl2xp1 s
  | .fsqrt => Sys2Proof.Machine.execFsqrt s
  | .fsincos => Sys2Proof.Machine.execFsincos s
  | .frndint => Sys2Proof.Machine.execFrndint s
  | .fscale => Sys2Proof.Machine.execFscale s
  | .fsin => Sys2Proof.Machine.execFsin s
  | .fcos => Sys2Proof.Machine.execFcos s
  | .fucompp => Sys2Proof.Machine.execFucompp s
  | .feni => Sys2Proof.Machine.execFeni s
  | .fdisi => Sys2Proof.Machine.execFdisi s
  | .fnclex => Sys2Proof.Machine.execFnclex s
  | .fninit => Sys2Proof.Machine.execFninit s
  | .fsetpm => Sys2Proof.Machine.execFsetpm s
  | .ffree k => Sys2Proof.Machine.execFfree k s
  | .fucom k => Sys2Proof.Machine.execFucom k s
  | .fucomp k => Sys2Proof.Machine.execFucomp k s
  | .faddp k => Sys2Proof.Machine.execFaddp k s
  | .fmulp k => Sys2Proof.Machine.execFmulp k s
  | .fsubrp k => Sys2Proof.Machine.execFsubrp k s
  | .fsubp k => Sys2Proof.Machine.execFsubp k s
  | .fdivrp k => Sys2Proof.Machine.execFdivrp k s
  | .fdivp k => Sys2Proof.Machine.execFdivp k s
  | .fcompp => Sys2Proof.Machine.execFcompp s

end Sys2Proof.Machine
end

