-- ==== Sys2Proof/Machine/Accesses.lean ====
section
/-! DEFINITION. The calls of the memory and port interfaces each instruction makes, in their order
(`20_memory.md` rules R82, R84, R96, R98, R100). A meaning computes its values over the memory as
storage (R101); this file says which calls those values go through, so that the record of a step shows
a platform everything it can see (log entry 5). -/

namespace Sys2Proof.Machine

/-! ### The pieces -/

/-- The state with interface calls, given in their order, put in front of the record. -/
def State.record (s : State) (calls : List BusAccess) : State :=
  { s with bus := calls.reverse ++ s.bus }

/-- `MemReadSpan(a, n)`: `n` byte reads at ascending addresses (R84). -/
def spanReads (a : BitVec 32) (n : Nat) : List BusAccess :=
  (List.range n).map fun k => .read (a + BitVec.ofNat 32 k) 1

/-- `MemWriteSpan(a, n, bytes)`: `n` byte writes at ascending addresses (R84). -/
def spanWrites (a : BitVec 32) (n : Nat) : List BusAccess :=
  (List.range n).map fun k => .write (a + BitVec.ofNat 32 k) 1

/-- `PortRead(p, n)`: `n` byte reads at consecutive ports (R96). -/
def portReads (p : BitVec 16) (n : Nat) : List BusAccess :=
  (List.range n).map fun k => .portRead (p + BitVec.ofNat 16 k)

/-- `PortWrite(p, n, v)`: `n` byte writes at consecutive ports (R96). -/
def portWrites (p : BitVec 16) (n : Nat) : List BusAccess :=
  (List.range n).map fun k => .portWrite (p + BitVec.ofNat 16 k)

/-- `ReadRM(w)` (R194). -/
def State.rmReads (s : State) (w : Width) : RM → List BusAccess
  | .reg _ => []
  | .mem m => [.read (s.memAddr m) w.bytes]

/-- `WriteRM(w, v)` (R195). -/
def State.rmWrites (s : State) (w : Width) : RM → List BusAccess
  | .reg _ => []
  | .mem m => [.write (s.memAddr m) w.bytes]

/-- A read-modify-write of an operand: one read, then one write of the same address and width (R98,
R197). -/
def State.rmModifies (s : State) (w : Width) (rm : RM) : List BusAccess :=
  s.rmReads w rm ++ s.rmWrites w rm

/-- `n` pushes of size `z` (R201). -/
def State.pushes (s : State) (z : Size) (n : Nat) : List BusAccess :=
  (List.range n).map fun k => .write (s.lin .ss (s.spDown ((k + 1) * z.bytes))) z.bytes

/-- `n` pops of size `z` (R202). -/
def State.pops (s : State) (z : Size) (n : Nat) : List BusAccess :=
  (List.range n).map fun k => .read (s.slot z k) z.bytes

/-- The two reads of a far pointer, the offset first (R284, R425). -/
def State.farPointerReads (s : State) (m : MemOp) : List BusAccess :=
  [.read (s.memAddr m) s.opsz.bytes, .read (s.memAddr m + BitVec.ofNat 32 s.opsz.bytes) 2]

/-- Delivery of a vector: three writes, then the two reads of its table entry (R676). -/
def State.deliveryAccesses (s : State) (v : BitVec 8) : List BusAccess :=
  s.pushes .s16 3 ++ [.read (vectorAddr v) 2, .read (vectorAddr v + 2) 2]

/-! ### Operand forms -/

/-- The read of a two-operand form's memory operand (R330). -/
def State.aluReads (s : State) : AluForm → List BusAccess
  | .rmbRb rm _ | .rbRmb _ rm | .rmbIb rm _ => s.rmReads .w8 rm
  | .rmwRw rm _ | .rwRmw _ rm | .rmwIw rm _ | .rmwIb rm _ => s.rmReads s.opw rm
  | .alIb _ | .axIw _ => []

/-- The write of a two-operand form's result, where the first operand is in memory (R330). -/
def State.aluWrites (s : State) : AluForm → List BusAccess
  | .rmbRb rm _ | .rmbIb rm _ => s.rmWrites .w8 rm
  | .rmwRw rm _ | .rmwIw rm _ | .rmwIb rm _ => s.rmWrites s.opw rm
  | .rbRmb _ _ | .rwRmw _ _ | .alIb _ | .axIw _ => []

/-- TEST reads only (R339, R98). -/
def State.testReads (s : State) : TestForm → List BusAccess
  | .rmbRb rm _ | .rmbIb rm _ => s.rmReads .w8 rm
  | .rmwRw rm _ | .rmwIw rm _ => s.rmReads s.opw rm
  | .alIb _ | .axIw _ => []

/-- INC and DEC (R340, R341). -/
def State.stepAccesses (s : State) (f : StepForm) : List BusAccess :=
  s.rmModifies (s.stepArg f).1 (s.stepArg f).2

/-- The read of a group-3 operand (R342 to R345, R348, R349). -/
def State.unaryReads (s : State) (f : UnaryForm) : List BusAccess :=
  s.rmReads (s.unaryArg f).1 (s.unaryArg f).2

/-- NOT and NEG (R342, R343). -/
def State.unaryModifies (s : State) (f : UnaryForm) : List BusAccess :=
  s.rmModifies (s.unaryArg f).1 (s.unaryArg f).2

/-- The read of IMUL's operand (R345 to R347). -/
def State.imulReads (s : State) : ImulForm → List BusAccess
  | .rmb rm => s.rmReads .w8 rm
  | .rmw rm | .rwRmw _ rm | .rwRmwIw _ rm _ | .rwRmwIb _ rm _ => s.rmReads s.opw rm

/-- A group-2 operation: the read, and the write unless no step is left (R380). -/
def State.shiftAccesses (s : State) (k : ShiftKind) (f : ShiftForm) : List BusAccess :=
  let x := s.shiftArgs f
  if k.steps x.1.bits x.2.2 = 0 then s.rmReads x.1 x.2.1 else s.rmModifies x.1 x.2.1

/-- SHLD and SHRD: the read, and the write unless the masked count is 0 (R390, R391). -/
def State.doubleShiftAccesses (s : State) (f : DoubleShiftForm) : List BusAccess :=
  let x := s.doubleShiftArgs f
  if x.2.2.toNat % 32 = 0 then s.rmReads s.opw x.1 else s.rmModifies s.opw x.1

/-- The read of a bit test's word (R396). -/
def State.bitReads (s : State) (f : BitForm) : List BusAccess :=
  match (s.bitTarget f).1 with
  | .reg _ => []
  | .phys a => [.read a s.opsz.bytes]

/-- BTS, BTR and BTC write the word back, even unchanged (R396). -/
def State.bitModifies (s : State) (f : BitForm) : List BusAccess :=
  match (s.bitTarget f).1 with
  | .reg _ => []
  | .phys a => [.read a s.opsz.bytes, .write a s.opsz.bytes]

/-- PUSH: a memory operand is read before the push (R270 to R273). -/
def State.pushAccesses (s : State) : PushForm → List BusAccess
  | .sreg _ | .rw _ | .iw _ | .ib _ => s.pushes s.opsz 1
  | .rmw rm => s.rmReads s.opw rm ++ s.pushes s.opsz 1

/-- POP: a memory operand is written at the address it has after the pop (R274 to R276). -/
def State.popAccesses (s : State) : PopForm → List BusAccess
  | .sreg _ | .rw _ => s.pops s.opsz 1
  | .rmw rm => s.pops s.opsz 1 ++ (s.popped s.opsz).rmWrites s.opw rm

/-- XCHG: one read, then one write (R267, R268). -/
def State.xchgAccesses (s : State) : XchgForm → List BusAccess
  | .rmbRb rm _ => s.rmModifies .w8 rm
  | .rmwRw rm _ => s.rmModifies s.opw rm
  | .axRw _ => []

/-- MOV (R261 to R266, R318 to R321). -/
def State.movAccesses (s : State) : MovForm → List BusAccess
  | .rmbRb rm _ | .rmbIb rm _ => s.rmWrites .w8 rm
  | .rmwRw rm _ | .rmwIw rm _ => s.rmWrites s.opw rm
  | .rbRmb _ rm => s.rmReads .w8 rm
  | .rwRmw _ rm => s.rmReads s.opw rm
  | .rmwSreg rm _ => s.rmWrites .w16 rm
  | .sregRmw _ rm => s.rmReads .w16 rm
  | .alMoffs off => [.read (s.moffsAddr off) 1]
  | .axMoffs off => [.read (s.moffsAddr off) s.opsz.bytes]
  | .moffsAl off => [.write (s.moffsAddr off) 1]
  | .moffsAx off => [.write (s.moffsAddr off) s.opsz.bytes]
  | .rbIb _ _ | .rwIw _ _ | .r32Crn _ _ | .crnR32 _ _ | .r32Drn _ _ | .drnR32 _ _ => []

/-- MOVZX and MOVSX (R289, R290). -/
def State.extendReads (s : State) : ExtendForm → List BusAccess
  | .rmb _ rm => s.rmReads .w8 rm
  | .rmw16 _ rm => s.rmReads .w16 rm

/-- IN (R294, R295). -/
def State.inAccesses (s : State) : InForm → List BusAccess
  | .alIb imm => portReads (imm.setWidth 16) 1
  | .axIb imm => portReads (imm.setWidth 16) s.opsz.bytes
  | .alDx => portReads s.dx 1
  | .axDx => portReads s.dx s.opsz.bytes

/-- OUT (R296, R297). -/
def State.outAccesses (s : State) : OutForm → List BusAccess
  | .ibAl imm => portWrites (imm.setWidth 16) 1
  | .ibAx imm => portWrites (imm.setWidth 16) s.opsz.bytes
  | .dxAl => portWrites s.dx 1
  | .dxAx => portWrites s.dx s.opsz.bytes

/-- JMP (R421 to R425). -/
def State.jmpReads (s : State) : JmpForm → List BusAccess
  | .jb _ | .jw _ | .pw _ _ => []
  | .rmw rm => s.rmReads s.opw rm
  | .mp m => s.farPointerReads m

/-- CALL: the target is read before the pushes (R432 to R435). -/
def State.callAccesses (s : State) : CallForm → List BusAccess
  | .jw _ => s.pushes s.opsz 1
  | .pw _ _ => s.pushes s.opsz 2
  | .rmw rm => s.rmReads s.opw rm ++ s.pushes s.opsz 1
  | .mp m => s.farPointerReads m ++ s.pushes s.opsz 2

/-- ENTER: the push of the frame pointer, a read and a push for each frame pointer copied, and the push
of the new frame pointer (R444). -/
def State.enterAccesses (s : State) (imm : BitVec 8) : List BusAccess :=
  let n := s.opsz.bytes
  let level := imm.toNat % 32
  let pushed (k : Nat) : BusAccess := .write (s.lin .ss (s.spDown (k * n))) n
  let copied (k : Nat) : BusAccess :=
    .read (s.lin .ss (s.wrapSP (s.readIndex s.stksz .ebp - BitVec.ofNat 32 (k * n)))) n
  pushed 1 :: ((List.range (level - 1)).flatMap fun j => [copied (j + 1), pushed (j + 2)]) ++
    (if level = 0 then [] else [pushed (level + 1)])

/-- LEAVE: the pop at the frame pointer (R445). -/
def State.leaveReads (s : State) : List BusAccess :=
  [.read (s.lin .ss (s.readIndex s.stksz .ebp)) s.opsz.bytes]

/-- The accesses of a string instruction: those of its element, none under a repeat prefix with a count
of 0 (R472). -/
def State.elementAccesses (s : State) (element : List BusAccess) : List BusAccess :=
  if s.pfx.rep ≠ .none ∧ s.count = 0 then [] else element

/-- FADD to FDIVR with a float operand (R619). -/
def State.farithReads (s : State) : FArithForm → List BusAccess
  | .mf32 m => [.read (s.memAddr m) 4]
  | .mf64 m => spanReads (s.memAddr m) 8
  | .st0St _ | .stSt0 _ => []

/-- The FPU operations with an integer operand (R619, R624). -/
def State.fintReads (s : State) : FIntForm → List BusAccess
  | .m32 m => [.read (s.memAddr m) 4]
  | .m16 m => [.read (s.memAddr m) 2]

/-- FCOM and FCOMP (R621, R622). -/
def State.fcomReads (s : State) : FComForm → List BusAccess
  | .mf32 m => [.read (s.memAddr m) 4]
  | .mf64 m => spanReads (s.memAddr m) 8
  | .st _ => []

/-- FLD (R540 to R542). -/
def State.fldReads (s : State) : FldForm → List BusAccess
  | .mf32 m => [.read (s.memAddr m) 4]
  | .mf64 m => spanReads (s.memAddr m) 8
  | .mf80 m => spanReads (s.memAddr m) 10
  | .st _ => []

/-- FSTP (R545 to R547). -/
def State.fstpWrites (s : State) : FldForm → List BusAccess
  | .mf32 m => [.write (s.memAddr m) 4]
  | .mf64 m => spanWrites (s.memAddr m) 8
  | .mf80 m => spanWrites (s.memAddr m) 10
  | .st _ => []

/-- FST (R543, R544). -/
def State.fstWrites (s : State) : FstForm → List BusAccess
  | .mf32 m => [.write (s.memAddr m) 4]
  | .mf64 m => spanWrites (s.memAddr m) 8
  | .st _ => []

/-- FILD (R548). -/
def State.fildReads (s : State) : FildForm → List BusAccess
  | .m16 m => [.read (s.memAddr m) 2]
  | .m32 m => [.read (s.memAddr m) 4]
  | .m64 m => spanReads (s.memAddr m) 8

/-- FISTP (R550). -/
def State.fistpWrites (s : State) : FildForm → List BusAccess
  | .m16 m => [.write (s.memAddr m) 2]
  | .m32 m => [.write (s.memAddr m) 4]
  | .m64 m => spanWrites (s.memAddr m) 8

/-- FIST (R549). -/
def State.fistWrites (s : State) : FistForm → List BusAccess
  | .m16 m => [.write (s.memAddr m) 2]
  | .m32 m => [.write (s.memAddr m) 4]

/-- FNSTSW (R566, R567). -/
def State.fnstswWrites (s : State) : FnstswForm → List BusAccess
  | .m16 m => [.write (s.memAddr m) 2]
  | .ax => []

/-! ### Instructions -/

/-- The interface calls of an instruction in the state it runs in, without those of a delivery at its
end (R98, R100). -/
def State.accesses (s : State) : Instr → List BusAccess
  | .pfxEs | .pfxCs | .pfxSs | .pfxDs | .pfxFs | .pfxGs => []
  | .pfxOpsize | .pfxAdsize | .pfxLock | .pfxRepne | .pfxRep => []
  | .add f | .or f | .adc f | .sbb f | .and f | .sub f | .xor f => s.aluReads f ++ s.aluWrites f
  | .cmp f => s.aluReads f
  | .test f => s.testReads f
  | .push f => s.pushAccesses f
  | .pop f => s.popAccesses f
  | .pusha => s.pushes s.opsz 8
  | .popa => s.pops s.opsz 8
  | .pushf => s.pushes s.opsz 1
  | .popf => s.pops s.opsz 1
  | .daa | .das | .aaa | .aas | .aam _ | .aad _ => []
  | .inc f | .dec f => s.stepAccesses f
  | .bound _ m =>
    [.read (s.memAddr m) s.opsz.bytes,
      .read (s.memAddr m + BitVec.ofNat 32 s.opsz.bytes) s.opsz.bytes]
  | .imul f => s.imulReads f
  | .mul f | .div f | .idiv f => s.unaryReads f
  | .not f | .neg f => s.unaryModifies f
  | .ins f =>
    let n := (s.elementWidth f).bytes
    s.elementAccesses (portReads s.dx n ++ [.write s.dstAddr n])
  | .outs f =>
    let n := (s.elementWidth f).bytes
    s.elementAccesses (.read s.srcAddr n :: portWrites s.dx n)
  | .movs f =>
    let n := (s.elementWidth f).bytes
    s.elementAccesses [.read s.srcAddr n, .write s.dstAddr n]
  | .cmps f =>
    let n := (s.elementWidth f).bytes
    s.elementAccesses [.read s.srcAddr n, .read s.dstAddr n]
  | .stos f => s.elementAccesses [.write s.dstAddr (s.elementWidth f).bytes]
  | .lods f => s.elementAccesses [.read s.srcAddr (s.elementWidth f).bytes]
  | .scas f => s.elementAccesses [.read s.dstAddr (s.elementWidth f).bytes]
  | .jo _ | .jno _ | .jb _ | .jnb _ | .jz _ | .jnz _ | .jbe _ | .jnbe _ => []
  | .js _ | .jns _ | .jp _ | .jnp _ | .jl _ | .jnl _ | .jle _ | .jnle _ => []
  | .jcxz _ | .loop _ | .loope _ | .loopne _ => []
  | .xchg f => s.xchgAccesses f
  | .mov f => s.movAccesses f
  | .lea _ _ | .nop | .cbw | .cwd | .wait | .sahf | .lahf | .hlt => []
  | .clc | .stc | .cmc | .cli | .sti | .cld | .std => []
  | .call f => s.callAccesses f
  | .jmp f => s.jmpReads f
  | .ret _ => s.pops s.opsz 1
  | .retf _ => s.pops s.opsz 2
  | .iret => s.pops s.opsz 3
  | .int3 | .int _ | .into => []
  | .enter _ imm => s.enterAccesses imm
  | .leave => s.leaveReads
  | .rol f => s.shiftAccesses .rol f
  | .ror f => s.shiftAccesses .ror f
  | .rcl f => s.shiftAccesses .rcl f
  | .rcr f => s.shiftAccesses .rcr f
  | .shl f => s.shiftAccesses .shl f
  | .shr f => s.shiftAccesses .shr f
  | .sar f => s.shiftAccesses .sar f
  | .shld f | .shrd f => s.doubleShiftAccesses f
  | .les _ m | .lds _ m | .lss _ m | .lfs _ m | .lgs _ m => s.farPointerReads m
  | .xlat => [.read (s.lin (s.overridden .ds) s.xlatOffset) 1]
  | .inp f => s.inAccesses f
  | .out f => s.outAccesses f
  | .seto rm | .setno rm | .setb rm | .setnb rm | .setz rm | .setnz rm => s.rmWrites .w8 rm
  | .setbe rm | .setnbe rm | .sets rm | .setns rm | .setp rm | .setnp rm => s.rmWrites .w8 rm
  | .setl rm | .setnl rm | .setle rm | .setnle rm => s.rmWrites .w8 rm
  | .bt f => s.bitReads f
  | .bts f | .btr f | .btc f => s.bitModifies f
  | .movzx f | .movsx f => s.extendReads f
  | .bsf _ rm | .bsr _ rm => s.rmReads s.opw rm
  | .fadd f | .fmul f | .fsub f | .fsubr f | .fdiv f | .fdivr f => s.farithReads f
  | .fiadd f | .fimul f | .fisub f | .fisubr f | .fidiv f | .fidivr f => s.fintReads f
  | .fcom f | .fcomp f => s.fcomReads f
  | .ficom f | .ficomp f => s.fintReads f
  | .fld f => s.fldReads f
  | .fst f => s.fstWrites f
  | .fstp f => s.fstpWrites f
  | .fild f => s.fildReads f
  | .fist f => s.fistWrites f
  | .fistp f => s.fistpWrites f
  | .fldcw m => [.read (s.memAddr m) 2]
  | .fnstcw m => [.write (s.memAddr m) 2]
  | .fnstsw f => s.fnstswWrites f
  | .fldenv m => spanReads (s.memAddr m) (envSize s.opsz)
  | .fnstenv m => spanWrites (s.memAddr m) (envSize s.opsz)
  | .frstor m => spanReads (s.memAddr m) (envSize s.opsz + 80)
  | .fnsave m => spanWrites (s.memAddr m) (envSize s.opsz + 80)
  | .fbld m => spanReads (s.memAddr m) 10
  | .fbstp m => spanWrites (s.memAddr m) 10
  | .fxch _ | .fnop | .fchs | .fabs | .ftst | .fxam => []
  | .fld1 | .fldl2t | .fldl2e | .fldpi | .fldlg2 | .fldln2 | .fldz => []
  | .f2xm1 | .fyl2x | .fptan | .fpatan | .fxtract | .fprem1 | .fdecstp | .fincstp | .fprem => []
  | .fyl2xp1 | .fsqrt | .fsincos | .frndint | .fscale | .fsin | .fcos => []
  | .fucompp | .feni | .fdisi | .fnclex | .fninit | .fsetpm | .ffree _ | .fucom _ | .fucomp _ => []
  | .faddp _ | .fmulp _ | .fsubrp _ | .fsubp _ | .fdivrp _ | .fdivp _ | .fcompp => []

/-- The call reads memory. -/
def BusAccess.isRead : BusAccess → Bool
  | .read _ _ => true
  | .write _ _ | .portRead _ | .portWrite _ => false

/-- The reads an instruction makes before its first write: those of a step that is refused, since every
refusal is found after the operands are read and before anything is written (R27, R434, R671, R676). -/
def State.operandReads (s : State) (i : Instr) : List BusAccess :=
  (s.accesses i).takeWhile BusAccess.isRead

/-- The interface calls of an instruction that ended in `t`: its own, then those of the delivery its
result names (R671, R675). A step runs an instruction with the result `Retired` (`State.beginStep`), so a
`Delivered` in `t` is the instruction's own. -/
def State.accessesTo (s : State) (i : Instr) (t : State) : List BusAccess :=
  s.accesses i ++
    match t.result with
    | some (.delivered v) => s.deliveryAccesses v
    | some .retired => []
    | some .halted => []
    | none => []

end Sys2Proof.Machine
end

