-- ==== Sys2Proof/WellFormed.lean ====
section
/-! DEFINITION. Which instructions are well formed under an operand size `opsz` and an address size
`adsz`: those some byte sequence encodes (`30_encoding.md` rules R128 to R141, R172). Every check is
a `Bool`. -/

namespace Sys2Proof

/-- The address size of a memory form: the 16-bit table (R181) or the 32-bit table (R185). -/
def MemOp.size : MemOp → Size
  | .direct16 _ => .s16
  | .based16 _ _ => .s16
  | .direct32 _ => .s32
  | .based32 _ _ => .s32
  | .sib _ _ _ _ => .s32
  | .sibNoBase _ _ _ => .s32

namespace WellFormed

/-- A memory form of the address size `a` that ModRM and SIB can name: `[bp]` and `[ebp]` need a
displacement (R136), `[esp]` needs a SIB byte (R185), a SIB base `ebp` needs a displacement (R186). -/
def memOk (a : Size) (m : MemOp) : Bool :=
  m.size == a &&
    match m with
    | .based16 .bp .none => false
    | .based32 .esp _ => false
    | .based32 .ebp .none => false
    | .sib _ _ .ebp .none => false
    | _ => true

/-- A register, or a memory form of the address size (R132). -/
def rmOk (a : Size) : RM → Bool
  | .reg _ => true
  | .mem m => memOk a m

/-- A zero-extended field of `z` bits (R139, R141). -/
def immOk : Size → BitVec 32 → Bool
  | .s32, _ => true
  | .s16, imm => imm.toNat < 2 ^ 16

/-- A sign-extended relative displacement of `z` bits (R140). -/
def relOk : Size → BitVec 32 → Bool
  | .s32, _ => true
  | .s16, rel => rel == (rel.setWidth 16).signExtend 32


/-- Well-formedness. The nine encodings of a two-operand ALU operation (R330). -/
def aluFormOk (z a : Size) : AluForm → Bool
  | .rmbRb rm _ | .rmwRw rm _ | .rbRmb _ rm | .rwRmw _ rm | .rmbIb rm _ | .rmwIb rm _ => rmOk a rm
  | .alIb _ => true
  | .axIw imm => immOk z imm
  | .rmwIw rm imm => rmOk a rm && immOk z imm

/-- Well-formedness. The encodings of TEST (R339). -/
def testFormOk (z a : Size) : TestForm → Bool
  | .rmbRb rm _ | .rmwRw rm _ | .rmbIb rm _ => rmOk a rm
  | .alIb _ => true
  | .axIw imm => immOk z imm
  | .rmwIw rm imm => rmOk a rm && immOk z imm

/-- Well-formedness. The encodings of INC and DEC (R340, R341). -/
def stepFormOk (a : Size) : StepForm → Bool
  | .rw _ => true
  | .rmb rm | .rmw rm => rmOk a rm

/-- Well-formedness. The encodings of a group-3 operation without an immediate (R342 to R345, R348, R349). -/
def unaryFormOk (a : Size) : UnaryForm → Bool
  | .rmb rm | .rmw rm => rmOk a rm

/-- Well-formedness. The encodings of IMUL (R345 to R347). -/
def imulFormOk (z a : Size) : ImulForm → Bool
  | .rmb rm | .rmw rm | .rwRmw _ rm | .rwRmwIb _ rm _ => rmOk a rm
  | .rwRmwIw _ rm imm => rmOk a rm && immOk z imm

/-- Well-formedness. The six encodings of a group-2 shift or rotate (R380). -/
def shiftFormOk (a : Size) : ShiftForm → Bool
  | .rmbIb rm _ | .rmwIb rm _ | .rmbOne rm | .rmwOne rm | .rmbCl rm | .rmwCl rm => rmOk a rm

/-- Well-formedness. The encodings of SHLD and SHRD (R390, R391). -/
def doubleShiftFormOk (a : Size) : DoubleShiftForm → Bool
  | .ib rm _ _ | .cl rm _ => rmOk a rm

/-- Well-formedness. The encodings of BT, BTS, BTR, BTC (R396). -/
def bitFormOk (a : Size) : BitForm → Bool
  | .rmwRw rm _ | .rmwIb rm _ => rmOk a rm

/-- Well-formedness. The encodings of PUSH (R270 to R273). -/
def pushFormOk (z a : Size) : PushForm → Bool
  | .sreg _ | .rw _ | .ib _ => true
  | .iw imm => immOk z imm
  | .rmw rm => rmOk a rm

/-- Well-formedness. The encodings of POP (R274 to R276). There is no POP CS (R276). -/
def popFormOk (a : Size) : PopForm → Bool
  | .sreg sr => sr != .cs
  | .rw _ => true
  | .rmw rm => rmOk a rm

/-- Well-formedness. The encodings of XCHG (R267, R268). `XCHG ax,ax` of the `90+rw` form is NOP (R269). -/
def xchgFormOk (a : Size) : XchgForm → Bool
  | .rmbRb rm _ | .rmwRw rm _ => rmOk a rm
  | .axRw r => r != .eax

/-- Well-formedness. The encodings of MOV (R261 to R266, R318 to R321). There is no MOV to CS (R266). -/
def movFormOk (z a : Size) : MovForm → Bool
  | .rmbRb rm _ | .rmwRw rm _ | .rbRmb _ rm | .rwRmw _ rm | .rmwSreg rm _ | .rmbIb rm _ => rmOk a rm
  | .sregRmw sr rm => sr != .cs && rmOk a rm
  | .alMoffs off | .axMoffs off | .moffsAl off | .moffsAx off => immOk a off
  | .rbIb _ _ | .r32Crn _ _ | .crnR32 _ _ | .r32Drn _ _ | .drnR32 _ _ => true
  | .rwIw _ imm => immOk z imm
  | .rmwIw rm imm => rmOk a rm && immOk z imm

/-- Well-formedness. The encodings of MOVZX and MOVSX (R289, R290). -/
def extendFormOk (a : Size) : ExtendForm → Bool
  | .rmb _ rm | .rmw16 _ rm => rmOk a rm

/-- Well-formedness. The encodings of Jcc (R426, R427). -/
def jccFormOk (z : Size) : JccForm → Bool
  | .jb _ => true
  | .jw rel => relOk z rel

/-- Well-formedness. The encodings of JMP (R421 to R425). -/
def jmpFormOk (z a : Size) : JmpForm → Bool
  | .jb _ => true
  | .jw rel => relOk z rel
  | .pw off _ => immOk z off
  | .rmw rm => rmOk a rm
  | .mp m => memOk a m

/-- Well-formedness. The encodings of CALL (R432 to R435). -/
def callFormOk (z a : Size) : CallForm → Bool
  | .jw rel => relOk z rel
  | .pw off _ => immOk z off
  | .rmw rm => rmOk a rm
  | .mp m => memOk a m

/-- Well-formedness. The encodings of an FPU operation with a float memory or register operand (R619). -/
def fArithFormOk (a : Size) : FArithForm → Bool
  | .mf32 m | .mf64 m => memOk a m
  | .st0St _ | .stSt0 _ => true

/-- Well-formedness. The encodings of an FPU operation with an integer memory operand (R619, R624). -/
def fIntFormOk (a : Size) : FIntForm → Bool
  | .m32 m | .m16 m => memOk a m

/-- Well-formedness. The encodings of FCOM and FCOMP (R621, R622). -/
def fComFormOk (a : Size) : FComForm → Bool
  | .mf32 m | .mf64 m => memOk a m
  | .st _ => true

/-- Well-formedness. The encodings of FLD (R540 to R542) and FSTP (R545 to R547). -/
def fldFormOk (a : Size) : FldForm → Bool
  | .mf32 m | .mf64 m | .mf80 m => memOk a m
  | .st _ => true

/-- Well-formedness. The encodings of FST (R543, R544). -/
def fstFormOk (a : Size) : FstForm → Bool
  | .mf32 m | .mf64 m => memOk a m
  | .st _ => true

/-- Well-formedness. The encodings of FILD (R548) and FISTP (R550). -/
def fildFormOk (a : Size) : FildForm → Bool
  | .m16 m | .m32 m | .m64 m => memOk a m

/-- Well-formedness. The encodings of FIST (R549). -/
def fistFormOk (a : Size) : FistForm → Bool
  | .m16 m | .m32 m => memOk a m

/-- Well-formedness. The encodings of FNSTSW (R566, R567). -/
def fnstswFormOk (a : Size) : FnstswForm → Bool
  | .m16 m => memOk a m
  | .ax => true

/-- The instruction is encodable under operand size `z` and address size `a`. -/
def instrOk (z a : Size) : Instr → Bool
  | .pfxEs | .pfxCs | .pfxSs | .pfxDs | .pfxFs | .pfxGs | .pfxOpsize | .pfxAdsize
  | .pfxLock | .pfxRepne | .pfxRep | .daa | .das | .aaa | .aas | .pusha | .popa | .ins _
  | .outs _ | .nop | .cbw | .cwd | .wait | .pushf | .popf | .sahf | .lahf | .movs _
  | .cmps _ | .stos _ | .lods _ | .scas _ | .ret _ | .enter _ _ | .leave | .retf _ | .int3
  | .int _ | .into | .iret | .aam _ | .aad _ | .xlat | .loopne _ | .loope _ | .loop _
  | .jcxz _ | .inp _ | .out _ | .hlt | .cmc | .clc | .stc | .cli | .sti | .cld | .std
  | .fxch _ | .fnop | .fchs | .fabs | .ftst | .fxam | .fld1 | .fldl2t | .fldl2e | .fldpi
  | .fldlg2 | .fldln2 | .fldz | .f2xm1 | .fyl2x | .fptan | .fpatan | .fxtract | .fprem1
  | .fdecstp | .fincstp | .fprem | .fyl2xp1 | .fsqrt | .fsincos | .frndint | .fscale
  | .fsin | .fcos | .fucompp | .feni | .fdisi | .fnclex | .fninit | .fsetpm | .ffree _
  | .fucom _ | .fucomp _ | .faddp _ | .fmulp _ | .fsubrp _ | .fsubp _ | .fdivrp _
  | .fdivp _ | .fcompp => true
  | .add f | .or f | .adc f | .sbb f | .and f | .sub f | .xor f | .cmp f => aluFormOk z a f
  | .push f => pushFormOk z a f
  | .pop f => popFormOk a f
  | .inc f | .dec f => stepFormOk a f
  | .bound _ m | .lea _ m | .les _ m | .lds _ m | .lss _ m | .lfs _ m | .lgs _ m
  | .fldenv m | .fldcw m | .fnstenv m | .fnstcw m | .frstor m | .fnsave m | .fbld m
  | .fbstp m => memOk a m
  | .imul f => imulFormOk z a f
  | .jo f | .jno f | .jb f | .jnb f | .jz f | .jnz f | .jbe f | .jnbe f | .js f | .jns f
  | .jp f | .jnp f | .jl f | .jnl f | .jle f | .jnle f => jccFormOk z f
  | .test f => testFormOk z a f
  | .xchg f => xchgFormOk a f
  | .mov f => movFormOk z a f
  | .call f => callFormOk z a f
  | .rol f | .ror f | .rcl f | .rcr f | .shl f | .shr f | .sar f => shiftFormOk a f
  | .jmp f => jmpFormOk z a f
  | .not f | .neg f | .mul f | .div f | .idiv f => unaryFormOk a f
  | .seto rm | .setno rm | .setb rm | .setnb rm | .setz rm | .setnz rm | .setbe rm
  | .setnbe rm | .sets rm | .setns rm | .setp rm | .setnp rm | .setl rm | .setnl rm
  | .setle rm | .setnle rm | .bsf _ rm | .bsr _ rm => rmOk a rm
  | .bt f | .bts f | .btr f | .btc f => bitFormOk a f
  | .shld f | .shrd f => doubleShiftFormOk a f
  | .movzx f | .movsx f => extendFormOk a f
  | .fadd f | .fmul f | .fsub f | .fsubr f | .fdiv f | .fdivr f => fArithFormOk a f
  | .fiadd f | .fimul f | .ficom f | .ficomp f | .fisub f | .fisubr f | .fidiv f
  | .fidivr f => fIntFormOk a f
  | .fcom f | .fcomp f => fComFormOk a f
  | .fld f | .fstp f => fldFormOk a f
  | .fst f => fstFormOk a f
  | .fild f | .fistp f => fildFormOk a f
  | .fist f => fistFormOk a f
  | .fnstsw f => fnstswFormOk a f

end WellFormed

end Sys2Proof
end

