-- ==== Sys2Proof/Decode.lean ====
section
/-! DEFINITION. The decoder and the encoder (`30_encoding.md`). The decoder is total on any bytes: it
reads one instruction of the opcode map (rules R150 to R171), or one bare prefix byte (R122), under
given `opsz` and `adsz` and answers it with the bytes left over, or `none` for bytes no row matches or
that end too soon (R172, R173). The encoder is written from the same tables. -/

namespace Sys2Proof

/-! ### Codes (R21, R26, R36, R181, R186, R250) -/

/-- The 3-bit code of a general register (R21). -/
def Reg.code : Reg → BitVec 3
  | .eax => 0
  | .ecx => 1
  | .edx => 2
  | .ebx => 3
  | .esp => 4
  | .ebp => 5
  | .esi => 6
  | .edi => 7

/-- The general register of a 3-bit code; every code names one (R21, R23). -/
def Reg.ofCode (c : BitVec 3) : Reg :=
  match c.toNat with
  | 0 => .eax
  | 1 => .ecx
  | 2 => .edx
  | 3 => .ebx
  | 4 => .esp
  | 5 => .ebp
  | 6 => .esi
  | _ => .edi

/-- The 3-bit code of a segment register (R26). -/
def SegReg.code : SegReg → BitVec 3
  | .es => 0
  | .cs => 1
  | .ss => 2
  | .ds => 3
  | .fs => 4
  | .gs => 5

/-- The segment register of a code; 6 and 7 name none (R26). -/
def SegReg.ofCode (c : BitVec 3) : Option SegReg :=
  match c.toNat with
  | 0 => some .es
  | 1 => some .cs
  | 2 => some .ss
  | 3 => some .ds
  | 4 => some .fs
  | 5 => some .gs
  | _ => none

/-- The number of a control register (R36). -/
def CtlReg.code : CtlReg → BitVec 3
  | .cr0 => 0
  | .cr2 => 2
  | .cr3 => 3

/-- The control register of a number; 1 and 4 to 7 name none (R36). -/
def CtlReg.ofCode (c : BitVec 3) : Option CtlReg :=
  match c.toNat with
  | 0 => some .cr0
  | 2 => some .cr2
  | 3 => some .cr3
  | _ => none

/-- The number of a debug register (R36). -/
def DbgReg.code : DbgReg → BitVec 3
  | .dr0 => 0
  | .dr1 => 1
  | .dr2 => 2
  | .dr3 => 3
  | .dr6 => 6
  | .dr7 => 7

/-- The debug register of a number; 4 and 5 name none (R36). -/
def DbgReg.ofCode (c : BitVec 3) : Option DbgReg :=
  match c.toNat with
  | 0 => some .dr0
  | 1 => some .dr1
  | 2 => some .dr2
  | 3 => some .dr3
  | 6 => some .dr6
  | 7 => some .dr7
  | _ => none

/-- The rm code of a 16-bit base (R181). -/
def Base16.code : Base16 → BitVec 3
  | .bxsi => 0
  | .bxdi => 1
  | .bpsi => 2
  | .bpdi => 3
  | .si => 4
  | .di => 5
  | .bp => 6
  | .bx => 7

/-- The 16-bit base of an rm code (R181). -/
def Base16.ofCode (c : BitVec 3) : Base16 :=
  match c.toNat with
  | 0 => .bxsi
  | 1 => .bxdi
  | 2 => .bpsi
  | 3 => .bpdi
  | 4 => .si
  | 5 => .di
  | 6 => .bp
  | _ => .bx

/-- The scale field of a multiplier (R135, R186). -/
def Scale.code : Scale → BitVec 2
  | .x1 => 0
  | .x2 => 1
  | .x4 => 2
  | .x8 => 3

/-- The multiplier of a scale field (R186). -/
def Scale.ofCode (c : BitVec 2) : Scale :=
  match c.toNat with
  | 0 => .x1
  | 1 => .x2
  | 2 => .x4
  | _ => .x8

/-! ### Fields of a byte (R132, R135) -/

/-- Bits 7:6 of a ModRM byte (`mod`) or a SIB byte (`scale`). -/
def hi2 (m : Byte) : BitVec 2 := m.extractLsb' 6 2

/-- Bits 5:3 of a ModRM byte (`reg`, or the group value) or a SIB byte (`index`). -/
def mid3 (m : Byte) : BitVec 3 := m.extractLsb' 3 3

/-- Bits 2:0 of a ModRM byte (`rm`), a SIB byte (`base`) or a `+r` opcode. -/
def lo3 (m : Byte) : BitVec 3 := m.extractLsb' 0 3

/-- The byte with the three fields. -/
def pack (x : BitVec 2) (y z : BitVec 3) : Byte := x ++ y ++ z

/-! ### Reading trailing fields -/

/-- What reading an instruction answers: the instruction and the bytes after it, or nothing. -/
abbrev Parse := Option (Instr × List Byte)

/-- Reads one byte: `ib`, `jb`, a SIB byte or an 8-bit displacement (R138). -/
def take8 (bs : List Byte) (k : Byte → List Byte → Parse) : Parse :=
  match bs with
  | b :: bs => k b bs
  | _ => none

/-- Reads two bytes, low byte first (R83, R139). -/
def take16 (bs : List Byte) (k : BitVec 16 → List Byte → Parse) : Parse :=
  match bs with
  | b0 :: b1 :: bs => k (b1 ++ b0) bs
  | _ => none

/-- Reads four bytes, low byte first (R83, R139). -/
def take32 (bs : List Byte) (k : BitVec 32 → List Byte → Parse) : Parse :=
  match bs with
  | b0 :: b1 :: b2 :: b3 :: bs => k (b3 ++ b2 ++ b1 ++ b0) bs
  | _ => none

/-- Reads a zero-extended field of `z` bits: `iw|id`, `moffs`, the offset of `pw|pd` (R139, R141). -/
def takeImm (z : Size) (bs : List Byte) (k : BitVec 32 → List Byte → Parse) : Parse :=
  match z with
  | .s16 => take16 bs fun v bs => k (v.setWidth 32) bs
  | .s32 => take32 bs k

/-- Reads a sign-extended displacement `jw|jd` (R140). -/
def takeRel (z : Size) (bs : List Byte) (k : BitVec 32 → List Byte → Parse) : Parse :=
  match z with
  | .s16 => take16 bs fun v bs => k (v.signExtend 32) bs
  | .s32 => take32 bs k

/-- Reads the SIB byte and the displacement after it (R135, R136, R186). -/
def takeSib (md : BitVec 2) (bs : List Byte) (k : MemOp → List Byte → Parse) : Parse :=
  take8 bs fun s bs =>
    match md.toNat with
    | 0 =>
      if lo3 s = 5 then
        take32 bs fun d bs => k (.sibNoBase (.ofCode (hi2 s)) (.ofCode (mid3 s)) d) bs
      else k (.sib (.ofCode (hi2 s)) (.ofCode (mid3 s)) (.ofCode (lo3 s)) .none) bs
    | 1 => take8 bs fun d bs =>
      k (.sib (.ofCode (hi2 s)) (.ofCode (mid3 s)) (.ofCode (lo3 s)) (.d8 d)) bs
    | _ => take32 bs fun d bs =>
      k (.sib (.ofCode (hi2 s)) (.ofCode (mid3 s)) (.ofCode (lo3 s)) (.d32 d)) bs

/-- Reads the rest of a memory form with `mod` = 0, 1 or 2 (R136, R181, R185). -/
def takeMem (a : Size) (md : BitVec 2) (rm : BitVec 3) (bs : List Byte)
    (k : MemOp → List Byte → Parse) : Parse :=
  match a with
  | .s16 =>
    match md.toNat with
    | 0 =>
      if rm = 6 then take16 bs fun d bs => k (.direct16 d) bs
      else k (.based16 (.ofCode rm) .none) bs
    | 1 => take8 bs fun d bs => k (.based16 (.ofCode rm) (.d8 d)) bs
    | _ => take16 bs fun d bs => k (.based16 (.ofCode rm) (.d16 d)) bs
  | .s32 =>
    if rm = 4 then takeSib md bs k
    else
      match md.toNat with
      | 0 =>
        if rm = 5 then take32 bs fun d bs => k (.direct32 d) bs
        else k (.based32 (.ofCode rm) .none) bs
      | 1 => take8 bs fun d bs => k (.based32 (.ofCode rm) (.d8 d)) bs
      | _ => take32 bs fun d bs => k (.based32 (.ofCode rm) (.d32 d)) bs

/-- Reads ModRM, SIB and displacement: the `reg` field and the register-or-memory operand (R132). -/
def takeRM (a : Size) (bs : List Byte) (k : BitVec 3 → RM → List Byte → Parse) : Parse :=
  take8 bs fun m bs =>
    if hi2 m = 3 then k (mid3 m) (.reg (.ofCode (lo3 m))) bs
    else takeMem a (hi2 m) (lo3 m) bs fun mem bs => k (mid3 m) (.mem mem) bs

/-- As `takeRM` for a row that takes a memory operand only: `mod = 3` matches no row (R172, R196). -/
def takeM (a : Size) (bs : List Byte) (k : BitVec 3 → MemOp → List Byte → Parse) : Parse :=
  takeRM a bs fun g rm bs =>
    match rm with
    | .mem m => k g m bs
    | .reg _ => none

/-! ### The opcode map, one table per high nibble of the opcode byte -/

/-- 0F 20 to 0F 2F (R165). In the four MOV rows the ModRM byte names two registers and its mod field is
ignored, so no SIB byte and no displacement follows: "treated as 3" (R318), "mod ignored" in each of
these rows of `opcode_table.json`, those of R320 and R321 among them. -/
def two2 (b : Byte) (bs : List Byte) : Parse :=
  match b.toNat with
  | 0x20 =>
    take8 bs fun m bs => (CtlReg.ofCode (mid3 m)).bind fun c => some (.mov (.r32Crn (.ofCode (lo3 m)) c), bs)
  | 0x21 =>
    take8 bs fun m bs => (DbgReg.ofCode (mid3 m)).bind fun c => some (.mov (.r32Drn (.ofCode (lo3 m)) c), bs)
  | 0x22 =>
    take8 bs fun m bs => (CtlReg.ofCode (mid3 m)).bind fun c => some (.mov (.crnR32 c (.ofCode (lo3 m))), bs)
  | 0x23 =>
    take8 bs fun m bs => (DbgReg.ofCode (mid3 m)).bind fun c => some (.mov (.drnR32 c (.ofCode (lo3 m))), bs)
  | _ => none

/-- 0F 80 to 0F 8F (R166). -/
def two8 (z : Size) (b : Byte) (bs : List Byte) : Parse :=
  match b.toNat with
  | 0x80 => takeRel z bs fun rel bs => some (.jo (.jw rel), bs)
  | 0x81 => takeRel z bs fun rel bs => some (.jno (.jw rel), bs)
  | 0x82 => takeRel z bs fun rel bs => some (.jb (.jw rel), bs)
  | 0x83 => takeRel z bs fun rel bs => some (.jnb (.jw rel), bs)
  | 0x84 => takeRel z bs fun rel bs => some (.jz (.jw rel), bs)
  | 0x85 => takeRel z bs fun rel bs => some (.jnz (.jw rel), bs)
  | 0x86 => takeRel z bs fun rel bs => some (.jbe (.jw rel), bs)
  | 0x87 => takeRel z bs fun rel bs => some (.jnbe (.jw rel), bs)
  | 0x88 => takeRel z bs fun rel bs => some (.js (.jw rel), bs)
  | 0x89 => takeRel z bs fun rel bs => some (.jns (.jw rel), bs)
  | 0x8A => takeRel z bs fun rel bs => some (.jp (.jw rel), bs)
  | 0x8B => takeRel z bs fun rel bs => some (.jnp (.jw rel), bs)
  | 0x8C => takeRel z bs fun rel bs => some (.jl (.jw rel), bs)
  | 0x8D => takeRel z bs fun rel bs => some (.jnl (.jw rel), bs)
  | 0x8E => takeRel z bs fun rel bs => some (.jle (.jw rel), bs)
  | 0x8F => takeRel z bs fun rel bs => some (.jnle (.jw rel), bs)
  | _ => none

/-- 0F 90 to 0F 9F (R166). -/
def two9 (a : Size) (b : Byte) (bs : List Byte) : Parse :=
  match b.toNat with
  | 0x90 => takeRM a bs fun _ rm bs => some (.seto rm, bs)
  | 0x91 => takeRM a bs fun _ rm bs => some (.setno rm, bs)
  | 0x92 => takeRM a bs fun _ rm bs => some (.setb rm, bs)
  | 0x93 => takeRM a bs fun _ rm bs => some (.setnb rm, bs)
  | 0x94 => takeRM a bs fun _ rm bs => some (.setz rm, bs)
  | 0x95 => takeRM a bs fun _ rm bs => some (.setnz rm, bs)
  | 0x96 => takeRM a bs fun _ rm bs => some (.setbe rm, bs)
  | 0x97 => takeRM a bs fun _ rm bs => some (.setnbe rm, bs)
  | 0x98 => takeRM a bs fun _ rm bs => some (.sets rm, bs)
  | 0x99 => takeRM a bs fun _ rm bs => some (.setns rm, bs)
  | 0x9A => takeRM a bs fun _ rm bs => some (.setp rm, bs)
  | 0x9B => takeRM a bs fun _ rm bs => some (.setnp rm, bs)
  | 0x9C => takeRM a bs fun _ rm bs => some (.setl rm, bs)
  | 0x9D => takeRM a bs fun _ rm bs => some (.setnl rm, bs)
  | 0x9E => takeRM a bs fun _ rm bs => some (.setle rm, bs)
  | 0x9F => takeRM a bs fun _ rm bs => some (.setnle rm, bs)
  | _ => none

/-- 0F A0 to 0F AF (R167). -/
def twoA (a : Size) (b : Byte) (bs : List Byte) : Parse :=
  match b.toNat with
  | 0xA0 => some (.push (.sreg .fs), bs)
  | 0xA1 => some (.pop (.sreg .fs), bs)
  | 0xA3 => takeRM a bs fun g rm bs => some (.bt (.rmwRw rm (.ofCode g)), bs)
  | 0xA4 =>
    takeRM a bs fun g rm bs => take8 bs fun imm bs => some (.shld (.ib rm (.ofCode g) imm), bs)
  | 0xA5 => takeRM a bs fun g rm bs => some (.shld (.cl rm (.ofCode g)), bs)
  | 0xA8 => some (.push (.sreg .gs), bs)
  | 0xA9 => some (.pop (.sreg .gs), bs)
  | 0xAB => takeRM a bs fun g rm bs => some (.bts (.rmwRw rm (.ofCode g)), bs)
  | 0xAC =>
    takeRM a bs fun g rm bs => take8 bs fun imm bs => some (.shrd (.ib rm (.ofCode g) imm), bs)
  | 0xAD => takeRM a bs fun g rm bs => some (.shrd (.cl rm (.ofCode g)), bs)
  | 0xAF => takeRM a bs fun g rm bs => some (.imul (.rwRmw (.ofCode g) rm), bs)
  | _ => none

/-- 0F B0 to 0F BF (R168, R164). -/
def twoB (a : Size) (b : Byte) (bs : List Byte) : Parse :=
  match b.toNat with
  | 0xB2 => takeM a bs fun g m bs => some (.lss (.ofCode g) m, bs)
  | 0xB3 => takeRM a bs fun g rm bs => some (.btr (.rmwRw rm (.ofCode g)), bs)
  | 0xB4 => takeM a bs fun g m bs => some (.lfs (.ofCode g) m, bs)
  | 0xB5 => takeM a bs fun g m bs => some (.lgs (.ofCode g) m, bs)
  | 0xB6 => takeRM a bs fun g rm bs => some (.movzx (.rmb (.ofCode g) rm), bs)
  | 0xB7 => takeRM a bs fun g rm bs => some (.movzx (.rmw16 (.ofCode g) rm), bs)
  | 0xBA =>
    takeRM a bs fun g rm bs =>
      match g.toNat with
      | 4 => take8 bs fun imm bs => some (.bt (.rmwIb rm imm), bs)
      | 5 => take8 bs fun imm bs => some (.bts (.rmwIb rm imm), bs)
      | 6 => take8 bs fun imm bs => some (.btr (.rmwIb rm imm), bs)
      | 7 => take8 bs fun imm bs => some (.btc (.rmwIb rm imm), bs)
      | _ => none
  | 0xBB => takeRM a bs fun g rm bs => some (.btc (.rmwRw rm (.ofCode g)), bs)
  | 0xBC => takeRM a bs fun g rm bs => some (.bsf (.ofCode g) rm, bs)
  | 0xBD => takeRM a bs fun g rm bs => some (.bsr (.ofCode g) rm, bs)
  | 0xBE => takeRM a bs fun g rm bs => some (.movsx (.rmb (.ofCode g) rm), bs)
  | 0xBF => takeRM a bs fun g rm bs => some (.movsx (.rmw16 (.ofCode g) rm), bs)
  | _ => none

/-- 00 to 0F (R150). -/
def one0 (z a : Size) (b : Byte) (bs : List Byte) : Parse :=
  match b.toNat with
  | 0x00 => takeRM a bs fun g rm bs => some (.add (.rmbRb rm (.ofCode g)), bs)
  | 0x01 => takeRM a bs fun g rm bs => some (.add (.rmwRw rm (.ofCode g)), bs)
  | 0x02 => takeRM a bs fun g rm bs => some (.add (.rbRmb (.ofCode g) rm), bs)
  | 0x03 => takeRM a bs fun g rm bs => some (.add (.rwRmw (.ofCode g) rm), bs)
  | 0x04 => take8 bs fun imm bs => some (.add (.alIb imm), bs)
  | 0x05 => takeImm z bs fun imm bs => some (.add (.axIw imm), bs)
  | 0x06 => some (.push (.sreg .es), bs)
  | 0x07 => some (.pop (.sreg .es), bs)
  | 0x08 => takeRM a bs fun g rm bs => some (.or (.rmbRb rm (.ofCode g)), bs)
  | 0x09 => takeRM a bs fun g rm bs => some (.or (.rmwRw rm (.ofCode g)), bs)
  | 0x0A => takeRM a bs fun g rm bs => some (.or (.rbRmb (.ofCode g) rm), bs)
  | 0x0B => takeRM a bs fun g rm bs => some (.or (.rwRmw (.ofCode g) rm), bs)
  | 0x0C => take8 bs fun imm bs => some (.or (.alIb imm), bs)
  | 0x0D => takeImm z bs fun imm bs => some (.or (.axIw imm), bs)
  | 0x0E => some (.push (.sreg .cs), bs)
  | _ => none

/-- 10 to 1F (R150). -/
def one1 (z a : Size) (b : Byte) (bs : List Byte) : Parse :=
  match b.toNat with
  | 0x10 => takeRM a bs fun g rm bs => some (.adc (.rmbRb rm (.ofCode g)), bs)
  | 0x11 => takeRM a bs fun g rm bs => some (.adc (.rmwRw rm (.ofCode g)), bs)
  | 0x12 => takeRM a bs fun g rm bs => some (.adc (.rbRmb (.ofCode g) rm), bs)
  | 0x13 => takeRM a bs fun g rm bs => some (.adc (.rwRmw (.ofCode g) rm), bs)
  | 0x14 => take8 bs fun imm bs => some (.adc (.alIb imm), bs)
  | 0x15 => takeImm z bs fun imm bs => some (.adc (.axIw imm), bs)
  | 0x16 => some (.push (.sreg .ss), bs)
  | 0x17 => some (.pop (.sreg .ss), bs)
  | 0x18 => takeRM a bs fun g rm bs => some (.sbb (.rmbRb rm (.ofCode g)), bs)
  | 0x19 => takeRM a bs fun g rm bs => some (.sbb (.rmwRw rm (.ofCode g)), bs)
  | 0x1A => takeRM a bs fun g rm bs => some (.sbb (.rbRmb (.ofCode g) rm), bs)
  | 0x1B => takeRM a bs fun g rm bs => some (.sbb (.rwRmw (.ofCode g) rm), bs)
  | 0x1C => take8 bs fun imm bs => some (.sbb (.alIb imm), bs)
  | 0x1D => takeImm z bs fun imm bs => some (.sbb (.axIw imm), bs)
  | 0x1E => some (.push (.sreg .ds), bs)
  | 0x1F => some (.pop (.sreg .ds), bs)
  | _ => none

/-- 20 to 2F (R150, R122). -/
def one2 (z a : Size) (b : Byte) (bs : List Byte) : Parse :=
  match b.toNat with
  | 0x20 => takeRM a bs fun g rm bs => some (.and (.rmbRb rm (.ofCode g)), bs)
  | 0x21 => takeRM a bs fun g rm bs => some (.and (.rmwRw rm (.ofCode g)), bs)
  | 0x22 => takeRM a bs fun g rm bs => some (.and (.rbRmb (.ofCode g) rm), bs)
  | 0x23 => takeRM a bs fun g rm bs => some (.and (.rwRmw (.ofCode g) rm), bs)
  | 0x24 => take8 bs fun imm bs => some (.and (.alIb imm), bs)
  | 0x25 => takeImm z bs fun imm bs => some (.and (.axIw imm), bs)
  | 0x26 => some (.pfxEs, bs)
  | 0x27 => some (.daa, bs)
  | 0x28 => takeRM a bs fun g rm bs => some (.sub (.rmbRb rm (.ofCode g)), bs)
  | 0x29 => takeRM a bs fun g rm bs => some (.sub (.rmwRw rm (.ofCode g)), bs)
  | 0x2A => takeRM a bs fun g rm bs => some (.sub (.rbRmb (.ofCode g) rm), bs)
  | 0x2B => takeRM a bs fun g rm bs => some (.sub (.rwRmw (.ofCode g) rm), bs)
  | 0x2C => take8 bs fun imm bs => some (.sub (.alIb imm), bs)
  | 0x2D => takeImm z bs fun imm bs => some (.sub (.axIw imm), bs)
  | 0x2E => some (.pfxCs, bs)
  | 0x2F => some (.das, bs)
  | _ => none

/-- 30 to 3F (R150, R122). -/
def one3 (z a : Size) (b : Byte) (bs : List Byte) : Parse :=
  match b.toNat with
  | 0x30 => takeRM a bs fun g rm bs => some (.xor (.rmbRb rm (.ofCode g)), bs)
  | 0x31 => takeRM a bs fun g rm bs => some (.xor (.rmwRw rm (.ofCode g)), bs)
  | 0x32 => takeRM a bs fun g rm bs => some (.xor (.rbRmb (.ofCode g) rm), bs)
  | 0x33 => takeRM a bs fun g rm bs => some (.xor (.rwRmw (.ofCode g) rm), bs)
  | 0x34 => take8 bs fun imm bs => some (.xor (.alIb imm), bs)
  | 0x35 => takeImm z bs fun imm bs => some (.xor (.axIw imm), bs)
  | 0x36 => some (.pfxSs, bs)
  | 0x37 => some (.aaa, bs)
  | 0x38 => takeRM a bs fun g rm bs => some (.cmp (.rmbRb rm (.ofCode g)), bs)
  | 0x39 => takeRM a bs fun g rm bs => some (.cmp (.rmwRw rm (.ofCode g)), bs)
  | 0x3A => takeRM a bs fun g rm bs => some (.cmp (.rbRmb (.ofCode g) rm), bs)
  | 0x3B => takeRM a bs fun g rm bs => some (.cmp (.rwRmw (.ofCode g) rm), bs)
  | 0x3C => take8 bs fun imm bs => some (.cmp (.alIb imm), bs)
  | 0x3D => takeImm z bs fun imm bs => some (.cmp (.axIw imm), bs)
  | 0x3E => some (.pfxDs, bs)
  | 0x3F => some (.aas, bs)
  | _ => none

/-- 40 to 4F (R151). -/
def one4 (b : Byte) (bs : List Byte) : Parse :=
  match b.toNat with
  | 0x40 | 0x41 | 0x42 | 0x43 | 0x44 | 0x45 | 0x46 | 0x47 =>
    some (.inc (.rw (.ofCode (lo3 b))), bs)
  | 0x48 | 0x49 | 0x4A | 0x4B | 0x4C | 0x4D | 0x4E | 0x4F =>
    some (.dec (.rw (.ofCode (lo3 b))), bs)
  | _ => none

/-- 50 to 5F (R151). -/
def one5 (b : Byte) (bs : List Byte) : Parse :=
  match b.toNat with
  | 0x50 | 0x51 | 0x52 | 0x53 | 0x54 | 0x55 | 0x56 | 0x57 =>
    some (.push (.rw (.ofCode (lo3 b))), bs)
  | 0x58 | 0x59 | 0x5A | 0x5B | 0x5C | 0x5D | 0x5E | 0x5F =>
    some (.pop (.rw (.ofCode (lo3 b))), bs)
  | _ => none

/-- 60 to 6F (R152, R122). -/
def one6 (z a : Size) (b : Byte) (bs : List Byte) : Parse :=
  match b.toNat with
  | 0x60 => some (.pusha, bs)
  | 0x61 => some (.popa, bs)
  | 0x62 => takeM a bs fun g m bs => some (.bound (.ofCode g) m, bs)
  | 0x64 => some (.pfxFs, bs)
  | 0x65 => some (.pfxGs, bs)
  | 0x66 => some (.pfxOpsize, bs)
  | 0x67 => some (.pfxAdsize, bs)
  | 0x68 => takeImm z bs fun imm bs => some (.push (.iw imm), bs)
  | 0x69 =>
    takeRM a bs fun g rm bs => takeImm z bs fun imm bs => some (.imul (.rwRmwIw (.ofCode g) rm imm), bs)
  | 0x6A => take8 bs fun imm bs => some (.push (.ib imm), bs)
  | 0x6B =>
    takeRM a bs fun g rm bs => take8 bs fun imm bs => some (.imul (.rwRmwIb (.ofCode g) rm imm), bs)
  | 0x6C => some (.ins .b, bs)
  | 0x6D => some (.ins .w, bs)
  | 0x6E => some (.outs .b, bs)
  | 0x6F => some (.outs .w, bs)
  | _ => none

/-- 70 to 7F (R153). -/
def one7 (b : Byte) (bs : List Byte) : Parse :=
  match b.toNat with
  | 0x70 => take8 bs fun rel bs => some (.jo (.jb rel), bs)
  | 0x71 => take8 bs fun rel bs => some (.jno (.jb rel), bs)
  | 0x72 => take8 bs fun rel bs => some (.jb (.jb rel), bs)
  | 0x73 => take8 bs fun rel bs => some (.jnb (.jb rel), bs)
  | 0x74 => take8 bs fun rel bs => some (.jz (.jb rel), bs)
  | 0x75 => take8 bs fun rel bs => some (.jnz (.jb rel), bs)
  | 0x76 => take8 bs fun rel bs => some (.jbe (.jb rel), bs)
  | 0x77 => take8 bs fun rel bs => some (.jnbe (.jb rel), bs)
  | 0x78 => take8 bs fun rel bs => some (.js (.jb rel), bs)
  | 0x79 => take8 bs fun rel bs => some (.jns (.jb rel), bs)
  | 0x7A => take8 bs fun rel bs => some (.jp (.jb rel), bs)
  | 0x7B => take8 bs fun rel bs => some (.jnp (.jb rel), bs)
  | 0x7C => take8 bs fun rel bs => some (.jl (.jb rel), bs)
  | 0x7D => take8 bs fun rel bs => some (.jnl (.jb rel), bs)
  | 0x7E => take8 bs fun rel bs => some (.jle (.jb rel), bs)
  | 0x7F => take8 bs fun rel bs => some (.jnle (.jb rel), bs)
  | _ => none

/-- 80 to 8F (R154, R164). -/
def one8 (z a : Size) (b : Byte) (bs : List Byte) : Parse :=
  match b.toNat with
  | 0x80 =>
    takeRM a bs fun g rm bs =>
      match g.toNat with
      | 0 => take8 bs fun imm bs => some (.add (.rmbIb rm imm), bs)
      | 1 => take8 bs fun imm bs => some (.or (.rmbIb rm imm), bs)
      | 2 => take8 bs fun imm bs => some (.adc (.rmbIb rm imm), bs)
      | 3 => take8 bs fun imm bs => some (.sbb (.rmbIb rm imm), bs)
      | 4 => take8 bs fun imm bs => some (.and (.rmbIb rm imm), bs)
      | 5 => take8 bs fun imm bs => some (.sub (.rmbIb rm imm), bs)
      | 6 => take8 bs fun imm bs => some (.xor (.rmbIb rm imm), bs)
      | 7 => take8 bs fun imm bs => some (.cmp (.rmbIb rm imm), bs)
      | _ => none
  | 0x81 =>
    takeRM a bs fun g rm bs =>
      match g.toNat with
      | 0 => takeImm z bs fun imm bs => some (.add (.rmwIw rm imm), bs)
      | 1 => takeImm z bs fun imm bs => some (.or (.rmwIw rm imm), bs)
      | 2 => takeImm z bs fun imm bs => some (.adc (.rmwIw rm imm), bs)
      | 3 => takeImm z bs fun imm bs => some (.sbb (.rmwIw rm imm), bs)
      | 4 => takeImm z bs fun imm bs => some (.and (.rmwIw rm imm), bs)
      | 5 => takeImm z bs fun imm bs => some (.sub (.rmwIw rm imm), bs)
      | 6 => takeImm z bs fun imm bs => some (.xor (.rmwIw rm imm), bs)
      | 7 => takeImm z bs fun imm bs => some (.cmp (.rmwIw rm imm), bs)
      | _ => none
  | 0x83 =>
    takeRM a bs fun g rm bs =>
      match g.toNat with
      | 0 => take8 bs fun imm bs => some (.add (.rmwIb rm imm), bs)
      | 1 => take8 bs fun imm bs => some (.or (.rmwIb rm imm), bs)
      | 2 => take8 bs fun imm bs => some (.adc (.rmwIb rm imm), bs)
      | 3 => take8 bs fun imm bs => some (.sbb (.rmwIb rm imm), bs)
      | 4 => take8 bs fun imm bs => some (.and (.rmwIb rm imm), bs)
      | 5 => take8 bs fun imm bs => some (.sub (.rmwIb rm imm), bs)
      | 6 => take8 bs fun imm bs => some (.xor (.rmwIb rm imm), bs)
      | 7 => take8 bs fun imm bs => some (.cmp (.rmwIb rm imm), bs)
      | _ => none
  | 0x84 => takeRM a bs fun g rm bs => some (.test (.rmbRb rm (.ofCode g)), bs)
  | 0x85 => takeRM a bs fun g rm bs => some (.test (.rmwRw rm (.ofCode g)), bs)
  | 0x86 => takeRM a bs fun g rm bs => some (.xchg (.rmbRb rm (.ofCode g)), bs)
  | 0x87 => takeRM a bs fun g rm bs => some (.xchg (.rmwRw rm (.ofCode g)), bs)
  | 0x88 => takeRM a bs fun g rm bs => some (.mov (.rmbRb rm (.ofCode g)), bs)
  | 0x89 => takeRM a bs fun g rm bs => some (.mov (.rmwRw rm (.ofCode g)), bs)
  | 0x8A => takeRM a bs fun g rm bs => some (.mov (.rbRmb (.ofCode g) rm), bs)
  | 0x8B => takeRM a bs fun g rm bs => some (.mov (.rwRmw (.ofCode g) rm), bs)
  | 0x8C =>
    takeRM a bs fun g rm bs => (SegReg.ofCode g).bind fun sr => some (.mov (.rmwSreg rm sr), bs)
  | 0x8D => takeM a bs fun g m bs => some (.lea (.ofCode g) m, bs)
  | 0x8E =>
    takeRM a bs fun g rm bs =>
      match SegReg.ofCode g with
      | none | some .cs => none
      | some sr => some (.mov (.sregRmw sr rm), bs)
  | 0x8F =>
    takeRM a bs fun g rm bs =>
      match g.toNat with
      | 0 => some (.pop (.rmw rm), bs)
      | _ => none
  | _ => none

/-- 90 to 9F (R155). -/
def one9 (z : Size) (b : Byte) (bs : List Byte) : Parse :=
  match b.toNat with
  | 0x90 => some (.nop, bs)
  | 0x91 | 0x92 | 0x93 | 0x94 | 0x95 | 0x96 | 0x97 =>
    some (.xchg (.axRw (.ofCode (lo3 b))), bs)
  | 0x98 => some (.cbw, bs)
  | 0x99 => some (.cwd, bs)
  | 0x9A => takeImm z bs fun off bs => take16 bs fun sel bs => some (.call (.pw off sel), bs)
  | 0x9B => some (.wait, bs)
  | 0x9C => some (.pushf, bs)
  | 0x9D => some (.popf, bs)
  | 0x9E => some (.sahf, bs)
  | 0x9F => some (.lahf, bs)
  | _ => none

/-- A0 to AF (R156). -/
def oneA (z a : Size) (b : Byte) (bs : List Byte) : Parse :=
  match b.toNat with
  | 0xA0 => takeImm a bs fun off bs => some (.mov (.alMoffs off), bs)
  | 0xA1 => takeImm a bs fun off bs => some (.mov (.axMoffs off), bs)
  | 0xA2 => takeImm a bs fun off bs => some (.mov (.moffsAl off), bs)
  | 0xA3 => takeImm a bs fun off bs => some (.mov (.moffsAx off), bs)
  | 0xA4 => some (.movs .b, bs)
  | 0xA5 => some (.movs .w, bs)
  | 0xA6 => some (.cmps .b, bs)
  | 0xA7 => some (.cmps .w, bs)
  | 0xA8 => take8 bs fun imm bs => some (.test (.alIb imm), bs)
  | 0xA9 => takeImm z bs fun imm bs => some (.test (.axIw imm), bs)
  | 0xAA => some (.stos .b, bs)
  | 0xAB => some (.stos .w, bs)
  | 0xAC => some (.lods .b, bs)
  | 0xAD => some (.lods .w, bs)
  | 0xAE => some (.scas .b, bs)
  | 0xAF => some (.scas .w, bs)
  | _ => none

/-- B0 to BF (R157). -/
def oneB (z : Size) (b : Byte) (bs : List Byte) : Parse :=
  match b.toNat with
  | 0xB0 | 0xB1 | 0xB2 | 0xB3 | 0xB4 | 0xB5 | 0xB6 | 0xB7 =>
    take8 bs fun imm bs => some (.mov (.rbIb (.ofCode (lo3 b)) imm), bs)
  | 0xB8 | 0xB9 | 0xBA | 0xBB | 0xBC | 0xBD | 0xBE | 0xBF =>
    takeImm z bs fun imm bs => some (.mov (.rwIw (.ofCode (lo3 b)) imm), bs)
  | _ => none

/-- C0 to CF (R158, R164). -/
def oneC (z a : Size) (b : Byte) (bs : List Byte) : Parse :=
  match b.toNat with
  | 0xC0 =>
    takeRM a bs fun g rm bs =>
      match g.toNat with
      | 0 => take8 bs fun imm bs => some (.rol (.rmbIb rm imm), bs)
      | 1 => take8 bs fun imm bs => some (.ror (.rmbIb rm imm), bs)
      | 2 => take8 bs fun imm bs => some (.rcl (.rmbIb rm imm), bs)
      | 3 => take8 bs fun imm bs => some (.rcr (.rmbIb rm imm), bs)
      | 4 => take8 bs fun imm bs => some (.shl (.rmbIb rm imm), bs)
      | 5 => take8 bs fun imm bs => some (.shr (.rmbIb rm imm), bs)
      | 7 => take8 bs fun imm bs => some (.sar (.rmbIb rm imm), bs)
      | _ => none
  | 0xC1 =>
    takeRM a bs fun g rm bs =>
      match g.toNat with
      | 0 => take8 bs fun imm bs => some (.rol (.rmwIb rm imm), bs)
      | 1 => take8 bs fun imm bs => some (.ror (.rmwIb rm imm), bs)
      | 2 => take8 bs fun imm bs => some (.rcl (.rmwIb rm imm), bs)
      | 3 => take8 bs fun imm bs => some (.rcr (.rmwIb rm imm), bs)
      | 4 => take8 bs fun imm bs => some (.shl (.rmwIb rm imm), bs)
      | 5 => take8 bs fun imm bs => some (.shr (.rmwIb rm imm), bs)
      | 7 => take8 bs fun imm bs => some (.sar (.rmwIb rm imm), bs)
      | _ => none
  | 0xC2 => take16 bs fun imm bs => some (.ret (.iw imm), bs)
  | 0xC3 => some (.ret .plain, bs)
  | 0xC4 => takeM a bs fun g m bs => some (.les (.ofCode g) m, bs)
  | 0xC5 => takeM a bs fun g m bs => some (.lds (.ofCode g) m, bs)
  | 0xC6 =>
    takeRM a bs fun g rm bs =>
      match g.toNat with
      | 0 => take8 bs fun imm bs => some (.mov (.rmbIb rm imm), bs)
      | _ => none
  | 0xC7 =>
    takeRM a bs fun g rm bs =>
      match g.toNat with
      | 0 => takeImm z bs fun imm bs => some (.mov (.rmwIw rm imm), bs)
      | _ => none
  | 0xC8 => take16 bs fun imm16 bs => take8 bs fun imm bs => some (.enter imm16 imm, bs)
  | 0xC9 => some (.leave, bs)
  | 0xCA => take16 bs fun imm bs => some (.retf (.iw imm), bs)
  | 0xCB => some (.retf .plain, bs)
  | 0xCC => some (.int3, bs)
  | 0xCD => take8 bs fun imm bs => some (.int imm, bs)
  | 0xCE => some (.into, bs)
  | 0xCF => some (.iret, bs)
  | _ => none

/-- D0 to DF (R159, R164, R170, R171). -/
def oneD (a : Size) (b : Byte) (bs : List Byte) : Parse :=
  match b.toNat with
  | 0xD0 =>
    takeRM a bs fun g rm bs =>
      match g.toNat with
      | 0 => some (.rol (.rmbOne rm), bs)
      | 1 => some (.ror (.rmbOne rm), bs)
      | 2 => some (.rcl (.rmbOne rm), bs)
      | 3 => some (.rcr (.rmbOne rm), bs)
      | 4 => some (.shl (.rmbOne rm), bs)
      | 5 => some (.shr (.rmbOne rm), bs)
      | 7 => some (.sar (.rmbOne rm), bs)
      | _ => none
  | 0xD1 =>
    takeRM a bs fun g rm bs =>
      match g.toNat with
      | 0 => some (.rol (.rmwOne rm), bs)
      | 1 => some (.ror (.rmwOne rm), bs)
      | 2 => some (.rcl (.rmwOne rm), bs)
      | 3 => some (.rcr (.rmwOne rm), bs)
      | 4 => some (.shl (.rmwOne rm), bs)
      | 5 => some (.shr (.rmwOne rm), bs)
      | 7 => some (.sar (.rmwOne rm), bs)
      | _ => none
  | 0xD2 =>
    takeRM a bs fun g rm bs =>
      match g.toNat with
      | 0 => some (.rol (.rmbCl rm), bs)
      | 1 => some (.ror (.rmbCl rm), bs)
      | 2 => some (.rcl (.rmbCl rm), bs)
      | 3 => some (.rcr (.rmbCl rm), bs)
      | 4 => some (.shl (.rmbCl rm), bs)
      | 5 => some (.shr (.rmbCl rm), bs)
      | 7 => some (.sar (.rmbCl rm), bs)
      | _ => none
  | 0xD3 =>
    takeRM a bs fun g rm bs =>
      match g.toNat with
      | 0 => some (.rol (.rmwCl rm), bs)
      | 1 => some (.ror (.rmwCl rm), bs)
      | 2 => some (.rcl (.rmwCl rm), bs)
      | 3 => some (.rcr (.rmwCl rm), bs)
      | 4 => some (.shl (.rmwCl rm), bs)
      | 5 => some (.shr (.rmwCl rm), bs)
      | 7 => some (.sar (.rmwCl rm), bs)
      | _ => none
  | 0xD4 => take8 bs fun imm bs => some (.aam imm, bs)
  | 0xD5 => take8 bs fun imm bs => some (.aad imm, bs)
  | 0xD7 => some (.xlat, bs)
  | 0xD8 =>
    takeRM a bs fun g rm bs =>
      match rm with
      | .mem m =>
        match g.toNat with
        | 0 => some (.fadd (.mf32 m), bs)
        | 1 => some (.fmul (.mf32 m), bs)
        | 2 => some (.fcom (.mf32 m), bs)
        | 3 => some (.fcomp (.mf32 m), bs)
        | 4 => some (.fsub (.mf32 m), bs)
        | 5 => some (.fsubr (.mf32 m), bs)
        | 6 => some (.fdiv (.mf32 m), bs)
        | 7 => some (.fdivr (.mf32 m), bs)
        | _ => none
      | .reg r =>
        match g.toNat with
        | 0 => some (.fadd (.st0St r.code), bs)
        | 1 => some (.fmul (.st0St r.code), bs)
        | 2 => some (.fcom (.st r.code), bs)
        | 3 => some (.fcomp (.st r.code), bs)
        | 4 => some (.fsub (.st0St r.code), bs)
        | 5 => some (.fsubr (.st0St r.code), bs)
        | 6 => some (.fdiv (.st0St r.code), bs)
        | 7 => some (.fdivr (.st0St r.code), bs)
        | _ => none
  | 0xD9 =>
    takeRM a bs fun g rm bs =>
      match rm with
      | .mem m =>
        match g.toNat with
        | 0 => some (.fld (.mf32 m), bs)
        | 2 => some (.fst (.mf32 m), bs)
        | 3 => some (.fstp (.mf32 m), bs)
        | 4 => some (.fldenv m, bs)
        | 5 => some (.fldcw m, bs)
        | 6 => some (.fnstenv m, bs)
        | 7 => some (.fnstcw m, bs)
        | _ => none
      | .reg r =>
        match g.toNat with
        | 0 => some (.fld (.st r.code), bs)
        | 1 => some (.fxch r.code, bs)
        | 2 =>
          match r.code.toNat with
          | 0 => some (.fnop, bs)
          | _ => none
        | 4 =>
          match r.code.toNat with
          | 0 => some (.fchs, bs)
          | 1 => some (.fabs, bs)
          | 4 => some (.ftst, bs)
          | 5 => some (.fxam, bs)
          | _ => none
        | 5 =>
          match r.code.toNat with
          | 0 => some (.fld1, bs)
          | 1 => some (.fldl2t, bs)
          | 2 => some (.fldl2e, bs)
          | 3 => some (.fldpi, bs)
          | 4 => some (.fldlg2, bs)
          | 5 => some (.fldln2, bs)
          | 6 => some (.fldz, bs)
          | _ => none
        | 6 =>
          match r.code.toNat with
          | 0 => some (.f2xm1, bs)
          | 1 => some (.fyl2x, bs)
          | 2 => some (.fptan, bs)
          | 3 => some (.fpatan, bs)
          | 4 => some (.fxtract, bs)
          | 5 => some (.fprem1, bs)
          | 6 => some (.fdecstp, bs)
          | 7 => some (.fincstp, bs)
          | _ => none
        | 7 =>
          match r.code.toNat with
          | 0 => some (.fprem, bs)
          | 1 => some (.fyl2xp1, bs)
          | 2 => some (.fsqrt, bs)
          | 3 => some (.fsincos, bs)
          | 4 => some (.frndint, bs)
          | 5 => some (.fscale, bs)
          | 6 => some (.fsin, bs)
          | 7 => some (.fcos, bs)
          | _ => none
        | _ => none
  | 0xDA =>
    takeRM a bs fun g rm bs =>
      match rm with
      | .mem m =>
        match g.toNat with
        | 0 => some (.fiadd (.m32 m), bs)
        | 1 => some (.fimul (.m32 m), bs)
        | 2 => some (.ficom (.m32 m), bs)
        | 3 => some (.ficomp (.m32 m), bs)
        | 4 => some (.fisub (.m32 m), bs)
        | 5 => some (.fisubr (.m32 m), bs)
        | 6 => some (.fidiv (.m32 m), bs)
        | 7 => some (.fidivr (.m32 m), bs)
        | _ => none
      | .reg r =>
        match g.toNat with
        | 5 =>
          match r.code.toNat with
          | 1 => some (.fucompp, bs)
          | _ => none
        | _ => none
  | 0xDB =>
    takeRM a bs fun g rm bs =>
      match rm with
      | .mem m =>
        match g.toNat with
        | 0 => some (.fild (.m32 m), bs)
        | 2 => some (.fist (.m32 m), bs)
        | 3 => some (.fistp (.m32 m), bs)
        | 5 => some (.fld (.mf80 m), bs)
        | 7 => some (.fstp (.mf80 m), bs)
        | _ => none
      | .reg r =>
        match g.toNat with
        | 4 =>
          match r.code.toNat with
          | 0 => some (.feni, bs)
          | 1 => some (.fdisi, bs)
          | 2 => some (.fnclex, bs)
          | 3 => some (.fninit, bs)
          | 4 => some (.fsetpm, bs)
          | _ => none
        | _ => none
  | 0xDC =>
    takeRM a bs fun g rm bs =>
      match rm with
      | .mem m =>
        match g.toNat with
        | 0 => some (.fadd (.mf64 m), bs)
        | 1 => some (.fmul (.mf64 m), bs)
        | 2 => some (.fcom (.mf64 m), bs)
        | 3 => some (.fcomp (.mf64 m), bs)
        | 4 => some (.fsub (.mf64 m), bs)
        | 5 => some (.fsubr (.mf64 m), bs)
        | 6 => some (.fdiv (.mf64 m), bs)
        | 7 => some (.fdivr (.mf64 m), bs)
        | _ => none
      | .reg r =>
        match g.toNat with
        | 0 => some (.fadd (.stSt0 r.code), bs)
        | 1 => some (.fmul (.stSt0 r.code), bs)
        | 4 => some (.fsubr (.stSt0 r.code), bs)
        | 5 => some (.fsub (.stSt0 r.code), bs)
        | 6 => some (.fdivr (.stSt0 r.code), bs)
        | 7 => some (.fdiv (.stSt0 r.code), bs)
        | _ => none
  | 0xDD =>
    takeRM a bs fun g rm bs =>
      match rm with
      | .mem m =>
        match g.toNat with
        | 0 => some (.fld (.mf64 m), bs)
        | 2 => some (.fst (.mf64 m), bs)
        | 3 => some (.fstp (.mf64 m), bs)
        | 4 => some (.frstor m, bs)
        | 6 => some (.fnsave m, bs)
        | 7 => some (.fnstsw (.m16 m), bs)
        | _ => none
      | .reg r =>
        match g.toNat with
        | 0 => some (.ffree r.code, bs)
        | 2 => some (.fst (.st r.code), bs)
        | 3 => some (.fstp (.st r.code), bs)
        | 4 => some (.fucom r.code, bs)
        | 5 => some (.fucomp r.code, bs)
        | _ => none
  | 0xDE =>
    takeRM a bs fun g rm bs =>
      match rm with
      | .mem m =>
        match g.toNat with
        | 0 => some (.fiadd (.m16 m), bs)
        | 1 => some (.fimul (.m16 m), bs)
        | 2 => some (.ficom (.m16 m), bs)
        | 3 => some (.ficomp (.m16 m), bs)
        | 4 => some (.fisub (.m16 m), bs)
        | 5 => some (.fisubr (.m16 m), bs)
        | 6 => some (.fidiv (.m16 m), bs)
        | 7 => some (.fidivr (.m16 m), bs)
        | _ => none
      | .reg r =>
        match g.toNat with
        | 0 => some (.faddp r.code, bs)
        | 1 => some (.fmulp r.code, bs)
        | 3 =>
          match r.code.toNat with
          | 1 => some (.fcompp, bs)
          | _ => none
        | 4 => some (.fsubrp r.code, bs)
        | 5 => some (.fsubp r.code, bs)
        | 6 => some (.fdivrp r.code, bs)
        | 7 => some (.fdivp r.code, bs)
        | _ => none
  | 0xDF =>
    takeRM a bs fun g rm bs =>
      match rm with
      | .mem m =>
        match g.toNat with
        | 0 => some (.fild (.m16 m), bs)
        | 2 => some (.fist (.m16 m), bs)
        | 3 => some (.fistp (.m16 m), bs)
        | 4 => some (.fbld m, bs)
        | 5 => some (.fild (.m64 m), bs)
        | 6 => some (.fbstp m, bs)
        | 7 => some (.fistp (.m64 m), bs)
        | _ => none
      | .reg r =>
        match g.toNat with
        | 4 =>
          match r.code.toNat with
          | 0 => some (.fnstsw .ax, bs)
          | _ => none
        | _ => none
  | _ => none

/-- E0 to EF (R161). -/
def oneE (z : Size) (b : Byte) (bs : List Byte) : Parse :=
  match b.toNat with
  | 0xE0 => take8 bs fun rel bs => some (.loopne rel, bs)
  | 0xE1 => take8 bs fun rel bs => some (.loope rel, bs)
  | 0xE2 => take8 bs fun rel bs => some (.loop rel, bs)
  | 0xE3 => take8 bs fun rel bs => some (.jcxz rel, bs)
  | 0xE4 => take8 bs fun imm bs => some (.inp (.alIb imm), bs)
  | 0xE5 => take8 bs fun imm bs => some (.inp (.axIb imm), bs)
  | 0xE6 => take8 bs fun imm bs => some (.out (.ibAl imm), bs)
  | 0xE7 => take8 bs fun imm bs => some (.out (.ibAx imm), bs)
  | 0xE8 => takeRel z bs fun rel bs => some (.call (.jw rel), bs)
  | 0xE9 => takeRel z bs fun rel bs => some (.jmp (.jw rel), bs)
  | 0xEA => takeImm z bs fun off bs => take16 bs fun sel bs => some (.jmp (.pw off sel), bs)
  | 0xEB => take8 bs fun rel bs => some (.jmp (.jb rel), bs)
  | 0xEC => some (.inp .alDx, bs)
  | 0xED => some (.inp .axDx, bs)
  | 0xEE => some (.out .dxAl, bs)
  | 0xEF => some (.out .dxAx, bs)
  | _ => none

/-- F0 to FF (R162, R164, R122). -/
def oneF (z a : Size) (b : Byte) (bs : List Byte) : Parse :=
  match b.toNat with
  | 0xF0 => some (.pfxLock, bs)
  | 0xF2 => some (.pfxRepne, bs)
  | 0xF3 => some (.pfxRep, bs)
  | 0xF4 => some (.hlt, bs)
  | 0xF5 => some (.cmc, bs)
  | 0xF6 =>
    takeRM a bs fun g rm bs =>
      match g.toNat with
      | 0 => take8 bs fun imm bs => some (.test (.rmbIb rm imm), bs)
      | 2 => some (.not (.rmb rm), bs)
      | 3 => some (.neg (.rmb rm), bs)
      | 4 => some (.mul (.rmb rm), bs)
      | 5 => some (.imul (.rmb rm), bs)
      | 6 => some (.div (.rmb rm), bs)
      | 7 => some (.idiv (.rmb rm), bs)
      | _ => none
  | 0xF7 =>
    takeRM a bs fun g rm bs =>
      match g.toNat with
      | 0 => takeImm z bs fun imm bs => some (.test (.rmwIw rm imm), bs)
      | 2 => some (.not (.rmw rm), bs)
      | 3 => some (.neg (.rmw rm), bs)
      | 4 => some (.mul (.rmw rm), bs)
      | 5 => some (.imul (.rmw rm), bs)
      | 6 => some (.div (.rmw rm), bs)
      | 7 => some (.idiv (.rmw rm), bs)
      | _ => none
  | 0xF8 => some (.clc, bs)
  | 0xF9 => some (.stc, bs)
  | 0xFA => some (.cli, bs)
  | 0xFB => some (.sti, bs)
  | 0xFC => some (.cld, bs)
  | 0xFD => some (.std, bs)
  | 0xFE =>
    takeRM a bs fun g rm bs =>
      match g.toNat with
      | 0 => some (.inc (.rmb rm), bs)
      | 1 => some (.dec (.rmb rm), bs)
      | _ => none
  | 0xFF =>
    takeRM a bs fun g rm bs =>
      match g.toNat, rm with
      | 0, rm => some (.inc (.rmw rm), bs)
      | 1, rm => some (.dec (.rmw rm), bs)
      | 2, rm => some (.call (.rmw rm), bs)
      | 3, .mem m => some (.call (.mp m), bs)
      | 4, rm => some (.jmp (.rmw rm), bs)
      | 5, .mem m => some (.jmp (.mp m), bs)
      | 6, rm => some (.push (.rmw rm), bs)
      | _, _ => none
  | _ => none

/-- The two-byte table, after the escape byte 0F (R130, R165 to R169). -/
def decodeTwo (z a : Size) (b : Byte) (bs : List Byte) : Parse :=
  match b.toNat / 16 with
  | 0x2 => two2 b bs
  | 0x8 => two8 z b bs
  | 0x9 => two9 a b bs
  | 0xA => twoA a b bs
  | 0xB => twoB a b bs
  | _ => none

/-- Reads one instruction, or one prefix byte, from the front of `bytes` under operand size `z` and
address size `a` (R121, R130). -/
def decode (z a : Size) (bytes : List Byte) : Parse :=
  match bytes with
  | [] => none
  | b :: bs =>
    if b = 0x0F then
      match bs with
      | [] => none
      | b2 :: bs2 => decodeTwo z a b2 bs2
    else
      match b.toNat / 16 with
      | 0x0 => one0 z a b bs
      | 0x1 => one1 z a b bs
      | 0x2 => one2 z a b bs
      | 0x3 => one3 z a b bs
      | 0x4 => one4 b bs
      | 0x5 => one5 b bs
      | 0x6 => one6 z a b bs
      | 0x7 => one7 b bs
      | 0x8 => one8 z a b bs
      | 0x9 => one9 z b bs
      | 0xA => oneA z a b bs
      | 0xB => oneB z b bs
      | 0xC => oneC z a b bs
      | 0xD => oneD a b bs
      | 0xE => oneE z b bs
      | _ => oneF z a b bs

/-! ### The encoder -/

/-- Two bytes, low byte first (R83). -/
def put16 (v : BitVec 16) : List Byte := [v.extractLsb' 0 8, v.extractLsb' 8 8]

/-- Four bytes, low byte first (R83). -/
def put32 (v : BitVec 32) : List Byte :=
  [v.extractLsb' 0 8, v.extractLsb' 8 8, v.extractLsb' 16 8, v.extractLsb' 24 8]

/-- A field of `z` bits: `iw|id`, `jw|jd`, `moffs`, the offset of `pw|pd` (R139 to R141). -/
def putImm : Size → BitVec 32 → List Byte
  | .s16, v => put16 (v.setWidth 16)
  | .s32, v => put32 v

/-- ModRM, SIB and displacement of a memory form with `reg` field `g` (R132, R135, R136). -/
def putM (g : BitVec 3) : MemOp → List Byte
  | .direct16 d => pack 0 g 6 :: put16 d
  | .based16 b .none => [pack 0 g b.code]
  | .based16 b (.d8 d) => [pack 1 g b.code, d]
  | .based16 b (.d16 d) => pack 2 g b.code :: put16 d
  | .direct32 d => pack 0 g 5 :: put32 d
  | .based32 b .none => [pack 0 g b.code]
  | .based32 b (.d8 d) => [pack 1 g b.code, d]
  | .based32 b (.d32 d) => pack 2 g b.code :: put32 d
  | .sib sc ix b .none => [pack 0 g 4, pack sc.code ix.code b.code]
  | .sib sc ix b (.d8 d) => [pack 1 g 4, pack sc.code ix.code b.code, d]
  | .sib sc ix b (.d32 d) => pack 2 g 4 :: pack sc.code ix.code b.code :: put32 d
  | .sibNoBase sc ix d => pack 0 g 4 :: pack sc.code ix.code 5 :: put32 d

/-- ModRM, SIB and displacement of a register-or-memory operand with `reg` field `g` (R132). -/
def putRM (g : BitVec 3) : RM → List Byte
  | .reg r => [pack 3 g r.code]
  | .mem m => putM g m

/-- The bytes of a well-formed instruction under operand size `z` and address size `a`. Where a field
is ignored (`reg` of SETcc, `mod` of MOV CRn/DRn) it is written 0 and 3. -/
def encode (z a : Size) : Instr → List Byte
  | .pfxEs => [0x26]
  | .pfxCs => [0x2E]
  | .pfxSs => [0x36]
  | .pfxDs => [0x3E]
  | .pfxFs => [0x64]
  | .pfxGs => [0x65]
  | .pfxOpsize => [0x66]
  | .pfxAdsize => [0x67]
  | .pfxLock => [0xF0]
  | .pfxRepne => [0xF2]
  | .pfxRep => [0xF3]
  | .add (.rmbRb rm r) => 0x00 :: putRM r.code rm
  | .add (.rmwRw rm r) => 0x01 :: putRM r.code rm
  | .add (.rbRmb r rm) => 0x02 :: putRM r.code rm
  | .add (.rwRmw r rm) => 0x03 :: putRM r.code rm
  | .add (.alIb imm) => [0x04, imm]
  | .add (.axIw imm) => 0x05 :: putImm z imm
  | .add (.rmbIb rm imm) => 0x80 :: (putRM 0 rm ++ [imm])
  | .add (.rmwIw rm imm) => 0x81 :: (putRM 0 rm ++ putImm z imm)
  | .add (.rmwIb rm imm) => 0x83 :: (putRM 0 rm ++ [imm])
  | .or (.rmbRb rm r) => 0x08 :: putRM r.code rm
  | .or (.rmwRw rm r) => 0x09 :: putRM r.code rm
  | .or (.rbRmb r rm) => 0x0A :: putRM r.code rm
  | .or (.rwRmw r rm) => 0x0B :: putRM r.code rm
  | .or (.alIb imm) => [0x0C, imm]
  | .or (.axIw imm) => 0x0D :: putImm z imm
  | .or (.rmbIb rm imm) => 0x80 :: (putRM 1 rm ++ [imm])
  | .or (.rmwIw rm imm) => 0x81 :: (putRM 1 rm ++ putImm z imm)
  | .or (.rmwIb rm imm) => 0x83 :: (putRM 1 rm ++ [imm])
  | .adc (.rmbRb rm r) => 0x10 :: putRM r.code rm
  | .adc (.rmwRw rm r) => 0x11 :: putRM r.code rm
  | .adc (.rbRmb r rm) => 0x12 :: putRM r.code rm
  | .adc (.rwRmw r rm) => 0x13 :: putRM r.code rm
  | .adc (.alIb imm) => [0x14, imm]
  | .adc (.axIw imm) => 0x15 :: putImm z imm
  | .adc (.rmbIb rm imm) => 0x80 :: (putRM 2 rm ++ [imm])
  | .adc (.rmwIw rm imm) => 0x81 :: (putRM 2 rm ++ putImm z imm)
  | .adc (.rmwIb rm imm) => 0x83 :: (putRM 2 rm ++ [imm])
  | .sbb (.rmbRb rm r) => 0x18 :: putRM r.code rm
  | .sbb (.rmwRw rm r) => 0x19 :: putRM r.code rm
  | .sbb (.rbRmb r rm) => 0x1A :: putRM r.code rm
  | .sbb (.rwRmw r rm) => 0x1B :: putRM r.code rm
  | .sbb (.alIb imm) => [0x1C, imm]
  | .sbb (.axIw imm) => 0x1D :: putImm z imm
  | .sbb (.rmbIb rm imm) => 0x80 :: (putRM 3 rm ++ [imm])
  | .sbb (.rmwIw rm imm) => 0x81 :: (putRM 3 rm ++ putImm z imm)
  | .sbb (.rmwIb rm imm) => 0x83 :: (putRM 3 rm ++ [imm])
  | .and (.rmbRb rm r) => 0x20 :: putRM r.code rm
  | .and (.rmwRw rm r) => 0x21 :: putRM r.code rm
  | .and (.rbRmb r rm) => 0x22 :: putRM r.code rm
  | .and (.rwRmw r rm) => 0x23 :: putRM r.code rm
  | .and (.alIb imm) => [0x24, imm]
  | .and (.axIw imm) => 0x25 :: putImm z imm
  | .and (.rmbIb rm imm) => 0x80 :: (putRM 4 rm ++ [imm])
  | .and (.rmwIw rm imm) => 0x81 :: (putRM 4 rm ++ putImm z imm)
  | .and (.rmwIb rm imm) => 0x83 :: (putRM 4 rm ++ [imm])
  | .sub (.rmbRb rm r) => 0x28 :: putRM r.code rm
  | .sub (.rmwRw rm r) => 0x29 :: putRM r.code rm
  | .sub (.rbRmb r rm) => 0x2A :: putRM r.code rm
  | .sub (.rwRmw r rm) => 0x2B :: putRM r.code rm
  | .sub (.alIb imm) => [0x2C, imm]
  | .sub (.axIw imm) => 0x2D :: putImm z imm
  | .sub (.rmbIb rm imm) => 0x80 :: (putRM 5 rm ++ [imm])
  | .sub (.rmwIw rm imm) => 0x81 :: (putRM 5 rm ++ putImm z imm)
  | .sub (.rmwIb rm imm) => 0x83 :: (putRM 5 rm ++ [imm])
  | .xor (.rmbRb rm r) => 0x30 :: putRM r.code rm
  | .xor (.rmwRw rm r) => 0x31 :: putRM r.code rm
  | .xor (.rbRmb r rm) => 0x32 :: putRM r.code rm
  | .xor (.rwRmw r rm) => 0x33 :: putRM r.code rm
  | .xor (.alIb imm) => [0x34, imm]
  | .xor (.axIw imm) => 0x35 :: putImm z imm
  | .xor (.rmbIb rm imm) => 0x80 :: (putRM 6 rm ++ [imm])
  | .xor (.rmwIw rm imm) => 0x81 :: (putRM 6 rm ++ putImm z imm)
  | .xor (.rmwIb rm imm) => 0x83 :: (putRM 6 rm ++ [imm])
  | .cmp (.rmbRb rm r) => 0x38 :: putRM r.code rm
  | .cmp (.rmwRw rm r) => 0x39 :: putRM r.code rm
  | .cmp (.rbRmb r rm) => 0x3A :: putRM r.code rm
  | .cmp (.rwRmw r rm) => 0x3B :: putRM r.code rm
  | .cmp (.alIb imm) => [0x3C, imm]
  | .cmp (.axIw imm) => 0x3D :: putImm z imm
  | .cmp (.rmbIb rm imm) => 0x80 :: (putRM 7 rm ++ [imm])
  | .cmp (.rmwIw rm imm) => 0x81 :: (putRM 7 rm ++ putImm z imm)
  | .cmp (.rmwIb rm imm) => 0x83 :: (putRM 7 rm ++ [imm])
  | .push (.sreg .es) => [0x06]
  | .push (.sreg .cs) => [0x0E]
  | .push (.sreg .ss) => [0x16]
  | .push (.sreg .ds) => [0x1E]
  | .pop (.sreg .es) => [0x07]
  | .pop (.sreg .cs) => []
  | .pop (.sreg .ss) => [0x17]
  | .pop (.sreg .ds) => [0x1F]
  | .daa => [0x27]
  | .das => [0x2F]
  | .aaa => [0x37]
  | .aas => [0x3F]
  | .inc (.rw r) => [pack 1 0 r.code]
  | .dec (.rw r) => [pack 1 1 r.code]
  | .push (.rw r) => [pack 1 2 r.code]
  | .pop (.rw r) => [pack 1 3 r.code]
  | .pusha => [0x60]
  | .popa => [0x61]
  | .bound r m => 0x62 :: putM r.code m
  | .push (.iw imm) => 0x68 :: putImm z imm
  | .imul (.rwRmwIw r rm imm) => 0x69 :: (putRM r.code rm ++ putImm z imm)
  | .push (.ib imm) => [0x6A, imm]
  | .imul (.rwRmwIb r rm imm) => 0x6B :: (putRM r.code rm ++ [imm])
  | .ins .b => [0x6C]
  | .ins .w => [0x6D]
  | .outs .b => [0x6E]
  | .outs .w => [0x6F]
  | .jo (.jb rel) => [0x70, rel]
  | .jno (.jb rel) => [0x71, rel]
  | .jb (.jb rel) => [0x72, rel]
  | .jnb (.jb rel) => [0x73, rel]
  | .jz (.jb rel) => [0x74, rel]
  | .jnz (.jb rel) => [0x75, rel]
  | .jbe (.jb rel) => [0x76, rel]
  | .jnbe (.jb rel) => [0x77, rel]
  | .js (.jb rel) => [0x78, rel]
  | .jns (.jb rel) => [0x79, rel]
  | .jp (.jb rel) => [0x7A, rel]
  | .jnp (.jb rel) => [0x7B, rel]
  | .jl (.jb rel) => [0x7C, rel]
  | .jnl (.jb rel) => [0x7D, rel]
  | .jle (.jb rel) => [0x7E, rel]
  | .jnle (.jb rel) => [0x7F, rel]
  | .test (.rmbRb rm r) => 0x84 :: putRM r.code rm
  | .test (.rmwRw rm r) => 0x85 :: putRM r.code rm
  | .xchg (.rmbRb rm r) => 0x86 :: putRM r.code rm
  | .xchg (.rmwRw rm r) => 0x87 :: putRM r.code rm
  | .mov (.rmbRb rm r) => 0x88 :: putRM r.code rm
  | .mov (.rmwRw rm r) => 0x89 :: putRM r.code rm
  | .mov (.rbRmb r rm) => 0x8A :: putRM r.code rm
  | .mov (.rwRmw r rm) => 0x8B :: putRM r.code rm
  | .mov (.rmwSreg rm sr) => 0x8C :: putRM sr.code rm
  | .lea r m => 0x8D :: putM r.code m
  | .mov (.sregRmw sr rm) => 0x8E :: putRM sr.code rm
  | .pop (.rmw rm) => 0x8F :: putRM 0 rm
  | .nop => [0x90]
  | .xchg (.axRw r) => [pack 2 2 r.code]
  | .cbw => [0x98]
  | .cwd => [0x99]
  | .call (.pw off sel) => 0x9A :: (putImm z off ++ put16 sel)
  | .wait => [0x9B]
  | .pushf => [0x9C]
  | .popf => [0x9D]
  | .sahf => [0x9E]
  | .lahf => [0x9F]
  | .mov (.alMoffs off) => 0xA0 :: putImm a off
  | .mov (.axMoffs off) => 0xA1 :: putImm a off
  | .mov (.moffsAl off) => 0xA2 :: putImm a off
  | .mov (.moffsAx off) => 0xA3 :: putImm a off
  | .movs .b => [0xA4]
  | .movs .w => [0xA5]
  | .cmps .b => [0xA6]
  | .cmps .w => [0xA7]
  | .stos .b => [0xAA]
  | .stos .w => [0xAB]
  | .lods .b => [0xAC]
  | .lods .w => [0xAD]
  | .scas .b => [0xAE]
  | .scas .w => [0xAF]
  | .test (.alIb imm) => [0xA8, imm]
  | .test (.axIw imm) => 0xA9 :: putImm z imm
  | .mov (.rbIb r imm) => [pack 2 6 r.code, imm]
  | .mov (.rwIw r imm) => pack 2 7 r.code :: putImm z imm
  | .rol (.rmbIb rm imm) => 0xC0 :: (putRM 0 rm ++ [imm])
  | .ror (.rmbIb rm imm) => 0xC0 :: (putRM 1 rm ++ [imm])
  | .rcl (.rmbIb rm imm) => 0xC0 :: (putRM 2 rm ++ [imm])
  | .rcr (.rmbIb rm imm) => 0xC0 :: (putRM 3 rm ++ [imm])
  | .shl (.rmbIb rm imm) => 0xC0 :: (putRM 4 rm ++ [imm])
  | .shr (.rmbIb rm imm) => 0xC0 :: (putRM 5 rm ++ [imm])
  | .sar (.rmbIb rm imm) => 0xC0 :: (putRM 7 rm ++ [imm])
  | .rol (.rmwIb rm imm) => 0xC1 :: (putRM 0 rm ++ [imm])
  | .ror (.rmwIb rm imm) => 0xC1 :: (putRM 1 rm ++ [imm])
  | .rcl (.rmwIb rm imm) => 0xC1 :: (putRM 2 rm ++ [imm])
  | .rcr (.rmwIb rm imm) => 0xC1 :: (putRM 3 rm ++ [imm])
  | .shl (.rmwIb rm imm) => 0xC1 :: (putRM 4 rm ++ [imm])
  | .shr (.rmwIb rm imm) => 0xC1 :: (putRM 5 rm ++ [imm])
  | .sar (.rmwIb rm imm) => 0xC1 :: (putRM 7 rm ++ [imm])
  | .rol (.rmbOne rm) => 0xD0 :: putRM 0 rm
  | .ror (.rmbOne rm) => 0xD0 :: putRM 1 rm
  | .rcl (.rmbOne rm) => 0xD0 :: putRM 2 rm
  | .rcr (.rmbOne rm) => 0xD0 :: putRM 3 rm
  | .shl (.rmbOne rm) => 0xD0 :: putRM 4 rm
  | .shr (.rmbOne rm) => 0xD0 :: putRM 5 rm
  | .sar (.rmbOne rm) => 0xD0 :: putRM 7 rm
  | .rol (.rmwOne rm) => 0xD1 :: putRM 0 rm
  | .ror (.rmwOne rm) => 0xD1 :: putRM 1 rm
  | .rcl (.rmwOne rm) => 0xD1 :: putRM 2 rm
  | .rcr (.rmwOne rm) => 0xD1 :: putRM 3 rm
  | .shl (.rmwOne rm) => 0xD1 :: putRM 4 rm
  | .shr (.rmwOne rm) => 0xD1 :: putRM 5 rm
  | .sar (.rmwOne rm) => 0xD1 :: putRM 7 rm
  | .rol (.rmbCl rm) => 0xD2 :: putRM 0 rm
  | .ror (.rmbCl rm) => 0xD2 :: putRM 1 rm
  | .rcl (.rmbCl rm) => 0xD2 :: putRM 2 rm
  | .rcr (.rmbCl rm) => 0xD2 :: putRM 3 rm
  | .shl (.rmbCl rm) => 0xD2 :: putRM 4 rm
  | .shr (.rmbCl rm) => 0xD2 :: putRM 5 rm
  | .sar (.rmbCl rm) => 0xD2 :: putRM 7 rm
  | .rol (.rmwCl rm) => 0xD3 :: putRM 0 rm
  | .ror (.rmwCl rm) => 0xD3 :: putRM 1 rm
  | .rcl (.rmwCl rm) => 0xD3 :: putRM 2 rm
  | .rcr (.rmwCl rm) => 0xD3 :: putRM 3 rm
  | .shl (.rmwCl rm) => 0xD3 :: putRM 4 rm
  | .shr (.rmwCl rm) => 0xD3 :: putRM 5 rm
  | .sar (.rmwCl rm) => 0xD3 :: putRM 7 rm
  | .ret (.iw imm16) => 0xC2 :: put16 imm16
  | .ret .plain => [0xC3]
  | .les r m => 0xC4 :: putM r.code m
  | .lds r m => 0xC5 :: putM r.code m
  | .mov (.rmbIb rm imm) => 0xC6 :: (putRM 0 rm ++ [imm])
  | .mov (.rmwIw rm imm) => 0xC7 :: (putRM 0 rm ++ putImm z imm)
  | .enter imm16 imm => 0xC8 :: (put16 imm16 ++ [imm])
  | .leave => [0xC9]
  | .retf (.iw imm16) => 0xCA :: put16 imm16
  | .retf .plain => [0xCB]
  | .int3 => [0xCC]
  | .int imm => [0xCD, imm]
  | .into => [0xCE]
  | .iret => [0xCF]
  | .aam imm => [0xD4, imm]
  | .aad imm => [0xD5, imm]
  | .xlat => [0xD7]
  | .loopne rel => [0xE0, rel]
  | .loope rel => [0xE1, rel]
  | .loop rel => [0xE2, rel]
  | .jcxz rel => [0xE3, rel]
  | .inp (.alIb imm) => [0xE4, imm]
  | .inp (.axIb imm) => [0xE5, imm]
  | .out (.ibAl imm) => [0xE6, imm]
  | .out (.ibAx imm) => [0xE7, imm]
  | .call (.jw rel) => 0xE8 :: putImm z rel
  | .jmp (.jw rel) => 0xE9 :: putImm z rel
  | .jmp (.pw off sel) => 0xEA :: (putImm z off ++ put16 sel)
  | .jmp (.jb rel) => [0xEB, rel]
  | .inp .alDx => [0xEC]
  | .inp .axDx => [0xED]
  | .out .dxAl => [0xEE]
  | .out .dxAx => [0xEF]
  | .hlt => [0xF4]
  | .cmc => [0xF5]
  | .test (.rmbIb rm imm) => 0xF6 :: (putRM 0 rm ++ [imm])
  | .test (.rmwIw rm imm) => 0xF7 :: (putRM 0 rm ++ putImm z imm)
  | .not (.rmb rm) => 0xF6 :: putRM 2 rm
  | .not (.rmw rm) => 0xF7 :: putRM 2 rm
  | .neg (.rmb rm) => 0xF6 :: putRM 3 rm
  | .neg (.rmw rm) => 0xF7 :: putRM 3 rm
  | .mul (.rmb rm) => 0xF6 :: putRM 4 rm
  | .mul (.rmw rm) => 0xF7 :: putRM 4 rm
  | .imul (.rmb rm) => 0xF6 :: putRM 5 rm
  | .imul (.rmw rm) => 0xF7 :: putRM 5 rm
  | .div (.rmb rm) => 0xF6 :: putRM 6 rm
  | .div (.rmw rm) => 0xF7 :: putRM 6 rm
  | .idiv (.rmb rm) => 0xF6 :: putRM 7 rm
  | .idiv (.rmw rm) => 0xF7 :: putRM 7 rm
  | .clc => [0xF8]
  | .stc => [0xF9]
  | .cli => [0xFA]
  | .sti => [0xFB]
  | .cld => [0xFC]
  | .std => [0xFD]
  | .inc (.rmb rm) => 0xFE :: putRM 0 rm
  | .dec (.rmb rm) => 0xFE :: putRM 1 rm
  | .inc (.rmw rm) => 0xFF :: putRM 0 rm
  | .dec (.rmw rm) => 0xFF :: putRM 1 rm
  | .call (.rmw rm) => 0xFF :: putRM 2 rm
  | .call (.mp m) => 0xFF :: putM 3 m
  | .jmp (.rmw rm) => 0xFF :: putRM 4 rm
  | .jmp (.mp m) => 0xFF :: putM 5 m
  | .push (.rmw rm) => 0xFF :: putRM 6 rm
  | .mov (.r32Crn r c) => [0x0F, 0x20, pack 3 c.code r.code]
  | .mov (.crnR32 c r) => [0x0F, 0x22, pack 3 c.code r.code]
  | .mov (.r32Drn r d) => [0x0F, 0x21, pack 3 d.code r.code]
  | .mov (.drnR32 d r) => [0x0F, 0x23, pack 3 d.code r.code]
  | .jo (.jw rel) => 0x0F :: 0x80 :: putImm z rel
  | .jno (.jw rel) => 0x0F :: 0x81 :: putImm z rel
  | .jb (.jw rel) => 0x0F :: 0x82 :: putImm z rel
  | .jnb (.jw rel) => 0x0F :: 0x83 :: putImm z rel
  | .jz (.jw rel) => 0x0F :: 0x84 :: putImm z rel
  | .jnz (.jw rel) => 0x0F :: 0x85 :: putImm z rel
  | .jbe (.jw rel) => 0x0F :: 0x86 :: putImm z rel
  | .jnbe (.jw rel) => 0x0F :: 0x87 :: putImm z rel
  | .js (.jw rel) => 0x0F :: 0x88 :: putImm z rel
  | .jns (.jw rel) => 0x0F :: 0x89 :: putImm z rel
  | .jp (.jw rel) => 0x0F :: 0x8A :: putImm z rel
  | .jnp (.jw rel) => 0x0F :: 0x8B :: putImm z rel
  | .jl (.jw rel) => 0x0F :: 0x8C :: putImm z rel
  | .jnl (.jw rel) => 0x0F :: 0x8D :: putImm z rel
  | .jle (.jw rel) => 0x0F :: 0x8E :: putImm z rel
  | .jnle (.jw rel) => 0x0F :: 0x8F :: putImm z rel
  | .seto rm => 0x0F :: 0x90 :: putRM 0 rm
  | .setno rm => 0x0F :: 0x91 :: putRM 0 rm
  | .setb rm => 0x0F :: 0x92 :: putRM 0 rm
  | .setnb rm => 0x0F :: 0x93 :: putRM 0 rm
  | .setz rm => 0x0F :: 0x94 :: putRM 0 rm
  | .setnz rm => 0x0F :: 0x95 :: putRM 0 rm
  | .setbe rm => 0x0F :: 0x96 :: putRM 0 rm
  | .setnbe rm => 0x0F :: 0x97 :: putRM 0 rm
  | .sets rm => 0x0F :: 0x98 :: putRM 0 rm
  | .setns rm => 0x0F :: 0x99 :: putRM 0 rm
  | .setp rm => 0x0F :: 0x9A :: putRM 0 rm
  | .setnp rm => 0x0F :: 0x9B :: putRM 0 rm
  | .setl rm => 0x0F :: 0x9C :: putRM 0 rm
  | .setnl rm => 0x0F :: 0x9D :: putRM 0 rm
  | .setle rm => 0x0F :: 0x9E :: putRM 0 rm
  | .setnle rm => 0x0F :: 0x9F :: putRM 0 rm
  | .push (.sreg .fs) => [0x0F, 0xA0]
  | .pop (.sreg .fs) => [0x0F, 0xA1]
  | .bt (.rmwRw rm r) => 0x0F :: 0xA3 :: putRM r.code rm
  | .shld (.ib rm r imm) => 0x0F :: 0xA4 :: (putRM r.code rm ++ [imm])
  | .shld (.cl rm r) => 0x0F :: 0xA5 :: putRM r.code rm
  | .push (.sreg .gs) => [0x0F, 0xA8]
  | .pop (.sreg .gs) => [0x0F, 0xA9]
  | .bts (.rmwRw rm r) => 0x0F :: 0xAB :: putRM r.code rm
  | .shrd (.ib rm r imm) => 0x0F :: 0xAC :: (putRM r.code rm ++ [imm])
  | .shrd (.cl rm r) => 0x0F :: 0xAD :: putRM r.code rm
  | .imul (.rwRmw r rm) => 0x0F :: 0xAF :: putRM r.code rm
  | .lss r m => 0x0F :: 0xB2 :: putM r.code m
  | .btr (.rmwRw rm r) => 0x0F :: 0xB3 :: putRM r.code rm
  | .lfs r m => 0x0F :: 0xB4 :: putM r.code m
  | .lgs r m => 0x0F :: 0xB5 :: putM r.code m
  | .movzx (.rmb r rm) => 0x0F :: 0xB6 :: putRM r.code rm
  | .movzx (.rmw16 r rm) => 0x0F :: 0xB7 :: putRM r.code rm
  | .bt (.rmwIb rm imm) => 0x0F :: 0xBA :: (putRM 4 rm ++ [imm])
  | .bts (.rmwIb rm imm) => 0x0F :: 0xBA :: (putRM 5 rm ++ [imm])
  | .btr (.rmwIb rm imm) => 0x0F :: 0xBA :: (putRM 6 rm ++ [imm])
  | .btc (.rmwIb rm imm) => 0x0F :: 0xBA :: (putRM 7 rm ++ [imm])
  | .btc (.rmwRw rm r) => 0x0F :: 0xBB :: putRM r.code rm
  | .bsf r rm => 0x0F :: 0xBC :: putRM r.code rm
  | .bsr r rm => 0x0F :: 0xBD :: putRM r.code rm
  | .movsx (.rmb r rm) => 0x0F :: 0xBE :: putRM r.code rm
  | .movsx (.rmw16 r rm) => 0x0F :: 0xBF :: putRM r.code rm
  | .fadd (.mf32 m) => 0xD8 :: putM 0 m
  | .fiadd (.m32 m) => 0xDA :: putM 0 m
  | .fadd (.mf64 m) => 0xDC :: putM 0 m
  | .fiadd (.m16 m) => 0xDE :: putM 0 m
  | .fmul (.mf32 m) => 0xD8 :: putM 1 m
  | .fimul (.m32 m) => 0xDA :: putM 1 m
  | .fmul (.mf64 m) => 0xDC :: putM 1 m
  | .fimul (.m16 m) => 0xDE :: putM 1 m
  | .fcom (.mf32 m) => 0xD8 :: putM 2 m
  | .ficom (.m32 m) => 0xDA :: putM 2 m
  | .fcom (.mf64 m) => 0xDC :: putM 2 m
  | .ficom (.m16 m) => 0xDE :: putM 2 m
  | .fcomp (.mf32 m) => 0xD8 :: putM 3 m
  | .ficomp (.m32 m) => 0xDA :: putM 3 m
  | .fcomp (.mf64 m) => 0xDC :: putM 3 m
  | .ficomp (.m16 m) => 0xDE :: putM 3 m
  | .fsub (.mf32 m) => 0xD8 :: putM 4 m
  | .fisub (.m32 m) => 0xDA :: putM 4 m
  | .fsub (.mf64 m) => 0xDC :: putM 4 m
  | .fisub (.m16 m) => 0xDE :: putM 4 m
  | .fsubr (.mf32 m) => 0xD8 :: putM 5 m
  | .fisubr (.m32 m) => 0xDA :: putM 5 m
  | .fsubr (.mf64 m) => 0xDC :: putM 5 m
  | .fisubr (.m16 m) => 0xDE :: putM 5 m
  | .fdiv (.mf32 m) => 0xD8 :: putM 6 m
  | .fidiv (.m32 m) => 0xDA :: putM 6 m
  | .fdiv (.mf64 m) => 0xDC :: putM 6 m
  | .fidiv (.m16 m) => 0xDE :: putM 6 m
  | .fdivr (.mf32 m) => 0xD8 :: putM 7 m
  | .fidivr (.m32 m) => 0xDA :: putM 7 m
  | .fdivr (.mf64 m) => 0xDC :: putM 7 m
  | .fidivr (.m16 m) => 0xDE :: putM 7 m
  | .fld (.mf32 m) => 0xD9 :: putM 0 m
  | .fst (.mf32 m) => 0xD9 :: putM 2 m
  | .fstp (.mf32 m) => 0xD9 :: putM 3 m
  | .fldenv m => 0xD9 :: putM 4 m
  | .fldcw m => 0xD9 :: putM 5 m
  | .fnstenv m => 0xD9 :: putM 6 m
  | .fnstcw m => 0xD9 :: putM 7 m
  | .fild (.m32 m) => 0xDB :: putM 0 m
  | .fist (.m32 m) => 0xDB :: putM 2 m
  | .fistp (.m32 m) => 0xDB :: putM 3 m
  | .fld (.mf80 m) => 0xDB :: putM 5 m
  | .fstp (.mf80 m) => 0xDB :: putM 7 m
  | .fld (.mf64 m) => 0xDD :: putM 0 m
  | .fst (.mf64 m) => 0xDD :: putM 2 m
  | .fstp (.mf64 m) => 0xDD :: putM 3 m
  | .frstor m => 0xDD :: putM 4 m
  | .fnsave m => 0xDD :: putM 6 m
  | .fnstsw (.m16 m) => 0xDD :: putM 7 m
  | .fild (.m16 m) => 0xDF :: putM 0 m
  | .fist (.m16 m) => 0xDF :: putM 2 m
  | .fistp (.m16 m) => 0xDF :: putM 3 m
  | .fbld m => 0xDF :: putM 4 m
  | .fild (.m64 m) => 0xDF :: putM 5 m
  | .fbstp m => 0xDF :: putM 6 m
  | .fistp (.m64 m) => 0xDF :: putM 7 m
  | .fadd (.st0St i) => [0xD8, pack 3 0 i]
  | .fmul (.st0St i) => [0xD8, pack 3 1 i]
  | .fcom (.st i) => [0xD8, pack 3 2 i]
  | .fcomp (.st i) => [0xD8, pack 3 3 i]
  | .fsub (.st0St i) => [0xD8, pack 3 4 i]
  | .fsubr (.st0St i) => [0xD8, pack 3 5 i]
  | .fdiv (.st0St i) => [0xD8, pack 3 6 i]
  | .fdivr (.st0St i) => [0xD8, pack 3 7 i]
  | .fld (.st i) => [0xD9, pack 3 0 i]
  | .fxch i => [0xD9, pack 3 1 i]
  | .fnop => [0xD9, 0xD0]
  | .fchs => [0xD9, 0xE0]
  | .fabs => [0xD9, 0xE1]
  | .ftst => [0xD9, 0xE4]
  | .fxam => [0xD9, 0xE5]
  | .fld1 => [0xD9, 0xE8]
  | .fldl2t => [0xD9, 0xE9]
  | .fldl2e => [0xD9, 0xEA]
  | .fldpi => [0xD9, 0xEB]
  | .fldlg2 => [0xD9, 0xEC]
  | .fldln2 => [0xD9, 0xED]
  | .fldz => [0xD9, 0xEE]
  | .f2xm1 => [0xD9, 0xF0]
  | .fyl2x => [0xD9, 0xF1]
  | .fptan => [0xD9, 0xF2]
  | .fpatan => [0xD9, 0xF3]
  | .fxtract => [0xD9, 0xF4]
  | .fprem1 => [0xD9, 0xF5]
  | .fdecstp => [0xD9, 0xF6]
  | .fincstp => [0xD9, 0xF7]
  | .fprem => [0xD9, 0xF8]
  | .fyl2xp1 => [0xD9, 0xF9]
  | .fsqrt => [0xD9, 0xFA]
  | .fsincos => [0xD9, 0xFB]
  | .frndint => [0xD9, 0xFC]
  | .fscale => [0xD9, 0xFD]
  | .fsin => [0xD9, 0xFE]
  | .fcos => [0xD9, 0xFF]
  | .fucompp => [0xDA, 0xE9]
  | .feni => [0xDB, 0xE0]
  | .fdisi => [0xDB, 0xE1]
  | .fnclex => [0xDB, 0xE2]
  | .fninit => [0xDB, 0xE3]
  | .fsetpm => [0xDB, 0xE4]
  | .fadd (.stSt0 i) => [0xDC, pack 3 0 i]
  | .fmul (.stSt0 i) => [0xDC, pack 3 1 i]
  | .fsubr (.stSt0 i) => [0xDC, pack 3 4 i]
  | .fsub (.stSt0 i) => [0xDC, pack 3 5 i]
  | .fdivr (.stSt0 i) => [0xDC, pack 3 6 i]
  | .fdiv (.stSt0 i) => [0xDC, pack 3 7 i]
  | .ffree i => [0xDD, pack 3 0 i]
  | .fst (.st i) => [0xDD, pack 3 2 i]
  | .fstp (.st i) => [0xDD, pack 3 3 i]
  | .fucom i => [0xDD, pack 3 4 i]
  | .fucomp i => [0xDD, pack 3 5 i]
  | .faddp i => [0xDE, pack 3 0 i]
  | .fmulp i => [0xDE, pack 3 1 i]
  | .fsubrp i => [0xDE, pack 3 4 i]
  | .fsubp i => [0xDE, pack 3 5 i]
  | .fdivrp i => [0xDE, pack 3 6 i]
  | .fdivp i => [0xDE, pack 3 7 i]
  | .fcompp => [0xDE, 0xD9]
  | .fnstsw .ax => [0xDF, 0xE0]

/-! ### The opcode table's numbering -/

/-- The bytes of a table word: byte `k` is bits `8k+7:8k`, the first at the lowest address; zeros after
the table's bits, up to the longest instruction (R126). -/
def tableBytes (nbits w : Nat) : List Byte :=
  (List.range 15).map fun k => BitVec.ofNat 8 (w % 2 ^ nbits / 2 ^ (8 * k))

/-- The instruction the decoder reads from a table word, in a 16-bit code segment (`CS.D = 0`, no
prefix: `opsz = adsz = 16`). -/
def decodeTableWord (nbits w : Nat) : Option Instr :=
  (decode .s16 .s16 (tableBytes nbits w)).map (·.1)

end Sys2Proof
end

