-- ==== Sys2Proof/Machine/Fetch.lean ====
section
/-! DEFINITION. Instruction fetch and the decode with its prefix loop (`20_memory.md` rule R107,
`30_encoding.md` rules R121 to R126, R144, R176). -/

namespace Sys2Proof.Machine

/-- `MAXLEN` (R7, R126). -/
def maxLength : Nat := 15

/-- An offset in the code segment modulo `M`: `2^16` when `CS.D = 0`, else `2^32` (R107, R144). -/
def codeOffset (csD : Bool) (off : BitVec 32) : BitVec 32 :=
  if csD then off else off &&& 0x0000FFFF

/-- The physical address of byte `k` of the instruction at EIP (R107). -/
def State.fetchAddr (s : State) (k : Nat) : BitVec 32 :=
  s.lin .cs (codeOffset s.csD (s.eip + BitVec.ofNat 32 k))

/-- The bytes an instruction at EIP can consist of: a sixteenth is never fetched (R107, R126). A step
depends on no byte beyond its instruction, and records the fetch of the instruction's own bytes only
(`State.fetches`; log entry 5). -/
def State.window (s : State) : List Byte :=
  (List.range maxLength).map fun k => s.mem.get (s.fetchAddr k).toNat

/-- The fetch of an instruction of `length` bytes: each byte once, in ascending offset order (R100,
R107). -/
def State.fetches (s : State) (length : Nat) : List BusAccess :=
  (List.range length).map fun k => .read (s.fetchAddr k) 1

/-- `NextEIP` after an instruction of `length` bytes, prefixes included (R144). -/
def State.withLength (s : State) (length : Nat) : State :=
  { s with nextEip := codeOffset s.csD (s.eip + BitVec.ofNat 32 length) }

/-- PrefixState after a prefix byte, none for an instruction that is no prefix (R122, R123). -/
def PrefixState.record (p : PrefixState) (i : Instr) : Option PrefixState :=
  let q := { p with count := p.count + 1 }
  match i with
  | .pfxEs => some { q with seg := some .es }
  | .pfxCs => some { q with seg := some .cs }
  | .pfxSs => some { q with seg := some .ss }
  | .pfxDs => some { q with seg := some .ds }
  | .pfxFs => some { q with seg := some .fs }
  | .pfxGs => some { q with seg := some .gs }
  | .pfxOpsize => some { q with opsize := true }
  | .pfxAdsize => some { q with adsize := true }
  | .pfxLock => some { q with lock := true }
  | .pfxRepne => some { q with rep := .repne }
  | .pfxRep => some { q with rep := .rep }
  | _ => none

/-- The instruction is a prefix byte (R122). -/
def isPrefix (i : Instr) : Bool := (PrefixState.empty.record i).isSome

/-- What the decoder answers: the prefixes, the instruction, and the length with its prefixes. -/
structure Decoded where
  pfx : PrefixState
  instr : Instr
  length : Nat
  deriving DecidableEq, Repr

/-- The prefix loop and the decode after it, `total` being the length of the window (R121). -/
def decodeFrom (csD : Bool) (total : Nat) : Nat → PrefixState → List Byte → Option Decoded
  | 0, _, _ => none
  | fuel + 1, p, bytes =>
    match decode (sizeFor csD p.opsize) (sizeFor csD p.adsize) bytes with
    | none => none
    | some (i, rest) =>
      match p.record i with
      | some q => decodeFrom csD total fuel q rest
      | none => some ⟨p, i, total - rest.length⟩

/-- `DecodeAt(bytes)` under a given `CS.D`: the decode over a window of bytes, none when Undecodable
(R121, R126, R176). -/
def decodeAt (csD : Bool) (bytes : List Byte) : Option Decoded :=
  let window := bytes.take maxLength
  decodeFrom csD window.length (maxLength + 1) .empty window

/-! ### The bytes a decode fetches (R100, R107, R121, R173) -/

/-- A row of the one-byte table with this opcode needs ModRM (R121, R132, R150 to R164, R170, R171). -/
def oneNeedsModRM (b : Byte) : Bool :=
  let n := b.toNat
  (n < 0x40 && n % 8 < 4) || n == 0x62 || n == 0x69 || n == 0x6B || n == 0x80 || n == 0x81 ||
    (0x83 ≤ n && n ≤ 0x8F) || n == 0xC0 || n == 0xC1 || (0xC4 ≤ n && n ≤ 0xC7) ||
    (0xD0 ≤ n && n ≤ 0xD3) || (0xD8 ≤ n && n ≤ 0xDF) || n == 0xF6 || n == 0xF7 || 0xFE ≤ n

/-- A row of the two-byte table with this second byte needs ModRM (R121, R132, R164 to R168). -/
def twoNeedsModRM (b : Byte) : Bool :=
  let n := b.toNat
  (0x20 ≤ n && n ≤ 0x23) || (0x90 ≤ n && n ≤ 0x9F) || (0xA3 ≤ n && n ≤ 0xA5) ||
    (0xAB ≤ n && n ≤ 0xAD) || n == 0xAF || (0xB2 ≤ n && n ≤ 0xB7) || 0xBA ≤ n && n ≤ 0xBF

/-- The number of bytes of ModRM, SIB and displacement at the front, all of them where they end too soon
(R135, R136). -/
def modRMLength (a : Size) (bytes : List Byte) : Nat :=
  match takeRM a bytes fun _ _ rest => some (.nop, rest) with
  | some (_, rest) => bytes.length - rest.length
  | none => bytes.length

/-- The number of bytes the decoder has fetched when it looks for the one row left: opcode, ModRM, SIB and
displacement, but no immediate (R121). In the rows of `0F 20` to `0F 23` the mod field is treated as 3
(R318), also for a register number without a row (DEDUCED: log entry 19). -/
def lookupLength (a : Size) (bytes : List Byte) : Nat :=
  match bytes with
  | [] => 0
  | b :: bs =>
    if b = 0x0F then
      match bs with
      | [] => 1
      | b2 :: bs2 =>
        if 0x20 ≤ b2.toNat ∧ b2.toNat ≤ 0x23 then min 3 bytes.length
        else if twoNeedsModRM b2 then 2 + modRMLength a bs2
        else 2
    else if oneNeedsModRM b then 1 + modRMLength a bs
    else 1

/-- The bytes have a row, whatever comes after them: they decode once enough bytes follow. -/
def hasRow (z a : Size) (bytes : List Byte) : Bool :=
  (decode z a (bytes ++ List.replicate maxLength 0)).isSome

/-- The number of bytes a decode without an answer has fetched: up to the lookup where no row matches, and
the whole window where the instruction would need a byte past it (R121, R126, R173). -/
def undecodedLength (z a : Size) (bytes : List Byte) : Nat :=
  if hasRow z a bytes then bytes.length else lookupLength a bytes

/-- The bytes fetched by the prefix loop and the decode after it; each prefix byte is one fetch (R121). -/
def fetchedFrom (csD : Bool) : Nat → PrefixState → List Byte → Nat
  | 0, _, _ => 0
  | fuel + 1, p, bytes =>
    let z := sizeFor csD p.opsize
    let a := sizeFor csD p.adsize
    match decode z a bytes with
    | none => undecodedLength z a bytes
    | some (i, rest) =>
      match p.record i with
      | some q => 1 + fetchedFrom csD fuel q rest
      | none => bytes.length - rest.length

/-- The number of bytes `DecodeAt(bytes)` fetches, whether it answers an instruction or Undecodable (R121,
R173, R176). -/
def bytesFetched (csD : Bool) (bytes : List Byte) : Nat :=
  fetchedFrom csD (maxLength + 1) .empty (bytes.take maxLength)

end Sys2Proof.Machine
end

