-- ==== Sys2Proof/Machine/Cycle.lean ====
section
/-! DEFINITION. One step: the prefixes, then the instruction after them (`00_scope.md` rule R3,
`60_exceptions.md` rules R670, R671). -/

namespace Sys2Proof.Machine

/-- The beginning of a step: PrefixState is empty, and a step ends `Retired` unless something says
otherwise (R41, R671). -/
def State.beginStep (s : State) : State := { s with pfx := .empty, result := some .retired }

/-- The end of a step: PrefixState is empty again (R41, R720). -/
def State.endStep (s : State) : State := { s with pfx := .empty, nextEip := 0 }

/-- The instruction after the prefixes, `length` bytes long with them: its meaning, then the record of
the step's interface calls, the fetch first, and the end of the step (R100, R144). A step that stops here
has its state, with the calls it has made, in `State.afterStep`. -/
def runInstr (i : Instr) (length : Nat) (s : State) : Result :=
  let u := s.withLength length
  thenDo (exec i u) fun t => .next (t.record (u.fetches length ++ u.accessesTo i t)).endStep

/-- Runs the prefixes and the instruction at the front of the bytes left of the window (R121). -/
def runFrom : Nat → List Byte → State → Result
  | 0, _, _ => .fault .undecodable
  | fuel + 1, bytes, s =>
    match decode s.opsz s.adsz bytes with
    | none => .fault .undecodable
    | some (i, rest) =>
      if isPrefix i then thenDo (exec i s) (runFrom fuel rest)
      else runInstr i (maxLength - rest.length) s

/-- One step (R3, R670). -/
def cycle (s : State) : Result := runFrom (maxLength + 1) s.window s.beginStep

/-! ### The state after a step that stops (R671) -/

/-- The interface calls of a step that ends in a fault or a refusal: the fetches made, and the operand
reads made before the condition was found (R100, R173, R671). -/
def State.callsOfStop (s : State) : List BusAccess :=
  match decodeAt s.csD s.window with
  | none => s.fetches (bytesFetched s.csD s.window)
  | some d =>
    let u := { s.beginStep with pfx := d.pfx }.withLength d.length
    s.fetches d.length ++ u.operandReads d.instr

/-- The state after a step that ends in a fault or a refusal: nothing changed and PrefixState is empty,
but its reads have been made; the model's own `result` says that no step completed (R671; log entries 2
and 19). -/
def State.afterStop (s : State) : State := ({ s with result := none }.record s.callsOfStop).endStep

/-- The state after `Step`, whatever its result (R671). -/
def State.afterStep (s : State) : State :=
  match cycle s with
  | .next t => t
  | .fault _ | .refused _ => s.afterStop

/-! ### Placing an instruction -/

/-- The state with an instruction's bytes stored where the next step fetches (R107). -/
def State.placeBytes (s : State) (bytes : List Byte) : State :=
  { s with mem := (bytes.zipIdx).foldl (fun m p => m.put (s.fetchAddr p.2).toNat p.1) s.mem }

end Sys2Proof.Machine
end

