-- ==== Sys2Proof/Machine/Step.lean ====
section
/-! DEFINITION. The step function, and the placing of an instruction where the next step fetches it. -/

namespace Sys2Proof.Machine

/-- `Step` (R3, R670): one instruction, or one element of a repeated string instruction. -/
def step (s : State) : Host.Outcome State Fault Refusal := cycle s

/-- The state with the bytes of an opcode-table word at CS:EIP, zeros after them up to the longest
instruction; it stands for the host's load of a program (R712; log entry 9). -/
def State.withFetchWord (s : State) (nbits w : Nat) : State := s.placeBytes (tableBytes nbits w)

end Sys2Proof.Machine
end

