-- ==== Sys2Proof/Machine/HostPort.lean ====
section
/-! DEFINITION. What the host may do between steps: the register port (`10_state.md` rule R23), the
interrupts (`60_exceptions.md` rules R690, R691) and the reset (`70_reset_and_hazards.md` rule R710).
No step calls any of these. -/

namespace Sys2Proof.Machine

/-- The answer of `Interrupt(v)` (R690). -/
inductive InterruptAnswer
  | accepted (s : State)
  | masked
  | refused (r : Refusal)
  deriving DecidableEq, Repr

/-- The answer a delivery of vector `v` between two steps gives the host, its interface calls recorded
(R100, R676, R690). -/
def hostDeliver (v : BitVec 8) (s : State) : InterruptAnswer :=
  match deliver v s.eip s with
  | .next t => .accepted (t.record (s.deliveryAccesses v))
  | .fault _ => .masked
  | .refused r => .refused r

/-- `Interrupt(v)`: delivered with the current EIP if IF is set, else nothing changes (R690). -/
def hostInterrupt (v : BitVec 8) (s : State) : InterruptAnswer :=
  if s.flags.IF then hostDeliver v s else .masked

/-- `InterruptNMI()`: vector 2, without the IF test (R691). -/
def hostNmi (s : State) : InterruptAnswer := hostDeliver 2 s

/-- `Reset()`: every piece of the block's state; the memory, the ports and the record of the interface
calls are the platform's and are not touched (R710, R711). -/
def hostReset (s : State) : State := { State.reset with mem := s.mem, ports := s.ports, bus := s.bus }

/-- `GetReg(w, code)` (R23). -/
def hostGetReg (s : State) (w : Width) (r : Reg) : BitVec w.bits := s.readReg w r

/-- `SetReg(w, code, v)` (R23). -/
def hostSetReg (s : State) (w : Width) (r : Reg) (v : BitVec w.bits) : State := s.writeReg w r v

/-- The host's read of a selector (R23). -/
def hostGetSelector (s : State) (r : SegReg) : BitVec 16 := s.sel r

/-- The host's set of a selector, through the one procedure every selector write uses (R23, R27). -/
def hostSetSelector (r : SegReg) (sel : BitVec 16) (s : State) : Result := loadSeg r sel s

/-- The host's read of EIP (R23). -/
def hostGetEip (s : State) : BitVec 32 := s.eip

/-- The host's set of EIP (R23). -/
def hostSetEip (s : State) (off : BitVec 32) : State := s.jumpTo off

/-- The host's read of EFLAGS, through the image (R23, R33). -/
def hostGetFlags (s : State) : BitVec 32 := s.flags.image

/-- The host's set of EFLAGS, through the image (R23, R33). -/
def hostSetFlags (s : State) (v : BitVec 32) : State := { s with flags := .ofImage v }

/-- The host's read of a control register (R23, R36). -/
def hostGetCtl (s : State) (c : CtlReg) : BitVec 32 := s.ctl.get c

/-- The host's set of a control register (R23, R36). -/
def hostSetCtl (s : State) (c : CtlReg) (v : BitVec 32) : State := { s with ctl := s.ctl.set c v }

/-- The host's read of a debug register (R23, R36). -/
def hostGetDbg (s : State) (d : DbgReg) : BitVec 32 := s.dbg.get d

/-- The host's set of a debug register (R23, R36). -/
def hostSetDbg (s : State) (d : DbgReg) (v : BitVec 32) : State := { s with dbg := s.dbg.set d v }

/-- The host's read of an FPU slot's value (R23, R45). -/
def hostGetSlot (s : State) (k : BitVec 3) : F64 := s.fpu.reg k

/-- The host's set of an FPU slot's value (R23, R45). -/
def hostSetSlot (s : State) (k : BitVec 3) (v : F64) : State := { s with fpu := s.fpu.setReg k v }

/-- The host's read of the control word (R23, R49). -/
def hostGetFcw (s : State) : BitVec 16 := s.fpu.FCW

/-- The host's set of the control word (R23, R49). -/
def hostSetFcw (s : State) (v : BitVec 16) : State := { s with fpu := { s.fpu with FCW := v } }

/-- The host's read of the status word (R23, R51). -/
def hostGetFsw (s : State) : BitVec 16 := s.fpu.statusWord

/-- The host's set of the status word (R23, R51). -/
def hostSetFsw (s : State) (v : BitVec 16) : State := { s with fpu := s.fpu.writeStatus v }

/-- The host's read of the tag word (R23, R53). -/
def hostGetFtw (s : State) : BitVec 16 := s.fpu.tagWord

/-- The host's set of the tag word (R23, R53). -/
def hostSetFtw (s : State) (v : BitVec 16) : State := { s with fpu := s.fpu.writeTags v }

end Sys2Proof.Machine
end

