-- ==== Sys2Proof/Safety.lean ====
section
/-! DEFINITION. What claims are stated in: runs and halting (`60_exceptions.md` rule R705), the
invariants of the machine, what an instruction leaves unchanged, and the values floating-point
patterns denote. -/

namespace Sys2Proof.Machine

/-! ### Runs -/

/-- `t` ends one of the steps of the run from `s`: the run goes on after every step whose result is not
`Halted` (R705). -/
inductive Reaches (s : State) : State → Prop
  | first {t : State} : step s = .next t → Reaches s t
  | next {t u : State} : Reaches s t → t.result ≠ some .halted → step t = .next u → Reaches s u

/-- A safe run: none of its steps, up to the first that halts, ends in a fault or a refusal (R705). -/
def Safe (s : State) : Prop :=
  (∃ u, step s = .next u) ∧
    ∀ t, Reaches s t → t.result ≠ some .halted → ∃ u, step t = .next u

/-- One of the steps of the run ends `Halted` (R705). -/
def Halts (s : State) : Prop := ∃ t, Reaches s t ∧ t.result = some .halted

/-! ### Invariants -/

/-- What holds between steps: the memory has its canonical form and PrefixState is empty (R41); the
model's own `nextEip` is 0. -/
def State.Inv (s : State) : Prop := s.mem.wf = true ∧ s.pfx = .empty ∧ s.nextEip = 0

/-- A segment register as real mode loads it: the base is the selector times 16 (R27). -/
def Seg.Real (g : Seg) : Prop := g.base.toNat = 16 * g.sel.toNat

/-- The machine while `CR0.PE` has been 0 since reset: every base is its selector times 16 and both
hidden bits are 0 (R27, R28). -/
def State.RealMode (s : State) : Prop :=
  s.protectedMode = false ∧ s.csD = false ∧ s.ssB = false ∧ ∀ r, (s.seg.get r).Real

/-! ### What an instruction leaves unchanged -/

/-- The lowest bit of a view in its register's storage (R21). -/
def viewLow : Width → Reg → Nat
  | .w8, r => if isHigh8 r then 8 else 0
  | .w16, _ => 0
  | .w32, _ => 0

/-- Bit `k` of the storage of `q` belongs to the `w`-bit view of code `r` (R21). -/
def InView (w : Width) (r q : Reg) (k : Nat) : Prop :=
  q = homeOf w r ∧ viewLow w r ≤ k ∧ k < viewLow w r + w.bits

/-- Of the general registers, only bits of one view may differ (R22). -/
def OnlyView (w : Width) (r : Reg) (s t : State) : Prop :=
  ∀ q k, ¬ InView w r q k → (t.gpr.get q).getLsbD k = (s.gpr.get q).getLsbD k

/-- Of the general registers, only bits of two views may differ. -/
def OnlyViews (w : Width) (r : Reg) (w' : Width) (r' : Reg) (s t : State) : Prop :=
  ∀ q k, ¬ InView w r q k → ¬ InView w' r' q k →
    (t.gpr.get q).getLsbD k = (s.gpr.get q).getLsbD k

/-- Of the general registers, only bits of the double-width accumulator may differ: AX at width 8, else
the accumulator and DX or EDX (R344). -/
def OnlyWide (w : Width) (s t : State) : Prop :=
  match w with
  | .w8 => OnlyView .w16 .eax s t
  | .w16 => OnlyViews .w16 .eax .w16 .edx s t
  | .w32 => OnlyViews .w32 .eax .w32 .edx s t

/-- Byte `p` is one of the `n` bytes from address `a` on (R82). -/
def InSpan (a : BitVec 32) (n p : Nat) : Prop := ∃ j, j < n ∧ p = (a + BitVec.ofNat 32 j).toNat

/-- Every byte outside the `n` bytes from `a` on reads as before. -/
def SameMemExcept (a : BitVec 32) (n : Nat) (s t : State) : Prop :=
  ∀ p, ¬ InSpan a n p → t.mem.get p = s.mem.get p

/-- Of the general registers and the memory, only the destination may differ: the bits of its view, or
the bytes at the address the operand has in `s`. -/
def OnlyDst (w : Width) (dst : RM) (s t : State) : Prop :=
  match dst with
  | .reg r => OnlyView w r s t ∧ t.mem = s.mem
  | .mem m => t.gpr = s.gpr ∧ SameMemExcept (s.memAddr m) w.bytes s t

/-- The state beside the general registers, the flags, EIP, the memory, the segment registers and the
FPU is unchanged. -/
def SameSystem (s t : State) : Prop :=
  t.ctl = s.ctl ∧ t.dbg = s.dbg ∧ t.pfx = s.pfx ∧ t.nextEip = s.nextEip ∧ t.ports = s.ports ∧
    t.bus = s.bus ∧ t.result = s.result

/-- The segment registers and their hidden bits are unchanged. -/
def SameSegs (s t : State) : Prop := t.seg = s.seg ∧ t.csD = s.csD ∧ t.ssB = s.ssB

/-- Everything beside the general registers, the flags, EIP and the memory is unchanged. -/
def SameRest (s t : State) : Prop := SameSegs s t ∧ t.fpu = s.fpu ∧ SameSystem s t

/-- A retired instruction that wrote `v` to its destination and `f` to the flags, and nothing else. -/
def Wrote (s t : State) (w : Width) (dst : RM) (v : BitVec w.bits) (f : Flags) : Prop :=
  t.eip = s.nextEip ∧ t.readRM w dst = v ∧ t.flags = f ∧ OnlyDst w dst s t ∧ SameRest s t

/-! ### The stack -/

/-- From `s` to `t`, `n` words of size `z` were pushed: the stack pointer is `n` words lower, no other
general register changed, and no byte outside the pushed words. -/
def PushedSpace (s t : State) (z : Size) (n : Nat) : Prop :=
  t.stackPtr = s.spDown (n * z.bytes) ∧ OnlyView s.stksz.width .esp s t ∧
    ∀ p, (∀ i, i < n → ¬ InSpan (t.slot z i) z.bytes p) → t.mem.get p = s.mem.get p

/-- From `s` to `t`, one word `v` was pushed (R201). -/
def Pushed (s t : State) (z : Size) (v : BitVec z.bits) : Prop :=
  PushedSpace s t z 1 ∧ t.memRead z.width (t.slot z 0) = v

/-! ### Selector loads -/

/-- The base and the hidden bit a selector load stores: the selector times 16 and 0 in real mode, the
descriptor hook's answer in protected mode (R27). -/
def segmentFor (s : State) (r : SegReg) (sel : BitVec 16) : Option Descriptor :=
  if s.protectedMode then Config.descLookup r sel else some ⟨BitVec.ofNat 32 (16 * sel.toNat), false⟩

/-! ### Instructions that share a rule -/

/-- The conditional jump on a condition (R426, R427). -/
def jccInstr : Cond → JccForm → Instr
  | .o, f => .jo f
  | .no, f => .jno f
  | .b, f => .jb f
  | .nb, f => .jnb f
  | .z, f => .jz f
  | .nz, f => .jnz f
  | .be, f => .jbe f
  | .nbe, f => .jnbe f
  | .s, f => .js f
  | .ns, f => .jns f
  | .p, f => .jp f
  | .np, f => .jnp f
  | .l, f => .jl f
  | .nl, f => .jnl f
  | .le, f => .jle f
  | .nle, f => .jnle f

/-- The SETcc on a condition (R298). -/
def setccInstr : Cond → RM → Instr
  | .o, rm => .seto rm
  | .no, rm => .setno rm
  | .b, rm => .setb rm
  | .nb, rm => .setnb rm
  | .z, rm => .setz rm
  | .nz, rm => .setnz rm
  | .be, rm => .setbe rm
  | .nbe, rm => .setnbe rm
  | .s, rm => .sets rm
  | .ns, rm => .setns rm
  | .p, rm => .setp rm
  | .np, rm => .setnp rm
  | .l, rm => .setl rm
  | .nl, rm => .setnl rm
  | .le, rm => .setle rm
  | .nle, rm => .setnle rm

/-- The group-2 instruction of an operation (R381 to R387). -/
def shiftInstr : ShiftKind → ShiftForm → Instr
  | .rol, f => .rol f
  | .ror, f => .ror f
  | .rcl, f => .rcl f
  | .rcr, f => .rcr f
  | .shl, f => .shl f
  | .shr, f => .shr f
  | .sar, f => .sar f

/-- The far-pointer load of a segment register; CS has none (R284 to R288). -/
def farLoadInstr : SegReg → Option (Reg → MemOp → Instr)
  | .es => some .les
  | .cs => none
  | .ss => some .lss
  | .ds => some .lds
  | .fs => some .lfs
  | .gs => some .lgs

/-- The FPU instructions (R530). -/
def isFpu : Instr → Bool
  | .fadd _ | .fiadd _ | .fmul _ | .fimul _ | .fcom _ | .ficom _ | .fcomp _ | .ficomp _ => true
  | .fsub _ | .fisub _ | .fsubr _ | .fisubr _ | .fdiv _ | .fidiv _ | .fdivr _ | .fidivr _ => true
  | .fld _ | .fst _ | .fstp _ | .fldenv _ | .fldcw _ | .fnstenv _ | .fnstcw _ | .fild _ => true
  | .fist _ | .fistp _ | .frstor _ | .fnsave _ | .fnstsw _ | .fbld _ | .fbstp _ | .fxch _ => true
  | .fnop | .fchs | .fabs | .ftst | .fxam | .fld1 | .fldl2t | .fldl2e | .fldpi | .fldlg2 => true
  | .fldln2 | .fldz | .f2xm1 | .fyl2x | .fptan | .fpatan | .fxtract | .fprem1 | .fdecstp => true
  | .fincstp | .fprem | .fyl2xp1 | .fsqrt | .fsincos | .frndint | .fscale | .fsin | .fcos => true
  | .fucompp | .feni | .fdisi | .fnclex | .fninit | .fsetpm | .ffree _ | .fucom _ => true
  | .fucomp _ | .faddp _ | .fmulp _ | .fsubrp _ | .fsubp _ | .fdivrp _ | .fdivp _ | .fcompp => true
  | _ => false

/-- The instructions that can write a flag: the arithmetic, logic, shift, bit and compare instructions, the
flag instructions, SAHF, POPF and IRET, and those that can take an exception (R225 to R234, R350 to
R355, R396 to R398, R443, R475, R476, R500 to R506, R672). -/
def changesFlags : Instr → Bool
  | .add _ | .adc _ | .sub _ | .sbb _ | .and _ | .or _ | .xor _ | .cmp _ | .test _ => true
  | .inc _ | .dec _ | .neg _ | .mul _ | .imul _ | .div _ | .idiv _ => true
  | .daa | .das | .aaa | .aas | .aam _ | .aad _ => true
  | .rol _ | .ror _ | .rcl _ | .rcr _ | .shl _ | .shr _ | .sar _ | .shld _ | .shrd _ => true
  | .bt _ | .bts _ | .btr _ | .btc _ | .bsf _ _ | .bsr _ _ | .cmps _ | .scas _ => true
  | .clc | .stc | .cmc | .cld | .std | .cli | .sti | .sahf | .popf => true
  | .iret | .int3 | .int _ | .into | .bound _ _ => true
  | _ => false

/-- The instructions that can load a selector: MOV and POP to a segment register, the far-pointer loads,
the far transfers, and those that can take an exception (R27). -/
def loadsSelector : Instr → Bool
  | .mov (.sregRmw _ _) | .pop (.sreg _) => true
  | .les _ _ | .lds _ _ | .lss _ _ | .lfs _ _ | .lgs _ _ => true
  | .jmp (.pw _ _) | .jmp (.mp _) | .call (.pw _ _) | .call (.mp _) | .retf _ | .iret => true
  | .int3 | .int _ | .into | .bound _ _ | .div _ | .idiv _ | .aam _ => true
  | _ => false

/-! ### Interface calls -/

/-- Byte `p` is read by one of the interface calls. -/
def ReadsByte (calls : List BusAccess) (p : Nat) : Prop := ∃ a n, .read a n ∈ calls ∧ InSpan a n p

/-- Byte `p` is written by one of the interface calls. -/
def WritesByte (calls : List BusAccess) (p : Nat) : Prop := ∃ a n, .write a n ∈ calls ∧ InSpan a n p

/-! ### The FPU -/

/-- The operand an FPU instruction stores to and the number of bytes it stores (R543 to R550, R553,
R565, R566, R575, R578). -/
def fpuStore (z : Size) : Instr → Option (MemOp × Nat)
  | .fst (.mf32 m) | .fstp (.mf32 m) | .fist (.m32 m) | .fistp (.m32 m) => some (m, 4)
  | .fst (.mf64 m) | .fstp (.mf64 m) | .fistp (.m64 m) => some (m, 8)
  | .fstp (.mf80 m) | .fbstp m => some (m, 10)
  | .fist (.m16 m) | .fistp (.m16 m) | .fnstcw m | .fnstsw (.m16 m) => some (m, 2)
  | .fnstenv m => some (m, envSize z)
  | .fnsave m => some (m, envSize z + 80)
  | _ => none

/-- `k` executions of one instruction, as the driver's steps re-enter a repeated string instruction
(R472). -/
def execTimes (i : Instr) : Nat → State → Result
  | 0, s => .next s
  | k + 1, s => thenDo (exec i s) (execTimes i k)

/-! ### The values of floating-point patterns -/

/-- `i` is the exact number `q` rounded to an integer: to nearest with a tie to even, down, up, or toward
zero, as the rounding control `rc` says (R535). -/
def IntRounds (rc : BitVec 2) (q : ℚ) (i : Int) : Prop :=
  (rc = 0 → |q - i| ≤ 1 / 2 ∧ (|q - i| = 1 / 2 → i % 2 = 0)) ∧
  (rc = 1 → (i : ℚ) ≤ q ∧ q < i + 1) ∧
  (rc = 2 → q ≤ i ∧ (i : ℚ) - 1 < q) ∧
  (rc = 3 → |(i : ℚ)| ≤ |q| ∧ |q| < |(i : ℚ)| + 1 ∧ 0 ≤ q * i)

/-- The rational number a finite value denotes; 0 for the others. -/
def FVal.toRat : FVal → ℚ
  | .fin s m e => (if s then -1 else 1) * m * 2 ^ e
  | .inf _ => 0
  | .nan => 0

/-- A value that is a number. -/
def FVal.isFinite : FVal → Bool
  | .fin _ _ _ => true
  | .inf _ => false
  | .nan => false

/-- The rational number a binary64 pattern denotes; 0 for an infinity or a NaN. -/
def F64.toRat (x : F64) : ℚ := (F64.val x).toRat

/-- The pattern denotes a number. -/
def F64.finite (x : F64) : Bool := (F64.val x).isFinite

/-- `x` is the exact number `q` rounded to binary64: to nearest, a tie to the even pattern, infinity from
halfway between the greatest number and 2^1024 on; the sign is that of `q`, and for `q = 0` it is `neg`
(R600(a)). -/
def RoundsTo (q : ℝ) (neg : Bool) (x : F64) : Prop :=
  (q = 0 → x.msb = neg) ∧ (q < 0 → x.msb = true) ∧ (0 < q → x.msb = false) ∧
  (2 ^ 1024 - 2 ^ 970 ≤ |q| → F64.val x = .inf x.msb) ∧
  (|q| < 2 ^ 1024 - 2 ^ 970 → F64.finite x = true ∧
    ∀ y : F64, F64.finite y = true → F64.toRat y ≠ F64.toRat x →
      |q - F64.toRat x| < |q - F64.toRat y| ∨
        |q - F64.toRat x| = |q - F64.toRat y| ∧ x.getLsbD 0 = false)

/-- The number a binary32 pattern with an exponent below 255 denotes (R534). -/
def F32.toRat (b : BitVec 32) : ℚ :=
  let expo := (b.extractLsb' 23 8).toNat
  let frac := (b.extractLsb' 0 23).toNat
  (if b.msb then -1 else 1) *
    (if expo = 0 then (frac : ℚ) * 2 ^ (-149 : Int)
     else ((frac : ℚ) + 2 ^ 23) * 2 ^ ((expo : Int) - 150))

/-- The number an extended pattern with an exponent below 0x7FFF denotes (R534). -/
def F80.toRat (e : BitVec 80) : ℚ :=
  let expo := (e.extractLsb' 64 15).toNat
  (if e.msb then -1 else 1) * (e.extractLsb' 0 64).toNat *
    2 ^ (((max expo 1 : Nat) : Int) - 16383 - 63)

end Sys2Proof.Machine
end

