-- ==== Sys2Proof/Certificates/Slice0/Obligations.lean ====
section
/-! DEFINITION. The statements for the provers. -/

open Sys2Proof Sys2Proof.Machine

/-! ### Encoding, decoding and the step -/

/-- One word of each family, written out from the spec's examples, decodes to its instruction, and
three words that are no instruction are refused (rules R172, R173, R205, R266, R283, R338, R347, R385,
R396, R422, R426, R444, R474, R500, R567, R601). Of these the spec marks as its own decision or
knowledge: R172 (D1, D8), R173 (D8), R385 (derived), R474 (general knowledge). By the header of its
file, the spec marks "[from general knowledge, not in source]", admitted by decision D1: every rule of
42_data_transfer.md and 43_arithmetic_logic.md and 44_shift_rotate_bit.md and 45_control_transfer.md;
the mnemonics and byte values of every rule of 47_processor_control.md; every encoding and every layout
of 48_fpu_data_control.md; every encoding and every condition-code table of 49_fpu_arithmetic.md. -/
def Obligations.DecodeWords : Prop :=
  decode .s16 .s16 [0x8D, 0x00] = some (.lea .eax (.based16 .bxsi .none), []) ∧
  decode .s16 .s16 [0x38, 0xC8] = some (.cmp (.rmbRb (.reg .eax) .ecx), []) ∧
  decode .s16 .s16 [0x8B, 0x46, 0xFE] = some (.mov (.rwRmw .eax (.mem (.based16 .bp (.d8 0xFE)))), []) ∧
  decode .s16 .s32 [0x8B, 0x44, 0x8B, 0x10] =
    some (.mov (.rwRmw .eax (.mem (.sib .x4 .ecx .ebx (.d8 0x10)))), []) ∧
  decode .s16 .s32 [0x8B, 0x04, 0x2D, 0x00, 0x01, 0x00, 0x00] =
    some (.mov (.rwRmw .eax (.mem (.sibNoBase .x1 .ebp 0x100))), []) ∧
  decode .s16 .s16 [0x69, 0xC3, 0xE8, 0x03] = some (.imul (.rwRmwIw .eax (.reg .ebx) 1000), []) ∧
  decode .s16 .s16 [0xC0, 0xE0, 0x02] = some (.shl (.rmbIb (.reg .eax) 2), []) ∧
  decode .s16 .s16 [0x0F, 0xA3, 0x1E, 0x00, 0x10] =
    some (.bt (.rmwRw (.mem (.direct16 0x1000)) .ebx), []) ∧
  decode .s16 .s16 [0x74, 0x05] = some (.jz (.jb 5), []) ∧
  decode .s16 .s16 [0xE9, 0xFD, 0xFF] = some (.jmp (.jw 0xFFFFFFFD), []) ∧
  decode .s16 .s16 [0xC8, 0x10, 0x00, 0x00] = some (.enter 0x0010 0, []) ∧
  decode .s16 .s16 [0xA4] = some (.movs .b, []) ∧
  decode .s16 .s16 [0xF8] = some (.clc, []) ∧
  decode .s16 .s16 [0xD8, 0xC1] = some (.fadd (.st0St 1), []) ∧
  decode .s16 .s16 [0xDF, 0xE0] = some (.fnstsw .ax, []) ∧
  decode .s16 .s16 [0x8E, 0xC8] = none ∧
  decode .s16 .s16 [0x8D, 0xC0] = none ∧
  decode .s16 .s16 [0xD6] = none

/-- Decoding the encoding of a well-formed instruction gives it back, under every operand size and
address size and whatever bytes follow (rules R121, R128 to R143). Of these the spec marks as its own
decision or knowledge: R128 (D4), R136 (general knowledge), R140 (general knowledge), R141 (general
knowledge), R142 (general knowledge). -/
def Obligations.DecodeEncode : Prop :=
  ∀ (z a : Size) (i : Instr) (rest : List Byte), WellFormed.instrOk z a i = true →
    decode z a (encode z a i ++ rest) = some (i, rest)

/-- The decoder answers well-formed instructions only, takes at least one byte off the front, and its
answer does not depend on the bytes after the ones it takes (rules R107, R142, R143, R172). Of these
the spec marks as its own decision or knowledge: R107 (D17, D32, D33), R142 (general knowledge), R172
(D1, D8). -/
def Obligations.DecodedIsWellFormed : Prop :=
  ∀ (z a : Size) (bytes rest : List Byte) (i : Instr), decode z a bytes = some (i, rest) →
    WellFormed.instrOk z a i = true ∧
    ∃ front, front ≠ [] ∧ bytes = front ++ rest ∧
      ∀ other, decode z a (front ++ other) = some (i, other)

/-- Where the bytes at CS:EIP, the offsets modulo 2^16 or 2^32 by `CS.D`, begin with an instruction
that is no prefix, a step is that instruction's meaning, run with PrefixState empty and `NextEIP` past
its bytes, in the same modulus; after it PrefixState is empty again and the record holds the fetch of
its bytes and the calls of its meaning (rules R3, R41, R100, R107, R144; the record, and `nextEip` 0
between steps, are the model's own, log entries 2 and 5). Of these the spec marks as its own decision
or knowledge: R41 (derived), R100 (D32), R107 (D17, D32, D33). -/
def Obligations.StepRunsInstruction : Prop :=
  ∀ (s : State) (i : Instr) (rest : List Byte),
    let z : Size := if s.csD then .s32 else .s16
    let M : Nat := if s.csD then 2 ^ 32 else 2 ^ 16
    let fetch (k : Nat) : BitVec 32 := s.seg.cs.base + BitVec.ofNat 32 ((s.eip.toNat + k) % M)
    let window := (List.range 15).map fun k => s.mem.get (fetch k).toNat
    decode z z window = some (i, rest) → isPrefix i = false →
    let n := 15 - rest.length
    let u := { s with
      pfx := .empty, result := some .retired, nextEip := BitVec.ofNat 32 ((s.eip.toNat + n) % M) }
    step s = thenDo (exec i u) fun t => .next { t with
      pfx := .empty
      nextEip := 0
      bus := ((List.range n).map (fun k => BusAccess.read (fetch k) 1) ++ u.accessesTo i t).reverse ++ t.bus }

/-- The decode inside a step and `DecodeAt` over the same bytes pick the same instruction, the same
prefixes and the same length; a step is the meaning of what `DecodeAt` answers, run with those prefixes
and with `NextEIP` past that length; after it PrefixState is empty again and the record holds its calls
(rules R41, R100, R107, R121, R144, R176; the record, and `nextEip` 0 between steps, are the model's
own, log entries 2 and 5). Of these the spec marks as its own decision or knowledge: R41 (derived),
R100 (D32), R107 (D17, D32, D33). -/
def Obligations.StepMatchesDecodeAt : Prop :=
  ∀ s : State,
    let M : Nat := if s.csD then 2 ^ 32 else 2 ^ 16
    let fetch (k : Nat) : BitVec 32 := s.seg.cs.base + BitVec.ofNat 32 ((s.eip.toNat + k) % M)
    step s =
      match decodeAt s.csD ((List.range 15).map fun k => s.mem.get (fetch k).toNat) with
      | none => .fault .undecodable
      | some d =>
        let u := { s with
          pfx := d.pfx
          result := some .retired
          nextEip := BitVec.ofNat 32 ((s.eip.toNat + d.length) % M) }
        thenDo (exec d.instr u) fun t => .next { t with
          pfx := .empty
          nextEip := 0
          bus := ((List.range d.length).map (fun k => BusAccess.read (fetch k) 1) ++
            u.accessesTo d.instr t).reverse ++ t.bus }

/-- Undecodable bytes are the only fault of the machine, and outside protected mode nothing is refused:
there every decodable step ends in a next state; and a run ends at its first `Halted`, so it has at
most one such end (rules R173, R671, R683, R705; the field `result` that holds a step's result is the
model's own, log entry 2). Of these the spec marks as its own decision or knowledge: R173 (D8), R671
(D8, D9, D37, D53), R683 (derived), R705 (D53). -/
def Obligations.OnlyStops : Prop :=
  (∀ s : State,
    ((∃ r, step s = .fault r) ↔ decodeAt s.csD s.window = none) ∧
    (s.protectedMode = false → ∀ r, step s ≠ .refused r) ∧
    (∀ i, s.protectedMode = false → ∃ t, exec i s = .next t) ∧
    (∀ i r, exec i s ≠ .fault r)) ∧
  (∀ s t u : State, Reaches s t → t.result = some .halted → Reaches s u →
    u.result = some .halted → t = u)

/-- A prefix byte records itself in PrefixState, counts itself, and changes nothing else; of several
segment overrides or repeat prefixes the last one stays; the operand and address sizes are those `CS.D`
and the recorded prefix select, the stack size that of `SS.B`; PrefixState is empty after a step (rules
R122, R123, R128, R129, R200, R41). Of these the spec marks as its own decision or knowledge: R122
(general knowledge), R123 (D18), R128 (D4), R200 (D4, D46), R41 (derived). -/
def Obligations.PrefixesRecord : Prop :=
  ∀ s : State,
    (let counted := { s.pfx with count := s.pfx.count + 1 }
     exec .pfxEs s = .next { s with pfx := { counted with seg := some .es } } ∧
     exec .pfxCs s = .next { s with pfx := { counted with seg := some .cs } } ∧
     exec .pfxSs s = .next { s with pfx := { counted with seg := some .ss } } ∧
     exec .pfxDs s = .next { s with pfx := { counted with seg := some .ds } } ∧
     exec .pfxFs s = .next { s with pfx := { counted with seg := some .fs } } ∧
     exec .pfxGs s = .next { s with pfx := { counted with seg := some .gs } } ∧
     exec .pfxOpsize s = .next { s with pfx := { counted with opsize := true } } ∧
     exec .pfxAdsize s = .next { s with pfx := { counted with adsize := true } } ∧
     exec .pfxLock s = .next { s with pfx := { counted with lock := true } } ∧
     exec .pfxRepne s = .next { s with pfx := { counted with rep := .repne } } ∧
     exec .pfxRep s = .next { s with pfx := { counted with rep := .rep } }) ∧
    (s.opsz = (if s.csD != s.pfx.opsize then .s32 else .s16) ∧
      s.adsz = (if s.csD != s.pfx.adsize then .s32 else .s16) ∧
      s.stksz = (if s.ssB then .s32 else .s16)) ∧
    (∀ z a rest,
      decode z a (0x26 :: rest) = some (.pfxEs, rest) ∧
      decode z a (0x2E :: rest) = some (.pfxCs, rest) ∧
      decode z a (0x36 :: rest) = some (.pfxSs, rest) ∧
      decode z a (0x3E :: rest) = some (.pfxDs, rest) ∧
      decode z a (0x64 :: rest) = some (.pfxFs, rest) ∧
      decode z a (0x65 :: rest) = some (.pfxGs, rest) ∧
      decode z a (0x66 :: rest) = some (.pfxOpsize, rest) ∧
      decode z a (0x67 :: rest) = some (.pfxAdsize, rest) ∧
      decode z a (0xF0 :: rest) = some (.pfxLock, rest) ∧
      decode z a (0xF2 :: rest) = some (.pfxRepne, rest) ∧
      decode z a (0xF3 :: rest) = some (.pfxRep, rest)) ∧
    (∀ t, step s = .next t → t.pfx = .empty)

/-! ### Registers, memory, reset -/

/-- A write through a view replaces exactly the bits of that view, a read returns them, and the views
overlap as the table of register codes says (rules R21, R22). Of these the spec marks as its own
decision or knowledge: R21 (D5, general knowledge), R22 (derived). -/
def Obligations.RegisterViews : Prop :=
  (∀ (s : State) (w : Width) (r : Reg) (v : BitVec w.bits),
    (s.writeReg w r v).readReg w r = v ∧ OnlyView w r s (s.writeReg w r v) ∧
      (s.writeReg w r v).mem = s.mem ∧ (s.writeReg w r v).flags = s.flags ∧
      (s.writeReg w r v).eip = s.eip ∧ SameRest s (s.writeReg w r v)) ∧
  (∀ (s : State) (r : Reg),
    s.readReg .w32 r = s.gpr.get r ∧ s.readReg .w16 r = (s.gpr.get r).extractLsb' 0 16) ∧
  (∀ s : State,
    s.readReg .w8 .eax = s.gpr.eax.extractLsb' 0 8 ∧ s.readReg .w8 .ecx = s.gpr.ecx.extractLsb' 0 8 ∧
    s.readReg .w8 .edx = s.gpr.edx.extractLsb' 0 8 ∧ s.readReg .w8 .ebx = s.gpr.ebx.extractLsb' 0 8 ∧
    s.readReg .w8 .esp = s.gpr.eax.extractLsb' 8 8 ∧ s.readReg .w8 .ebp = s.gpr.ecx.extractLsb' 8 8 ∧
    s.readReg .w8 .esi = s.gpr.edx.extractLsb' 8 8 ∧ s.readReg .w8 .edi = s.gpr.ebx.extractLsb' 8 8)

/-- A write of a byte, word or dword at any address, wrapping at the top of memory, puts its bytes low
byte first, reads back, and leaves every other byte and everything else alone (rules R82, R83, R85). Of
these the spec marks as its own decision or knowledge: R83 (D2, general knowledge), R85 (D3, general
knowledge). -/
def Obligations.MemoryLittleEndian : Prop :=
  ∀ (s : State) (w : Width) (a : BitVec 32) (v : BitVec w.bits),
    (s.memWrite w a v).memRead w a = v ∧
    (∀ j, j < w.bytes →
      (s.memWrite w a v).mem.get (a + BitVec.ofNat 32 j).toNat = v.extractLsb' (8 * j) 8) ∧
    SameMemExcept a w.bytes s (s.memWrite w a v) ∧
    (s.memWrite w a v).gpr = s.gpr ∧ (s.memWrite w a v).flags = s.flags ∧
    (s.memWrite w a v).eip = s.eip ∧ SameRest s (s.memWrite w a v)

/-- What reset leaves: the values of the spec's table (R60, R711), and the invariants of this model
hold. The clauses about memory, `nextEip`, `ports`, `bus` and `result` are the model's own (log entries
2, 3, 4, 5). Of these the spec marks as its own decision or knowledge: R60 (D31, general knowledge),
R711 (D31, general knowledge). -/
def Obligations.ResetValues : Prop :=
  let s := State.reset
  (∀ r, s.gpr.get r = 0) ∧ (∀ r, (s.seg.get r).sel = 0 ∧ (s.seg.get r).base = 0) ∧
  s.csD = false ∧ s.ssB = false ∧ s.flags.image = 0x00000002 ∧ s.flags.IF = false ∧ s.eip = 0 ∧
  (∀ c, s.ctl.get c = 0) ∧ (∀ d, s.dbg.get d = 0) ∧ s.pfx = .empty ∧
  (∀ k, s.fpu.reg k = 0x0000000000000000 ∧ s.fpu.used k = false) ∧ s.fpu.FTOP = 0 ∧
  s.fpu.tagWord = 0xFFFF ∧ s.fpu.statusWord = 0x0000 ∧ s.fpu.FCW = 0x037F ∧
  s.mem = [] ∧ s.nextEip = 0 ∧ s.ports = [] ∧ s.bus = [] ∧ s.result = none ∧
  s.Inv ∧ s.RealMode

/-- Every step from a state that meets the invariant ends in one that meets it: the memory keeps its
canonical form, and PrefixState is empty between steps, whatever the instruction (rules R41, R720; the
clauses on memory and `nextEip` are the model's own, log entries 2 and 3). Of these the spec marks as
its own decision or knowledge: R41 (derived). -/
def Obligations.InvKept : Prop := ∀ s t : State, s.Inv → step s = .next t → t.Inv

/-- While `CR0.PE` is 0, every segment base stays 16 times its selector and both hidden size bits stay
0, through every step (rules R27, R28). Of these the spec marks as its own decision or knowledge: R27
(D4, D37, derived), R28 (D4). -/
def Obligations.RealModeKept : Prop :=
  ∀ s t : State, s.RealMode → step s = .next t → t.protectedMode = false → t.RealMode

/-- Only a MOV to a control register changes one, only a MOV to a debug register changes one, only the
loads of a selector change a segment register or a hidden bit, only IN, OUT, INS and OUTS reach the
ports, only FPU instructions change the FPU and they leave the flags, and the flags are changed by no
instruction but those `changesFlags` lists; a byte no write call names keeps its value (rules R27, R28,
R36, R37, R95, R97, R98, R530, R673, R699). The model's own here: an instruction's meaning leaves the
record to the step (log entry 5), and a MOV to CR0 that clears PE leaves a hidden bit CS.D or SS.B that
is 1 so, which R28 leaves open, saying both "Both are 0 in real mode" and "set only by rule R27"
(DESIGN CHOICE, log entry 20). Of these the spec marks as its own decision or knowledge: R27 (D4, D37,
derived), R28 (D4), R36 (D41, general knowledge), R37 (D41, general knowledge), R95 (D48), R97 (general
knowledge), R98 (derived), R530 (D28), R673 (D9, D36), R699 (D12). By the header of its file, the spec
marks "[from general knowledge, not in source]", admitted by decision D1: every encoding and every
layout of 48_fpu_data_control.md. -/
def Obligations.WhoChangesWhat : Prop :=
  ∀ (i : Instr) (s t : State), exec i s = .next t →
    ((∀ c r, i ≠ .mov (.crnR32 c r)) → t.ctl = s.ctl) ∧
    ((∀ d r, i ≠ .mov (.drnR32 d r)) → t.dbg = s.dbg) ∧
    (loadsSelector i = false → SameSegs s t) ∧
    ((∀ f, i ≠ .inp f) → (∀ f, i ≠ .out f) → (∀ f, i ≠ .ins f) → (∀ f, i ≠ .outs f) →
      t.ports = s.ports) ∧
    (isFpu i = false → t.fpu = s.fpu) ∧
    (isFpu i = true → t.flags = s.flags) ∧
    (changesFlags i = false → t.flags = s.flags) ∧
    (∀ p, ¬ WritesByte (s.accessesTo i t) p → t.mem.get p = s.mem.get p) ∧
    t.bus = s.bus

/-- An instruction reads no byte of memory but those its stated calls read: run as a step runs it, with
the result `Retired` until it says otherwise, it ends over a memory that agrees on them in the same
state, and stores the same bytes. With a memory operand every read-modify-write makes one read, then
one write of the same address and width: ADD, OR, ADC, SBB, AND, SUB, XOR, INC, DEC, NEG, NOT and XCHG
in every form with a memory destination, the group-2 shifts, SHLD and SHRD where a step is left (else
the read only), and BTS, BTR and BTC at the word they address; CMP, TEST, BT and the ALU forms with a
register destination make the read only; a store by MOV or SETcc makes the write only (rules R98, R101,
R197, R261, R262, R264, R265, R298, R330, R339 to R343, R380, R390, R391, R396, R671; the field
`result`, from which `accessesTo` tells a delivery, is the model's own, log entries 2 and 5). Of these
the spec marks as its own decision or knowledge: R98 (derived), R197 (general knowledge), R380 (D38),
R390 (D39), R671 (D8, D9, D37, D53). By the header of its file, the spec marks "[from general
knowledge, not in source]", admitted by decision D1: every rule of 42_data_transfer.md and
43_arithmetic_logic.md and 44_shift_rotate_bit.md. -/
def Obligations.OnlyStatedReads : Prop :=
  (∀ (i : Instr) (s t : State) (m : Memory), s.result = some .retired → exec i s = .next t →
    (∀ p, ReadsByte (s.accessesTo i t) p → m.get p = s.mem.get p) →
    ∃ u, exec i { s with mem := m } = .next u ∧ { u with mem := t.mem } = t ∧
      ∀ p, WritesByte (s.accessesTo i t) p → u.mem.get p = t.mem.get p) ∧
  (∀ (s : State) (m : MemOp) (r : Reg) (ib : BitVec 8) (iw : BitVec 32),
    let a := s.memAddr m
    let n : Nat := if s.opsz = .s16 then 2 else 4
    let modifies (i : Instr) (n : Nat) : Prop := s.accesses i = [.read a n, .write a n]
    let reads (i : Instr) (n : Nat) : Prop := s.accesses i = [.read a n]
    let writes (i : Instr) (n : Nat) : Prop := s.accesses i = [.write a n]
    let left (k : ShiftKind) (n : Nat) (count : BitVec 8) : Nat :=
      if k = .rcl ∨ k = .rcr then count.toNat % 32 % (8 * n + 1) else count.toNat % 32
    let modifiesIf (steps : Nat) (i : Instr) (n : Nat) : Prop :=
      if steps = 0 then reads i n else modifies i n
    let cl := s.readReg .w8 .ecx
    (∀ op ∈ [Instr.add, .or, .adc, .sbb, .and, .sub, .xor],
      modifies (op (.rmbRb (.mem m) r)) 1 ∧ modifies (op (.rmwRw (.mem m) r)) n ∧
      modifies (op (.rmbIb (.mem m) ib)) 1 ∧ modifies (op (.rmwIw (.mem m) iw)) n ∧
      modifies (op (.rmwIb (.mem m) ib)) n ∧
      reads (op (.rbRmb r (.mem m))) 1 ∧ reads (op (.rwRmw r (.mem m))) n) ∧
    (∀ op ∈ [Instr.inc, .dec], modifies (op (.rmb (.mem m))) 1 ∧ modifies (op (.rmw (.mem m))) n) ∧
    (∀ op ∈ [Instr.neg, .not], modifies (op (.rmb (.mem m))) 1 ∧ modifies (op (.rmw (.mem m))) n) ∧
    (modifies (.xchg (.rmbRb (.mem m) r)) 1 ∧ modifies (.xchg (.rmwRw (.mem m) r)) n) ∧
    (∀ k,
      modifiesIf (left k 1 ib) (shiftInstr k (.rmbIb (.mem m) ib)) 1 ∧
      modifiesIf (left k n ib) (shiftInstr k (.rmwIb (.mem m) ib)) n ∧
      modifiesIf (left k 1 1) (shiftInstr k (.rmbOne (.mem m))) 1 ∧
      modifiesIf (left k n 1) (shiftInstr k (.rmwOne (.mem m))) n ∧
      modifiesIf (left k 1 cl) (shiftInstr k (.rmbCl (.mem m))) 1 ∧
      modifiesIf (left k n cl) (shiftInstr k (.rmwCl (.mem m))) n) ∧
    (∀ op ∈ [Instr.shld, .shrd],
      modifiesIf (ib.toNat % 32) (op (.ib (.mem m) r ib)) n ∧
      modifiesIf (cl.toNat % 32) (op (.cl (.mem m) r)) n) ∧
    (∀ f, match (s.bitTarget f).1 with
      | .phys b => s.accesses (.bt f) = [.read b n] ∧
          ∀ op ∈ [Instr.bts, .btr, .btc], s.accesses (op f) = [.read b n, .write b n]
      | .reg _ => s.accesses (.bt f) = [] ∧
          ∀ op ∈ [Instr.bts, .btr, .btc], s.accesses (op f) = []) ∧
    (reads (.cmp (.rmbRb (.mem m) r)) 1 ∧ reads (.cmp (.rmwRw (.mem m) r)) n ∧
      reads (.cmp (.rbRmb r (.mem m))) 1 ∧ reads (.cmp (.rwRmw r (.mem m))) n ∧
      reads (.cmp (.rmbIb (.mem m) ib)) 1 ∧ reads (.cmp (.rmwIw (.mem m) iw)) n ∧
      reads (.cmp (.rmwIb (.mem m) ib)) n) ∧
    (reads (.test (.rmbRb (.mem m) r)) 1 ∧ reads (.test (.rmwRw (.mem m) r)) n ∧
      reads (.test (.rmbIb (.mem m) ib)) 1 ∧ reads (.test (.rmwIw (.mem m) iw)) n) ∧
    (writes (.mov (.rmbRb (.mem m) r)) 1 ∧ writes (.mov (.rmwRw (.mem m) r)) n ∧
      writes (.mov (.rmbIb (.mem m) ib)) 1 ∧ writes (.mov (.rmwIw (.mem m) iw)) n ∧
      (∀ sr, writes (.mov (.rmwSreg (.mem m) sr)) 2) ∧
      (∀ off, s.accesses (.mov (.moffsAl off)) = [.write (s.moffsAddr off) 1] ∧
        s.accesses (.mov (.moffsAx off)) = [.write (s.moffsAddr off) n]) ∧
      ∀ cc, writes (setccInstr cc (.mem m)) 1))

/-! ### The flags engine -/

/-- The flags of an addition and of a subtraction, in numbers: CF is the unsigned overflow or borrow,
OF the signed overflow, AF the carry or borrow between bits 3 and 4; ZF, SF and PF are those of the
result; the control flags are unchanged; and what ZF, SF and PF of a result are (rules R220 to R224).
Of these the spec marks as its own decision or knowledge: R223 (general knowledge), R224 (general
knowledge). -/
def Obligations.FlagsAddSub : Prop :=
  ∀ (w : Width) (f : Flags) (a b : BitVec w.bits) (c : Bool),
    (let o := flagsAdd f a b c
     let i := a.toInt + b.toInt + c.toNat
     o.1 = a + b + BitVec.ofNat w.bits c.toNat ∧
     o.2 = { f with
       CF := decide (2 ^ w.bits ≤ a.toNat + b.toNat + c.toNat)
       OF := decide (i < -(2 ^ (w.bits - 1)) ∨ 2 ^ (w.bits - 1) ≤ i)
       AF := decide (16 ≤ a.toNat % 16 + b.toNat % 16 + c.toNat)
       ZF := decide (o.1 = 0)
       SF := o.1.msb
       PF := decide ((o.1.extractLsb' 0 8).cpop.toNat % 2 = 0) }) ∧
    (let o := flagsSub f a b c
     let i := a.toInt - b.toInt - c.toNat
     o.1 = a - b - BitVec.ofNat w.bits c.toNat ∧
     o.2 = { f with
       CF := decide (a.toNat < b.toNat + c.toNat)
       OF := decide (i < -(2 ^ (w.bits - 1)) ∨ 2 ^ (w.bits - 1) ≤ i)
       AF := decide (a.toNat % 16 < b.toNat % 16 + c.toNat)
       ZF := decide (o.1 = 0)
       SF := o.1.msb
       PF := decide ((o.1.extractLsb' 0 8).cpop.toNat % 2 = 0) }) ∧
    (∀ r : BitVec w.bits, f.setSZP r = { f with
      ZF := decide (r = 0), SF := r.msb, PF := decide ((r.extractLsb' 0 8).cpop.toNat % 2 = 0) })

/-- CMP and TEST complete in every form and write the flags only; the two operands of each form of TEST
(those of CMP are in `AluResults`); each of the sixteen conditions on the flags, every odd one being
the negation of the even one before it; after a comparison B and BE are the unsigned orders, L and LE
the signed ones, and Z is equality; SETcc writes 1 or 0 by its condition to a byte register or memory
byte, and nothing else (rules R139, R221, R222, R224, R228, R250, R298, R338, R339). Of these the spec
marks as its own decision or knowledge: R224 (general knowledge), R228 (D7, general knowledge), R250
(general knowledge). By the header of its file, the spec marks "[from general knowledge, not in
source]", admitted by decision D1: every rule of 42_data_transfer.md and 43_arithmetic_logic.md. -/
def Obligations.Compares : Prop :=
  (∀ f : Flags,
    f.cond .o = f.OF ∧ f.cond .no = !f.OF ∧ f.cond .b = f.CF ∧ f.cond .nb = !f.CF ∧
    f.cond .z = f.ZF ∧ f.cond .nz = !f.ZF ∧
    f.cond .be = (f.CF || f.ZF) ∧ f.cond .nbe = (!f.CF && !f.ZF) ∧
    f.cond .s = f.SF ∧ f.cond .ns = !f.SF ∧ f.cond .p = f.PF ∧ f.cond .np = !f.PF ∧
    f.cond .l = (f.SF != f.OF) ∧ f.cond .nl = (f.SF == f.OF) ∧
    f.cond .le = (f.ZF || (f.SF != f.OF)) ∧ f.cond .nle = (!f.ZF && (f.SF == f.OF))) ∧
  (∀ f : Flags, f.cond .no = !f.cond .o ∧ f.cond .nb = !f.cond .b ∧ f.cond .nz = !f.cond .z ∧
    f.cond .nbe = !f.cond .be ∧ f.cond .ns = !f.cond .s ∧ f.cond .np = !f.cond .p ∧
    f.cond .nl = !f.cond .l ∧ f.cond .nle = !f.cond .le) ∧
  (∀ (w : Width) (f : Flags) (a b : BitVec w.bits),
    let g := (flagsSub f a b false).2
    g.cond .b = decide (a.toNat < b.toNat) ∧ g.cond .be = decide (a.toNat ≤ b.toNat) ∧
    g.cond .z = decide (a = b) ∧ g.cond .l = decide (a.toInt < b.toInt) ∧
    g.cond .le = decide (a.toInt ≤ b.toInt)) ∧
  (∀ (f : AluForm) (s : State), let x := s.aluArgs f
    exec (.cmp f) s =
      .next { s with eip := s.nextEip, flags := (flagsSub s.flags x.a x.b false).2 }) ∧
  (∀ (s : State) (rm : RM) (r : Reg) (ib : BitVec 8) (iw : BitVec 32),
    let w := s.opw
    s.testArgs (.rmbRb rm r) = ⟨.w8, rm, s.readRM .w8 rm, s.readReg .w8 r⟩ ∧
    s.testArgs (.rmwRw rm r) = ⟨w, rm, s.readRM w rm, s.readReg w r⟩ ∧
    s.testArgs (.alIb ib) = ⟨.w8, .reg .eax, s.readReg .w8 .eax, ib⟩ ∧
    s.testArgs (.axIw iw) = ⟨w, .reg .eax, s.readReg w .eax, iw.setWidth w.bits⟩ ∧
    s.testArgs (.rmbIb rm ib) = ⟨.w8, rm, s.readRM .w8 rm, ib⟩ ∧
    s.testArgs (.rmwIw rm iw) = ⟨w, rm, s.readRM w rm, iw.setWidth w.bits⟩) ∧
  (∀ (f : TestForm) (s : State), let x := s.testArgs f
    let r := x.a &&& x.b
    exec (.test f) s = .next { s with
      eip := s.nextEip
      flags := { s.flags with
        CF := false
        OF := false
        ZF := decide (r = 0)
        SF := r.msb
        PF := decide ((r.extractLsb' 0 8).cpop.toNat % 2 = 0) } }) ∧
  (∀ (cc : Cond) (rm : RM) (s : State), ∃ t, exec (setccInstr cc rm) s = .next t ∧
    Wrote s t .w8 rm (if s.flags.cond cc then 1 else 0) s.flags)

/-! ### Integer arithmetic and logic -/

/-- ADD, ADC, SUB, SBB, AND, OR and XOR complete in every form: the width, the place of the first
operand and both values are those of the nine encodings (a word immediate of the operand size, a byte
immediate of a word form sign-extended to it); the result goes to the first operand, the flags are
those of the addition or subtraction, and for AND, OR and XOR CF and OF are 0, ZF, SF and PF those of
the result and AF unchanged; everything else is unchanged (rules R138, R139, R221, R222, R228, R330 to
R337). Of these the spec marks as its own decision or knowledge: R228 (D7, general knowledge). By the
header of its file, the spec marks "[from general knowledge, not in source]", admitted by decision D1:
every rule of 43_arithmetic_logic.md. -/
def Obligations.AluResults : Prop :=
  (∀ (s : State) (rm : RM) (r : Reg) (ib : BitVec 8) (iw : BitVec 32),
    let w := s.opw
    s.aluArgs (.rmbRb rm r) = ⟨.w8, rm, s.readRM .w8 rm, s.readReg .w8 r⟩ ∧
    s.aluArgs (.rmwRw rm r) = ⟨w, rm, s.readRM w rm, s.readReg w r⟩ ∧
    s.aluArgs (.rbRmb r rm) = ⟨.w8, .reg r, s.readReg .w8 r, s.readRM .w8 rm⟩ ∧
    s.aluArgs (.rwRmw r rm) = ⟨w, .reg r, s.readReg w r, s.readRM w rm⟩ ∧
    s.aluArgs (.alIb ib) = ⟨.w8, .reg .eax, s.readReg .w8 .eax, ib⟩ ∧
    s.aluArgs (.axIw iw) = ⟨w, .reg .eax, s.readReg w .eax, iw.setWidth w.bits⟩ ∧
    s.aluArgs (.rmbIb rm ib) = ⟨.w8, rm, s.readRM .w8 rm, ib⟩ ∧
    s.aluArgs (.rmwIw rm iw) = ⟨w, rm, s.readRM w rm, iw.setWidth w.bits⟩ ∧
    s.aluArgs (.rmwIb rm ib) = ⟨w, rm, s.readRM w rm, ib.signExtend w.bits⟩) ∧
  ∀ (f : AluForm) (s : State),
    let x := s.aluArgs f
    let logic (r : BitVec x.w.bits) : Flags := { s.flags with
      CF := false
      OF := false
      ZF := decide (r = 0)
      SF := r.msb
      PF := decide ((r.extractLsb' 0 8).cpop.toNat % 2 = 0) }
    let cf := BitVec.ofNat x.w.bits s.flags.CF.toNat
    (∃ t, exec (.add f) s = .next t ∧
      Wrote s t x.w x.dst (x.a + x.b) (flagsAdd s.flags x.a x.b false).2) ∧
    (∃ t, exec (.adc f) s = .next t ∧
      Wrote s t x.w x.dst (x.a + x.b + cf) (flagsAdd s.flags x.a x.b s.flags.CF).2) ∧
    (∃ t, exec (.sub f) s = .next t ∧
      Wrote s t x.w x.dst (x.a - x.b) (flagsSub s.flags x.a x.b false).2) ∧
    (∃ t, exec (.sbb f) s = .next t ∧
      Wrote s t x.w x.dst (x.a - x.b - cf) (flagsSub s.flags x.a x.b s.flags.CF).2) ∧
    (∃ t, exec (.and f) s = .next t ∧
      Wrote s t x.w x.dst (x.a &&& x.b) (logic (x.a &&& x.b))) ∧
    (∃ t, exec (.or f) s = .next t ∧
      Wrote s t x.w x.dst (x.a ||| x.b) (logic (x.a ||| x.b))) ∧
    (∃ t, exec (.xor f) s = .next t ∧
      Wrote s t x.w x.dst (x.a ^^^ x.b) (logic (x.a ^^^ x.b)))

/-- INC and DEC keep CF, NEG has the flags of a subtraction from 0, NOT changes no flag; all complete
in every form; the width and the operand of each of their forms, those of MUL, DIV and IDIV among them
(rules R226, R227, R340 to R344, R348, R349). Of these the spec marks as its own decision or knowledge:
R226 (general knowledge), R227 (general knowledge), R348 (D10). By the header of its file, the spec
marks "[from general knowledge, not in source]", admitted by decision D1: every rule of
43_arithmetic_logic.md. -/
def Obligations.OneOperand : Prop :=
  (∀ (s : State) (rm : RM) (r : Reg),
    s.stepArg (.rw r) = (s.opw, .reg r) ∧ s.stepArg (.rmb rm) = (.w8, rm) ∧
    s.stepArg (.rmw rm) = (s.opw, rm) ∧
    s.unaryArg (.rmb rm) = (.w8, rm) ∧ s.unaryArg (.rmw rm) = (s.opw, rm)) ∧
  (∀ (f : StepForm) (s : State),
    let w := (s.stepArg f).1
    let rm := (s.stepArg f).2
    let a := s.readRM w rm
    (∃ t, exec (.inc f) s = .next t ∧
      Wrote s t w rm (a + 1) { (flagsAdd s.flags a 1 false).2 with CF := s.flags.CF }) ∧
    (∃ t, exec (.dec f) s = .next t ∧
      Wrote s t w rm (a - 1) { (flagsSub s.flags a 1 false).2 with CF := s.flags.CF })) ∧
  (∀ (f : UnaryForm) (s : State),
    let w := (s.unaryArg f).1
    let rm := (s.unaryArg f).2
    let a := s.readRM w rm
    (∃ t, exec (.neg f) s = .next t ∧ Wrote s t w rm (-a) (flagsSub s.flags 0 a false).2) ∧
    (∃ t, exec (.not f) s = .next t ∧ Wrote s t w rm (~~~a) s.flags))

/-- MUL and one-operand IMUL leave the whole product in the double-width accumulator (AX, DX:AX or
EDX:EAX), register IMUL its low half in the register; CF and OF say whether the upper half is
significant, the other flags and everything else are unchanged (rules R229, R344 to R347; the operand
of each form is that of `OneOperand`). Of these the spec marks as its own decision or knowledge: R229
(D7, general knowledge). By the header of its file, the spec marks "[from general knowledge, not in
source]", admitted by decision D1: every rule of 43_arithmetic_logic.md. -/
def Obligations.Multiply : Prop :=
  (∀ s : State, s.dividend .w8 = s.readReg .w16 .eax ∧
    s.dividend .w16 = s.readReg .w16 .edx ++ s.readReg .w16 .eax ∧
    s.dividend .w32 = s.readReg .w32 .edx ++ s.readReg .w32 .eax) ∧
  (∀ (f : UnaryForm) (s : State),
    let w := (s.unaryArg f).1
    let p := (s.readReg w .eax).toNat * (s.readRM w (s.unaryArg f).2).toNat
    ∃ t, exec (.mul f) s = .next t ∧ t.eip = s.nextEip ∧ (t.dividend w).toNat = p ∧
      t.flags = { s.flags with CF := decide (2 ^ w.bits ≤ p), OF := decide (2 ^ w.bits ≤ p) } ∧
      OnlyWide w s t ∧ t.mem = s.mem ∧ SameRest s t) ∧
  (∀ (w : Width) (rm : RM) (f : ImulForm) (s : State),
    (f = .rmb rm ∧ w = .w8 ∨ f = .rmw rm ∧ w = s.opw) →
    let p := (s.readReg w .eax).toInt * (s.readRM w rm).toInt
    let big := decide (p < -(2 ^ (w.bits - 1)) ∨ 2 ^ (w.bits - 1) ≤ p)
    ∃ t, exec (.imul f) s = .next t ∧ t.eip = s.nextEip ∧ (t.dividend w).toInt = p ∧
      t.flags = { s.flags with CF := big, OF := big } ∧
      OnlyWide w s t ∧ t.mem = s.mem ∧ SameRest s t) ∧
  (∀ (f : ImulForm) (r : Reg) (s : State) (a b : BitVec s.opw.bits),
    ((∃ rm, f = .rwRmw r rm ∧ a = s.readReg s.opw r ∧ b = s.readRM s.opw rm) ∨
      (∃ rm imm, f = .rwRmwIw r rm imm ∧ a = s.readRM s.opw rm ∧ b = imm.setWidth s.opw.bits) ∨
      (∃ rm imm, f = .rwRmwIb r rm imm ∧ a = s.readRM s.opw rm ∧
        b = imm.signExtend s.opw.bits)) →
    let p := a.toInt * b.toInt
    let big := decide (p < -(2 ^ (s.opw.bits - 1)) ∨ 2 ^ (s.opw.bits - 1) ≤ p)
    ∃ t, exec (.imul f) s = .next t ∧
      Wrote s t s.opw (.reg r) (a * b) { s.flags with CF := big, OF := big })

/-- DIV and IDIV: where the divisor is not 0 and the quotient fits, dividend = quotient * divisor +
remainder with a remainder smaller than the divisor (of the dividend's sign for IDIV), and no flag and
nothing else changes; elsewhere divide error: vector 0 is delivered with the saved pointer EIP and the
step's result names it, or the step is refused in protected mode (rules R348, R349, R671, R672, R675,
R676, R677; the operand of each form is that of `OneOperand`, the dividend that of `Multiply`; the
field `result` that holds a step's result is the model's own, log entry 2). Of these the spec marks as
its own decision or knowledge: R348 (D10), R671 (D8, D9, D37, D53), R672 (D9, D10, general knowledge),
R676 (D9, D32, general knowledge), R677 (D45). By the header of its file, the spec marks "[from general
knowledge, not in source]", admitted by decision D1: every rule of 43_arithmetic_logic.md. -/
def Obligations.Divide : Prop :=
  let error (i : Instr) (s : State) : Prop :=
    if s.protectedMode then exec i s = .refused .protectedInterrupt
    else ∃ t, deliver 0 s.eip s = .next t ∧ exec i s = .next { t with result := some (.delivered 0) }
  (∀ (f : UnaryForm) (s : State),
    let w := (s.unaryArg f).1
    let n := (s.dividend w).toNat
    let d := (s.readRM w (s.unaryArg f).2).toNat
    (d ≠ 0 → n / d < 2 ^ w.bits →
      ∃ t, exec (.div f) s = .next t ∧ t.eip = s.nextEip ∧ t.flags = s.flags ∧
        (let q := (t.readReg w .eax).toNat
         let r := (t.readReg w (if w = .w8 then .esp else .edx)).toNat
         n = q * d + r ∧ r < d) ∧
        OnlyWide w s t ∧ t.mem = s.mem ∧ SameRest s t) ∧
    (d = 0 ∨ 2 ^ w.bits ≤ n / d → error (.div f) s)) ∧
  (∀ (f : UnaryForm) (s : State),
    let w := (s.unaryArg f).1
    let n := (s.dividend w).toInt
    let d := (s.readRM w (s.unaryArg f).2).toInt
    let fits := -(2 ^ (w.bits - 1)) ≤ n.tdiv d ∧ n.tdiv d < 2 ^ (w.bits - 1)
    (d ≠ 0 → fits →
      ∃ t, exec (.idiv f) s = .next t ∧ t.eip = s.nextEip ∧ t.flags = s.flags ∧
        (let q := (t.readReg w .eax).toInt
         let r := (t.readReg w (if w = .w8 then .esp else .edx)).toInt
         n = q * d + r ∧ r.natAbs < d.natAbs ∧ (r = 0 ∨ (r < 0 ↔ n < 0))) ∧
        OnlyWide w s t ∧ t.mem = s.mem ∧ SameRest s t) ∧
    (d = 0 ∨ ¬ fits → error (.idiv f) s))

/-- The six BCD adjusts: AL, AH and the flags each writes, everything else unchanged; AAM by 0 is a
divide error: vector 0 is delivered with the saved pointer EIP, or the step is refused in protected
mode (rules R350 to R355, R671, R672, R675, R677; the field `result` that holds a step's result is the
model's own, log entry 2). Of these the spec marks as its own decision or knowledge: R352 (D40), R354
(D40), R671 (D8, D9, D37, D53), R672 (D9, D10, general knowledge), R677 (D45). By the header of its
file, the spec marks "[from general knowledge, not in source]", admitted by decision D1: every rule of
43_arithmetic_logic.md. -/
def Obligations.BcdAdjust : Prop :=
  ∀ s : State,
    let al := s.readReg .w8 .eax
    let ah := s.readReg .w8 .esp
    let low := decide (9 < al.toNat % 16) || s.flags.AF
    let high := decide (0x99 < al.toNat) || s.flags.CF
    let lowBorrow := low && (s.flags.CF || decide (al.toNat < 6))
    (let r := al + (if low then 6 else 0) + (if high then 0x60 else 0)
     ∃ t, exec .daa s = .next t ∧
       Wrote s t .w8 (.reg .eax) r { s.flags.setSZP r with AF := low, CF := high }) ∧
    (let r := al - (if low then 6 else 0) - (if high then 0x60 else 0)
     ∃ t, exec .das s = .next t ∧
       Wrote s t .w8 (.reg .eax) r { s.flags.setSZP r with AF := low, CF := lowBorrow || high }) ∧
    (∃ t, exec .aaa s = .next t ∧ t.eip = s.nextEip ∧
      (t.readReg .w8 .eax).toNat = (al.toNat + (if low then 6 else 0)) % 16 ∧
      t.readReg .w8 .esp = (if low then ah + 1 else ah) ∧
      t.flags = { s.flags with AF := low, CF := low } ∧
      OnlyView .w16 .eax s t ∧ t.mem = s.mem ∧ SameRest s t) ∧
    (∃ t, exec .aas s = .next t ∧ t.eip = s.nextEip ∧
      (t.readReg .w8 .eax).toNat = (al.toNat + (if low then 10 else 0)) % 16 ∧
      t.readReg .w8 .esp = (if low then ah - 1 else ah) ∧
      t.flags = { s.flags with AF := low, CF := low } ∧
      OnlyView .w16 .eax s t ∧ t.mem = s.mem ∧ SameRest s t) ∧
    (∀ imm, imm ≠ 0 → ∃ t, exec (.aam imm) s = .next t ∧ t.eip = s.nextEip ∧
      (t.readReg .w8 .eax).toNat = al.toNat % imm.toNat ∧
      (t.readReg .w8 .esp).toNat = al.toNat / imm.toNat ∧
      t.flags = s.flags.setSZP (t.readReg .w8 .eax) ∧
      OnlyView .w16 .eax s t ∧ t.mem = s.mem ∧ SameRest s t) ∧
    (if s.protectedMode then exec (.aam 0) s = .refused .protectedInterrupt
      else ∃ t, deliver 0 s.eip s = .next t ∧
        exec (.aam 0) s = .next { t with result := some (.delivered 0) }) ∧
    (∀ imm, ∃ t, exec (.aad imm) s = .next t ∧ t.eip = s.nextEip ∧
      (t.readReg .w8 .eax).toNat = (al.toNat + ah.toNat * imm.toNat) % 256 ∧
      t.readReg .w8 .esp = 0 ∧
      t.flags = s.flags.setSZP (t.readReg .w8 .eax) ∧
      OnlyView .w16 .eax s t ∧ t.mem = s.mem ∧ SameRest s t)

/-- The adjusts are decimal arithmetic: after the addition of two packed BCD bytes (with a carry), DAA
leaves the decimal sum in AL and its carry in CF, and after the subtraction DAS leaves the decimal
difference and its borrow (rules R223, R224, R350, R351). Of these the spec marks as its own decision
or knowledge: R223 (general knowledge), R224 (general knowledge). By the header of its file, the spec
marks "[from general knowledge, not in source]", admitted by decision D1: every rule of
43_arithmetic_logic.md. -/
def Obligations.DecimalAdjust : Prop :=
  ∀ (s t : State) (a b : BitVec 8) (c : Bool) (f : Flags),
    a.toNat % 16 ≤ 9 → a.toNat / 16 ≤ 9 → b.toNat % 16 ≤ 9 → b.toNat / 16 ≤ 9 →
    let dec (v : BitVec 8) : Nat := 10 * (v.toNat / 16) + v.toNat % 16
    (s.readReg .w8 .eax = (flagsAdd f a b c).1 → s.flags = (flagsAdd f a b c).2 →
      exec .daa s = .next t →
      dec (t.readReg .w8 .eax) = (dec a + dec b + c.toNat) % 100 ∧
      t.flags.CF = decide (100 ≤ dec a + dec b + c.toNat)) ∧
    (s.readReg .w8 .eax = (flagsSub f a b c).1 → s.flags = (flagsSub f a b c).2 →
      exec .das s = .next t →
      dec (t.readReg .w8 .eax) = (dec a + 100 - dec b - c.toNat) % 100 ∧
      t.flags.CF = decide (dec a < dec b + c.toNat))

/-! ### Shifts and bits -/

/-- The closed forms of the group-2 operations for every number of steps from 1 on: the value, CF, OF
(written at one step only, set exactly when the sign changes), SF, ZF, PF, and AF unchanged (rules
R233, R234, R381 to R387). Of these the spec marks as its own decision or knowledge: R233 (general
knowledge), R234 (D20, D38), R381 (derived), R382 (derived), R383 (derived), R384 (derived), R385
(derived), R386 (derived), R387 (derived). By the header of its file, the spec marks "[from general
knowledge, not in source]", admitted by decision D1: every rule of 44_shift_rotate_bit.md. -/
def Obligations.ShiftClosedForms : Prop :=
  ∀ (w : Width) (f : Flags) (a : BitVec w.bits) (c : Nat), 1 ≤ c →
    let n := w.bits
    let ofAt (r : BitVec n) : Bool := if c = 1 then r.msb != a.msb else f.OF
    (let r := a.rotateLeft c
     ShiftKind.rol.out f a c = (r, { f with CF := r.getLsbD 0, OF := ofAt r })) ∧
    (let r := a.rotateRight c
     ShiftKind.ror.out f a c = (r, { f with CF := r.msb, OF := ofAt r })) ∧
    (let r := (BitVec.ofBool f.CF ++ a).rotateLeft c
     ShiftKind.rcl.out f a c =
       (r.extractLsb' 0 n, { f with CF := r.msb, OF := ofAt (r.extractLsb' 0 n) })) ∧
    (let r := (BitVec.ofBool f.CF ++ a).rotateRight c
     ShiftKind.rcr.out f a c =
       (r.extractLsb' 0 n, { f with CF := r.msb, OF := ofAt (r.extractLsb' 0 n) })) ∧
    (let r := a <<< c
     ShiftKind.shl.out f a c =
       (r, { f.setSZP r with CF := decide (c ≤ n) && a.getLsbD (n - c), OF := ofAt r })) ∧
    (let r := a >>> c
     ShiftKind.shr.out f a c = (r, { f.setSZP r with CF := a.getLsbD (c - 1), OF := ofAt r })) ∧
    (let r := a.sshiftRight c
     ShiftKind.sar.out f a c =
       (r, { f.setSZP r with CF := if c < n then a.getLsbD (c - 1) else a.msb, OF := ofAt r }))

/-- The seven group-2 instructions complete in every form: the six encodings give the width, the
operand and the count (an immediate byte, the constant 1, or CL); the count is masked to 5 bits, for
RCL and RCR further reduced modulo the width plus 1; no step left means nothing is written, else the
result and the flags are (rules R230, R231, R380). Of these the spec marks as its own decision or
knowledge: R230 (D32), R231 (D19), R380 (D38). By the header of its file, the spec marks "[from general
knowledge, not in source]", admitted by decision D1: every rule of 44_shift_rotate_bit.md. -/
def Obligations.ShiftsExecute : Prop :=
  (∀ (s : State) (rm : RM) (imm : BitVec 8),
    s.shiftArgs (.rmbOne rm) = (.w8, rm, 1) ∧ s.shiftArgs (.rmwOne rm) = (s.opw, rm, 1) ∧
    s.shiftArgs (.rmbCl rm) = (.w8, rm, s.readReg .w8 .ecx) ∧
    s.shiftArgs (.rmwCl rm) = (s.opw, rm, s.readReg .w8 .ecx) ∧
    s.shiftArgs (.rmbIb rm imm) = (.w8, rm, imm) ∧ s.shiftArgs (.rmwIb rm imm) = (s.opw, rm, imm)) ∧
  ∀ (k : ShiftKind) (f : ShiftForm) (s : State),
    let w := (s.shiftArgs f).1
    let dst := (s.shiftArgs f).2.1
    let masked := (s.shiftArgs f).2.2.toNat % 32
    let n := if k = .rcl ∨ k = .rcr then masked % (w.bits + 1) else masked
    let o := k.out s.flags (s.readRM w dst) n
    (n = 0 → exec (shiftInstr k f) s = .next { s with eip := s.nextEip }) ∧
    (n ≠ 0 → ∃ t, exec (shiftInstr k f) s = .next t ∧ Wrote s t w dst o.1 o.2)

/-- SHLD and SHRD: the operand, the source register and the count (an immediate byte or CL) of both
forms; a masked count of 0 writes nothing; up to the width the destination is shifted and filled from
the register; CF is the last bit shifted out, OF is written at count 1 only, AF never (rules R230,
R390, R391). Of these the spec marks as its own decision or knowledge: R230 (D32), R390 (D39). By the
header of its file, the spec marks "[from general knowledge, not in source]", admitted by decision D1:
every rule of 44_shift_rotate_bit.md. -/
def Obligations.DoubleShifts : Prop :=
  (∀ (s : State) (rm : RM) (r : Reg) (imm : BitVec 8),
    s.doubleShiftArgs (.ib rm r imm) = (rm, r, imm) ∧
    s.doubleShiftArgs (.cl rm r) = (rm, r, s.readReg .w8 .ecx)) ∧
  ∀ (f : DoubleShiftForm) (s : State),
    let w := s.opw
    let n := w.bits
    let dst := (s.doubleShiftArgs f).1
    let a := s.readRM w dst
    let b := s.readReg w (s.doubleShiftArgs f).2.1
    let c := (s.doubleShiftArgs f).2.2.toNat % 32
    let flags (r : BitVec n) (cf : Bool) : Flags :=
      { s.flags.setSZP r with CF := cf, OF := if c = 1 then r.msb != a.msb else s.flags.OF }
    (c = 0 → exec (.shld f) s = .next { s with eip := s.nextEip } ∧
      exec (.shrd f) s = .next { s with eip := s.nextEip }) ∧
    (c ≠ 0 → c ≤ n →
      (∃ t, exec (.shld f) s = .next t ∧
        Wrote s t w dst (a <<< c ||| b >>> (n - c))
          (flags (a <<< c ||| b >>> (n - c)) (a.getLsbD (n - c)))) ∧
      (∃ t, exec (.shrd f) s = .next t ∧
        Wrote s t w dst (a >>> c ||| b <<< (n - c))
          (flags (a >>> c ||| b <<< (n - c)) (a.getLsbD (c - 1))))) ∧
    (n < c →
      (∃ t, exec (.shld f) s = .next t ∧
        Wrote s t w dst (b <<< (c - n) ||| a >>> (2 * n - c))
          (flags (b <<< (c - n) ||| a >>> (2 * n - c)) (b.getLsbD (2 * n - c)))) ∧
      (∃ t, exec (.shrd f) s = .next t ∧
        Wrote s t w dst (b >>> (c - n) ||| a <<< (2 * n - c))
          (flags (b >>> (c - n) ||| a <<< (2 * n - c)) (b.getLsbD (c - n - 1)))))

/-- BT, BTS, BTR and BTC: the bit of a register is the offset modulo the width; a register offset into
memory reaches the word floor(offset / width) words away; CF gets the old bit, BTS, BTR and BTC change
that bit and no other, and nothing else changes. BSF and BSR: a zero source sets ZF and writes nothing
else; otherwise the register gets the number of the lowest or highest set bit and ZF is cleared; no
other flag changes (rules R392 to R398). By the header of its file, the spec marks "[from general
knowledge, not in source]", admitted by decision D1: every rule of 44_shift_rotate_bit.md. -/
def Obligations.BitTests : Prop :=
  (∀ (f : BitForm) (s : State),
    let w := s.opw
    let place := (s.bitTarget f).1
    let bit := (s.bitTarget f).2
    let word := s.readPlace place
    let flags := { s.flags with CF := word.getLsbD bit }
    let only (t : State) (v : BitVec w.bits) : Prop :=
      t.eip = s.nextEip ∧ t.flags = flags ∧ SameRest s t ∧
        match place with
        | .reg r => t.readReg w r = v ∧ OnlyView w r s t ∧ t.mem = s.mem
        | .phys a => t.memRead w a = v ∧ t.gpr = s.gpr ∧ SameMemExcept a w.bytes s t
    (bit < w.bits) ∧
    (match f with
      | .rmwRw (.reg r) q => place = .reg r ∧ bit = (s.readReg w q).toNat % w.bits
      | .rmwIb (.reg r) imm => place = .reg r ∧ bit = imm.toNat % w.bits
      | .rmwIb (.mem m) imm => place = .phys (s.memAddr m) ∧ bit = imm.toNat % w.bits
      | .rmwRw (.mem m) q =>
        ∃ words : Int, (s.readReg w q).toInt = words * w.bits + bit ∧
          place = .phys (s.lin (s.memSeg m) (BitVec.ofInt 32
            (((s.memOffset m).toNat + w.bytes * words) % 2 ^ s.adsz.bits)))) ∧
    exec (.bt f) s = .next { s with eip := s.nextEip, flags := flags } ∧
    (∃ t, exec (.bts f) s = .next t ∧ only t (word ||| 1#_ <<< bit)) ∧
    (∃ t, exec (.btr f) s = .next t ∧ only t (word &&& ~~~(1#_ <<< bit))) ∧
    (∃ t, exec (.btc f) s = .next t ∧ only t (word ^^^ 1#_ <<< bit))) ∧
  (∀ (r : Reg) (rm : RM) (s : State),
    let w := s.opw
    let v := s.readRM w rm
    (v = 0 →
      exec (.bsf r rm) s = .next { s with eip := s.nextEip, flags := { s.flags with ZF := true } } ∧
      exec (.bsr r rm) s = .next { s with eip := s.nextEip, flags := { s.flags with ZF := true } }) ∧
    (v ≠ 0 →
      (∃ t i, exec (.bsf r rm) s = .next t ∧ i < w.bits ∧ v.getLsbD i = true ∧
        (∀ j, j < i → v.getLsbD j = false) ∧
        Wrote s t w (.reg r) (BitVec.ofNat w.bits i) { s.flags with ZF := false }) ∧
      (∃ t i, exec (.bsr r rm) s = .next t ∧ i < w.bits ∧ v.getLsbD i = true ∧
        (∀ j, i < j → v.getLsbD j = false) ∧
        Wrote s t w (.reg r) (BitVec.ofNat w.bits i) { s.flags with ZF := false })))

/-! ### The flags of a result -/

/-- What a result writes to ZF, SF and PF, and to no other flag, and what its parity is: 1 when the
number of 1 bits in its low byte is even, whatever the width (rules R221, R222). -/
def Obligations.ResultFlags : Prop :=
  (∀ (w : Width) (f : Flags) (r : BitVec w.bits),
    f.setSZP r = { f with
      ZF := decide (r.toNat = 0)
      SF := r.getLsbD (w.bits - 1)
      PF := parity r }) ∧
  (∀ (w : Width) (r : BitVec w.bits),
    parity r = decide ((r.extractLsb' 0 8).cpop.toNat ∈ [0, 2, 4, 6, 8])) ∧
  parity 0x00#8 = true ∧ parity 0x01#8 = false ∧ parity 0x03#8 = true ∧ parity 0xFF#8 = true ∧
  parity 0x0100#16 = true

/-! ### Data transfer -/

/-- MOV between registers, memory and immediates, in every form but those of segment registers: the
destination gets the value, no flag and nothing else changes; a direct offset is in DS or the segment
of the override prefix, its address the base plus the offset modulo 2^32; control and debug registers
keep every bit written (rules R28, R36, R88, R189, R199, R261 to R264, R318 to R321). The model's own
here: a MOV to CR0 that clears PE changes CR0 only, so a hidden bit CS.D or SS.B that is 1 stays 1,
which R28 leaves open, saying both "Both are 0 in real mode" and "set only by rule R27" (DESIGN CHOICE,
log entry 20). Of these the spec marks as its own decision or knowledge: R28 (D4), R36 (D41, general
knowledge), R88 (D47), R199 (general knowledge), R27 (D4, D37, derived). By the header of its file, the
spec marks "[from general knowledge, not in source]", admitted by decision D1: every rule of
42_data_transfer.md. -/
def Obligations.Moves : Prop :=
  ∀ s : State,
    let w := s.opw
    let put (f : MovForm) (w : Width) (dst : RM) (v : BitVec w.bits) : Prop :=
      ∃ t, exec (.mov f) s = .next t ∧ Wrote s t w dst v s.flags
    let store (f : MovForm) (w : Width) (a : BitVec 32) (v : BitVec w.bits) : Prop :=
      ∃ t, exec (.mov f) s = .next t ∧ t.eip = s.nextEip ∧ t.memRead w a = v ∧
        t.flags = s.flags ∧ t.gpr = s.gpr ∧ SameMemExcept a w.bytes s t ∧ SameRest s t
    (∀ off, (s.moffsAddr off).toNat =
      ((s.seg.get (s.pfx.seg.getD .ds)).base.toNat + off.toNat) % 2 ^ 32) ∧
    (∀ rm r, put (.rmbRb rm r) .w8 rm (s.readReg .w8 r)) ∧
    (∀ rm r, put (.rmwRw rm r) w rm (s.readReg w r)) ∧
    (∀ rm r, put (.rbRmb r rm) .w8 (.reg r) (s.readRM .w8 rm)) ∧
    (∀ rm r, put (.rwRmw r rm) w (.reg r) (s.readRM w rm)) ∧
    (∀ off, put (.alMoffs off) .w8 (.reg .eax) (s.memRead .w8 (s.moffsAddr off))) ∧
    (∀ off, put (.axMoffs off) w (.reg .eax) (s.memRead w (s.moffsAddr off))) ∧
    (∀ off, store (.moffsAl off) .w8 (s.moffsAddr off) (s.readReg .w8 .eax)) ∧
    (∀ off, store (.moffsAx off) w (s.moffsAddr off) (s.readReg w .eax)) ∧
    (∀ r imm, put (.rbIb r imm) .w8 (.reg r) imm) ∧
    (∀ r imm, put (.rwIw r imm) w (.reg r) (imm.setWidth w.bits)) ∧
    (∀ rm imm, put (.rmbIb rm imm) .w8 rm imm) ∧
    (∀ rm imm, put (.rmwIw rm imm) w rm (imm.setWidth w.bits)) ∧
    (∀ r c, put (.r32Crn r c) .w32 (.reg r) (s.ctl.get c)) ∧
    (∀ r d, put (.r32Drn r d) .w32 (.reg r) (s.dbg.get d)) ∧
    (∀ c r, ∃ u : Ctl, exec (.mov (.crnR32 c r)) s = .next { s with eip := s.nextEip, ctl := u } ∧
      u.get c = s.gpr.get r ∧ ∀ c', c' ≠ c → u.get c' = s.ctl.get c') ∧
    (∀ d r, ∃ u : Dbg, exec (.mov (.drnR32 d r)) s = .next { s with eip := s.nextEip, dbg := u } ∧
      u.get d = s.gpr.get r ∧ ∀ d', d' ≠ d → u.get d' = s.dbg.get d')

/-- Every load of a selector by MOV, POP, LDS, LES, LFS, LGS and LSS stores the selector, its base and,
for CS and SS, the hidden size bit, and no other segment register; they come from 16 times the selector
in real mode and from the descriptor hook in protected mode; a hook that fails refuses the step;
storing a selector writes its 16 bits (rules R27, R37, R265, R266, R276, R284 to R288). Of these the
spec marks as its own decision or knowledge: R27 (D4, D37, derived), R37 (D41, general knowledge). By
the header of its file, the spec marks "[from general knowledge, not in source]", admitted by decision
D1: every rule of 42_data_transfer.md. -/
def Obligations.SegmentLoads : Prop :=
  ∀ s : State,
    let z := s.opsz
    let loaded (i : Instr) (r : SegReg) (sel : BitVec 16) (before : State) : Prop :=
      match segmentFor s r sel with
      | some d => exec i s = .next { before.setSeg r sel d.base d.big with eip := s.nextEip }
      | none => exec i s = .refused .descLookup
    (∀ r sel, segmentFor s r sel =
      if s.ctl.cr0.getLsbD 0 then Config.descLookup r sel
      else some ⟨BitVec.ofNat 32 (16 * sel.toNat), false⟩) ∧
    (∀ r sel base big, let u := s.setSeg r sel base big
      u = { s with
        seg := u.seg
        csD := if r = .cs then big else s.csD
        ssB := if r = .ss then big else s.ssB } ∧
      u.seg.get r = ⟨sel, base⟩ ∧ ∀ q, q ≠ r → u.seg.get q = s.seg.get q) ∧
    (∀ sr rm, loaded (.mov (.sregRmw sr rm)) sr (s.readRM .w16 rm) s) ∧
    (∀ sr, loaded (.pop (.sreg sr)) sr ((s.popValue z).setWidth 16) (s.popped z)) ∧
    (∀ sr i r m, farLoadInstr sr = some i →
      loaded (i r m) sr (s.memRead .w16 (s.memAddr m + BitVec.ofNat 32 z.bytes))
        (s.writeReg s.opw r (s.memRead s.opw (s.memAddr m)))) ∧
    (∀ r sr, ∃ t, exec (.mov (.rmwSreg (.reg r) sr)) s = .next t ∧
      Wrote s t s.opw (.reg r) ((s.sel sr).setWidth s.opw.bits) s.flags) ∧
    (∀ m sr, ∃ t, exec (.mov (.rmwSreg (.mem m) sr)) s = .next t ∧
      Wrote s t .w16 (.mem m) (s.sel sr) s.flags)

/-- XCHG exchanges its operands in every form, the memory operand at the address it had before, and
changes no flag and nothing else (rules R197, R267, R268). Of these the spec marks as its own decision
or knowledge: R197 (general knowledge). By the header of its file, the spec marks "[from general
knowledge, not in source]", admitted by decision D1: every rule of 42_data_transfer.md. -/
def Obligations.Exchange : Prop :=
  ∀ (f : XchgForm) (w : Width) (rm : RM) (r : Reg) (s : State),
    (f = .rmbRb rm r ∧ w = .w8 ∨ f = .rmwRw rm r ∧ w = s.opw ∨
      f = .axRw r ∧ rm = .reg .eax ∧ w = s.opw) →
    ∃ t, exec (.xchg f) s = .next t ∧ t.eip = s.nextEip ∧ t.flags = s.flags ∧ SameRest s t ∧
      t.readReg w r = s.readRM w rm ∧
      match rm with
      | .reg q => t.readReg w q = s.readReg w r ∧ OnlyViews w q w r s t ∧ t.mem = s.mem
      | .mem m => t.memRead w (s.memAddr m) = s.readReg w r ∧ OnlyView w r s t ∧
          SameMemExcept (s.memAddr m) w.bytes s t

/-- The 16-bit effective addresses: the sum of base, index and displacement is modulo 65536 and
zero-extended; a form with BP as a base selects SS and every other one DS; the ModRM byte with mod 0
and rm 6 is a displacement without a base. The 32-bit effective addresses: the sum of base, scaled
index and displacement is modulo 2^32, an index is multiplied by 1, 2, 4 or 8 and ESP is no index, EBP
and ESP as a base select SS and every other form DS. An override wins over both; the physical address
of every form is its segment's base plus its offset, modulo 2^32; and an operand is read from its
register or at that address (rules R88, R181, R182, R183, R185 to R189, R194). Of these the spec marks
as its own decision or knowledge: R88 (D47), R185 (general knowledge), R188 (derived). -/
def Obligations.EffectiveAddresses : Prop :=
  (∀ s : State,
    let r16 (r : Reg) : Nat := (s.readReg .w16 r).toNat
    (∀ b d,
      let base : Nat := match b with
        | .bxsi => r16 .ebx + r16 .esi
        | .bxdi => r16 .ebx + r16 .edi
        | .bpsi => r16 .ebp + r16 .esi
        | .bpdi => r16 .ebp + r16 .edi
        | .si => r16 .esi
        | .di => r16 .edi
        | .bp => r16 .ebp
        | .bx => r16 .ebx
      let disp : Int := match d with
        | .none => 0
        | .d8 v => v.toInt
        | .d16 v => v.toInt
      ((s.memOffset (.based16 b d)).toNat : Int) = (base + disp) % 65536 ∧
      s.memSeg (.based16 b d) =
        s.pfx.seg.getD (if b = .bpsi ∨ b = .bpdi ∨ b = .bp then .ss else .ds)) ∧
    (∀ d, (s.memOffset (.direct16 d)).toNat = d.toNat ∧
      s.memSeg (.direct16 d) = s.pfx.seg.getD .ds)) ∧
  (∀ (z : Size) (lo hi : Byte) (rest : List Byte),
    decode z .s16 (0x8D :: 0x06 :: lo :: hi :: rest) = some (.lea .eax (.direct16 (hi ++ lo)), rest)) ∧
  (∀ s : State,
    let r32 (r : Reg) : Nat := (s.gpr.get r).toNat
    let disp32 (d : Disp32) : Int := match d with
      | .none => 0
      | .d8 v => v.toInt
      | .d32 v => v.toInt
    let times (sc : Scale) : Nat := match sc with
      | .x1 => 1
      | .x2 => 2
      | .x4 => 4
      | .x8 => 8
    let index (sc : Scale) (ix : Reg) : Nat := if ix = .esp then 0 else r32 ix * times sc
    (∀ d, s.memOffset (.direct32 d) = d ∧ s.memSeg (.direct32 d) = s.pfx.seg.getD .ds) ∧
    (∀ b d, ((s.memOffset (.based32 b d)).toNat : Int) = (r32 b + disp32 d) % 2 ^ 32 ∧
      s.memSeg (.based32 b d) = s.pfx.seg.getD (if b = .ebp ∨ b = .esp then .ss else .ds)) ∧
    (∀ sc ix b d,
      ((s.memOffset (.sib sc ix b d)).toNat : Int) = (r32 b + index sc ix + disp32 d) % 2 ^ 32 ∧
      s.memSeg (.sib sc ix b d) = s.pfx.seg.getD (if b = .ebp ∨ b = .esp then .ss else .ds)) ∧
    (∀ sc ix d,
      ((s.memOffset (.sibNoBase sc ix d)).toNat : Int) = (index sc ix + d.toInt) % 2 ^ 32 ∧
      s.memSeg (.sibNoBase sc ix d) = s.pfx.seg.getD .ds) ∧
    (∀ r off, (s.lin r off).toNat = ((s.seg.get r).base.toNat + off.toNat) % 2 ^ 32) ∧
    (∀ m, s.memAddr m = s.lin (s.memSeg m) (s.memOffset m)) ∧
    (∀ w, (∀ r, s.readRM w (.reg r) = s.readReg w r) ∧
      ∀ m, s.readRM w (.mem m) = s.memRead w (s.memAddr m)))

/-! ### Steps that stop -/

/-- The state after a step is its next state, and after a step that ends in a fault or a refusal it is
the state before, with PrefixState empty and the calls made in the record: the fetches, and for a
refusal the operand reads before it. Undecodable bytes have been fetched up to the lookup that finds no
row, at most 15 of them, and the bytes fetched are undecodable whatever bytes follow them; a decodable
instruction has been fetched whole. The operand reads of every instruction that can be refused and
reads memory, in their order (rules R27, R100, R107, R121, R126, R172, R173, R284, R425, R434, R671,
R676). The model's own here: the record, written at the end of a step (log entries 5 and 19), `nextEip`
and `result` (log entry 2), and the three bytes fetched of `0F 20` to `0F 23` with a register number
that has no row (DEDUCED, log entry 19). Of these the spec marks as its own decision or knowledge: R27
(D4, D37, derived), R100 (D32), R107 (D17, D32, D33), R126 (D17, general knowledge), R172 (D1, D8),
R173 (D8), R671 (D8, D9, D37, D53), R676 (D9, D32, general knowledge). By the header of its file, the
spec marks "[from general knowledge, not in source]", admitted by decision D1: every rule of
42_data_transfer.md and 45_control_transfer.md. -/
def Obligations.StoppedSteps : Prop :=
  (∀ s : State,
    let M : Nat := if s.csD then 2 ^ 32 else 2 ^ 16
    let fetch (k : Nat) : BitVec 32 := s.seg.cs.base + BitVec.ofNat 32 ((s.eip.toNat + k) % M)
    let window := (List.range 15).map fun k => s.mem.get (fetch k).toNat
    let fetched (n : Nat) : List BusAccess := (List.range n).map fun k => .read (fetch k) 1
    let stopped (calls : List BusAccess) : State := { s with
      pfx := .empty
      nextEip := 0
      result := none
      bus := calls.reverse ++ s.bus }
    (∀ t, step s = .next t → s.afterStep = t) ∧
    (∀ r, step s = .fault r →
      let k := bytesFetched s.csD window
      s.afterStep = stopped (fetched k) ∧ k ≤ 15 ∧
        ∀ other, decodeAt s.csD (window.take k ++ other) = none) ∧
    (∀ r, step s = .refused r → ∃ d, decodeAt s.csD window = some d ∧
      let u := { s with
        pfx := d.pfx
        result := some .retired
        nextEip := BitVec.ofNat 32 ((s.eip.toNat + d.length) % M) }
      s.afterStep = stopped (fetched d.length ++ u.operandReads d.instr))) ∧
  (∀ (csD : Bool) (bytes : List Byte) (d : Decoded), decodeAt csD bytes = some d →
    bytesFetched csD bytes = d.length) ∧
  (∀ (csD : Bool) (b m : Byte) (rest : List Byte),
    (b ∈ [0x63, 0x82, 0xD6, 0xF1] → bytesFetched csD (b :: rest) = 1) ∧
    (b ∈ [0x8D, 0x62, 0xC4, 0xC5] → 0xC0 ≤ m.toNat → bytesFetched csD (b :: m :: rest) = 2)) ∧
  (∀ (s : State) (m : MemOp) (r : Reg),
    let a := s.memAddr m
    let n : Nat := if s.opsz = .s16 then 2 else 4
    let pair : List BusAccess := [.read a n, .read (a + BitVec.ofNat 32 n) 2]
    let pops (k : Nat) : List BusAccess := (List.range k).map fun j => .read (s.slot s.opsz j) n
    let reads (i : Instr) (calls : List BusAccess) : Prop := s.operandReads i = calls
    (∀ sr, reads (.mov (.sregRmw sr (.mem m))) [.read a 2] ∧ reads (.pop (.sreg sr)) (pops 1)) ∧
    (∀ sr i, farLoadInstr sr = some i → reads (i r m) pair) ∧
    reads (.jmp (.mp m)) pair ∧ reads (.call (.mp m)) pair ∧
    (∀ off sel, reads (.jmp (.pw off sel)) [] ∧ reads (.call (.pw off sel)) []) ∧
    (∀ f, reads (.retf f) (pops 2)) ∧ reads .iret (pops 3) ∧
    (∀ v, reads (.int v) [] ∧ reads (.aam v) []) ∧ reads .int3 [] ∧ reads .into [] ∧
    reads (.bound r m) [.read a n, .read (a + BitVec.ofNat 32 n) n] ∧
    (∀ op ∈ [Instr.div, .idiv],
      reads (op (.rmb (.mem m))) [.read a 1] ∧ reads (op (.rmw (.mem m))) [.read a n]))

/-! ### Register loads and ports -/

/-- NOP, LEA, MOVZX, MOVSX, CBW and CWDE, CWD and CDQ, and XLAT: the register each writes and its
value; no flag and nothing else changes (rules R269, R283, R289 to R293). By the header of its file,
the spec marks "[from general knowledge, not in source]", admitted by decision D1: every rule of
42_data_transfer.md. -/
def Obligations.RegisterLoads : Prop :=
  ∀ s : State,
    let w := s.opw
    let put (i : Instr) (w : Width) (r : Reg) (v : BitVec w.bits) : Prop :=
      ∃ t, exec i s = .next t ∧ Wrote s t w (.reg r) v s.flags
    exec .nop s = .next { s with eip := s.nextEip } ∧
    (∀ r m, put (.lea r m) w r ((s.memOffset m).setWidth w.bits)) ∧
    (∀ r rm, put (.movzx (.rmb r rm)) w r (BitVec.ofNat w.bits (s.readRM .w8 rm).toNat)) ∧
    (∀ r rm, put (.movzx (.rmw16 r rm)) w r (BitVec.ofNat w.bits (s.readRM .w16 rm).toNat)) ∧
    (∀ r rm, put (.movsx (.rmb r rm)) w r (BitVec.ofInt w.bits (s.readRM .w8 rm).toInt)) ∧
    (∀ r rm, put (.movsx (.rmw16 r rm)) w r (BitVec.ofInt w.bits (s.readRM .w16 rm).toInt)) ∧
    (s.opsz = .s16 → put .cbw .w16 .eax (BitVec.ofInt 16 (s.readReg .w8 .eax).toInt)) ∧
    (s.opsz = .s32 → put .cbw .w32 .eax (BitVec.ofInt 32 (s.readReg .w16 .eax).toInt)) ∧
    put .cwd w .edx (if (s.readReg w .eax).toInt < 0 then BitVec.allOnes w.bits else 0) ∧
    (let off : Nat := ((s.readReg s.adsz.width .ebx).toNat + (s.readReg .w8 .eax).toNat) %
       2 ^ s.adsz.bits
     put .xlat .w8 .eax
       (s.memRead .w8 (s.lin (s.pfx.seg.getD .ds) (BitVec.ofNat 32 off))))

/-- IN reads and OUT writes 1, 2 or 4 bytes at consecutive port numbers modulo 2^16, low byte first; IN
writes the accumulator with what the platform answers, and nothing else changes (rules R95, R96, R294
to R297; the port history is the model's own, log entry 4). Of these the spec marks as its own decision
or knowledge: R95 (D48), R96 (D30). By the header of its file, the spec marks "[from general knowledge,
not in source]", admitted by decision D1: every rule of 42_data_transfer.md. -/
def Obligations.PortInOut : Prop :=
  ∀ s : State,
    let w := s.opw
    let readIn (f : InForm) (w : Width) (p : BitVec 16) : Prop :=
      ∃ (t : State) (bytes : List Byte), exec (.inp f) s = .next t ∧ t.eip = s.nextEip ∧ t.flags = s.flags ∧
        bytes.length = w.bytes ∧
        t.ports = (bytes.zipIdx.map fun x => .read (p + BitVec.ofNat 16 x.2) x.1).reverse ++ s.ports ∧
        (∀ k, k < w.bytes → bytes.getD k 0 = Config.readPortByte
          (((bytes.take k).zipIdx.map fun x => .read (p + BitVec.ofNat 16 x.2) x.1).reverse ++ s.ports)
          (p + BitVec.ofNat 16 k)) ∧
        (∀ k, k < w.bytes → (t.readReg w .eax).extractLsb' (8 * k) 8 = bytes.getD k 0) ∧
        OnlyView w .eax s t ∧ t.mem = s.mem ∧ SameSegs s t ∧ t.ctl = s.ctl ∧ t.dbg = s.dbg ∧
        t.pfx = s.pfx ∧ t.fpu = s.fpu ∧ t.nextEip = s.nextEip ∧ t.bus = s.bus ∧ t.result = s.result
    let writeOut (f : OutForm) (w : Width) (p : BitVec 16) : Prop :=
      exec (.out f) s = .next { s with
        eip := s.nextEip
        ports := ((List.range w.bytes).map fun k =>
          .write (p + BitVec.ofNat 16 k) ((s.readReg w .eax).extractLsb' (8 * k) 8)).reverse ++
            s.ports }
    (∀ imm, readIn (.alIb imm) .w8 (imm.setWidth 16)) ∧ (∀ imm, readIn (.axIb imm) w (imm.setWidth 16)) ∧
    readIn .alDx .w8 (s.readReg .w16 .edx) ∧ readIn .axDx w (s.readReg .w16 .edx) ∧
    (∀ imm, writeOut (.ibAl imm) .w8 (imm.setWidth 16)) ∧
    (∀ imm, writeOut (.ibAx imm) w (imm.setWidth 16)) ∧
    writeOut .dxAl .w8 (s.readReg .w16 .edx) ∧ writeOut .dxAx w (s.readReg .w16 .edx)

/-! ### The stack -/

/-- PUSH and PUSHF decrement the stack pointer and store the value there, the value read before the
pointer moves; POP loads the word at the stack pointer, the pointer incremented before the destination
is resolved and written; the stack is in SS at SP or ESP, moved modulo 2^16 or 2^32; a popped selector
loads its segment register, or is refused by the descriptor hook (rules R27, R200, R201, R202, R270 to
R276, R279). Of these the spec marks as its own decision or knowledge: R27 (D4, D37, derived), R200
(D4, D46), R201 (D46, general knowledge), R202 (D46, general knowledge), R270 (D34), R274 (D34), R275
(D34). By the header of its file, the spec marks "[from general knowledge, not in source]", admitted by
decision D1: every rule of 42_data_transfer.md. -/
def Obligations.PushPop : Prop :=
  ∀ s : State,
    let z := s.opsz
    let pushes (i : Instr) (v : BitVec z.bits) : Prop :=
      ∃ t, exec i s = .next t ∧ t.eip = s.nextEip ∧ t.flags = s.flags ∧ SameRest s t ∧ Pushed s t z v
    ((s.stackPtr).toNat = (s.readReg s.stksz.width .esp).toNat ∧
      ∀ k, (s.spUp k).toNat = (s.stackPtr.toNat + k) % 2 ^ s.stksz.bits ∧
        ((s.spDown k).toNat : Int) = ((s.stackPtr.toNat : Int) - k) % 2 ^ s.stksz.bits ∧
        s.slot z k = s.lin .ss (s.spUp (k * z.bytes))) ∧
    (∀ sr, pushes (.push (.sreg sr)) ((s.sel sr).setWidth z.bits)) ∧
    (∀ r, pushes (.push (.rw r)) (s.readReg z.width r)) ∧
    (∀ imm, pushes (.push (.iw imm)) (imm.setWidth z.bits)) ∧
    (∀ imm, pushes (.push (.ib imm)) (imm.signExtend z.bits)) ∧
    (∀ rm, pushes (.push (.rmw rm)) (s.readRM z.width rm)) ∧
    pushes .pushf (s.flags.image.setWidth z.bits) ∧
    (∀ r, ∃ t, exec (.pop (.rw r)) s = .next t ∧ t.eip = s.nextEip ∧ t.flags = s.flags ∧
      t.readReg z.width r = s.memRead z.width (s.slot z 0) ∧
      (r ≠ .esp → t.stackPtr = s.spUp z.bytes) ∧
      OnlyViews z.width r s.stksz.width .esp s t ∧ t.mem = s.mem ∧ SameRest s t) ∧
    (∀ r, ∃ t, exec (.pop (.rmw (.reg r))) s = .next t ∧ t.eip = s.nextEip ∧ t.flags = s.flags ∧
      t.readReg z.width r = s.memRead z.width (s.slot z 0) ∧
      (r ≠ .esp → t.stackPtr = s.spUp z.bytes) ∧
      OnlyViews z.width r s.stksz.width .esp s t ∧ t.mem = s.mem ∧ SameRest s t) ∧
    (∀ m, ∃ t, exec (.pop (.rmw (.mem m))) s = .next t ∧ t.eip = s.nextEip ∧ t.flags = s.flags ∧
      t.stackPtr = s.spUp z.bytes ∧ OnlyView s.stksz.width .esp s t ∧ SameRest s t ∧
      t.memRead z.width (t.memAddr m) = s.memRead z.width (s.slot z 0) ∧
      SameMemExcept (t.memAddr m) z.bytes s t) ∧
    (∀ sr,
      let sel := (s.memRead z.width (s.slot z 0)).setWidth 16
      match segmentFor s sr sel with
      | some d => ∃ t, exec (.pop (.sreg sr)) s = .next t ∧ t.eip = s.nextEip ∧
          t.flags = s.flags ∧ t.seg = s.seg.set sr ⟨sel, d.base⟩ ∧
          t.csD = (if sr = .cs then d.big else s.csD) ∧ t.ssB = (if sr = .ss then d.big else s.ssB) ∧
          t.readIndex s.stksz .esp = s.spUp z.bytes ∧ OnlyView s.stksz.width .esp s t ∧
          t.mem = s.mem ∧ t.fpu = s.fpu ∧ SameSystem s t
      | none => exec (.pop (.sreg sr)) s = .refused .descLookup)

/-- PUSHA stores the eight registers below the stack pointer, the stack pointer's own slot holding its
old value; POPA loads seven of them and discards the eighth; POPA after PUSHA gives back every register
(rules R277, R278). By the header of its file, the spec marks "[from general knowledge, not in
source]", admitted by decision D1: every rule of 42_data_transfer.md. -/
def Obligations.PushAllPopAll : Prop :=
  ∀ s : State,
    let z := s.opsz
    let w := z.width
    (∃ t, exec .pusha s = .next t ∧ t.eip = s.nextEip ∧ t.flags = s.flags ∧ SameRest s t ∧
      PushedSpace s t z 8 ∧
      t.memRead w (t.slot z 7) = s.readReg w .eax ∧ t.memRead w (t.slot z 6) = s.readReg w .ecx ∧
      t.memRead w (t.slot z 5) = s.readReg w .edx ∧ t.memRead w (t.slot z 4) = s.readReg w .ebx ∧
      t.memRead w (t.slot z 3) = s.readReg w .esp ∧ t.memRead w (t.slot z 2) = s.readReg w .ebp ∧
      t.memRead w (t.slot z 1) = s.readReg w .esi ∧ t.memRead w (t.slot z 0) = s.readReg w .edi ∧
      ∃ u, exec .popa t = .next u ∧ u.gpr = s.gpr ∧ u.mem = t.mem) ∧
    (∃ t, exec .popa s = .next t ∧ t.eip = s.nextEip ∧ t.flags = s.flags ∧ SameRest s t ∧
      t.mem = s.mem ∧ t.stackPtr = s.spUp (8 * z.bytes) ∧
      (∀ k, s.stksz.bits ≤ k → t.gpr.esp.getLsbD k = s.gpr.esp.getLsbD k) ∧
      (∀ q k, z.bits ≤ k → q ≠ .esp → (t.gpr.get q).getLsbD k = (s.gpr.get q).getLsbD k) ∧
      t.readReg w .edi = s.memRead w (s.slot z 0) ∧ t.readReg w .esi = s.memRead w (s.slot z 1) ∧
      t.readReg w .ebp = s.memRead w (s.slot z 2) ∧ t.readReg w .ebx = s.memRead w (s.slot z 4) ∧
      t.readReg w .edx = s.memRead w (s.slot z 5) ∧ t.readReg w .ecx = s.memRead w (s.slot z 6) ∧
      t.readReg w .eax = s.memRead w (s.slot z 7))

/-- The image holds every flag at its bit, with bit 1 set and the other reserved bits 0; writing an
image takes the flags from it and ignores the reserved bits, at both widths. POPF takes every flag from
the popped image, LAHF writes AH with the low byte of the image, SAHF takes five flags from AH; nothing
else changes (rules R30, R33, R280 to R282). Of these the spec marks as its own decision or knowledge:
R30 (D6, general knowledge), R33 (D6, general knowledge). By the header of its file, the spec marks
"[from general knowledge, not in source]", admitted by decision D1: every rule of
42_data_transfer.md. -/
def Obligations.FlagWords : Prop :=
  (∀ f : Flags, Flags.ofImage f.image = f) ∧
  (∀ v : BitVec 32, (Flags.ofImage v).image = v &&& 0x7FD5 ||| 0x0002) ∧
  (∀ v : BitVec 16, (Flags.ofImage v).image = v.setWidth 32 &&& 0x7FD5 ||| 0x0002) ∧
  (∀ f : Flags, f.image.getLsbD 0 = f.CF ∧ f.image.getLsbD 2 = f.PF ∧ f.image.getLsbD 4 = f.AF ∧
    f.image.getLsbD 6 = f.ZF ∧ f.image.getLsbD 7 = f.SF ∧ f.image.getLsbD 8 = f.TF ∧
    f.image.getLsbD 9 = f.IF ∧ f.image.getLsbD 10 = f.DF ∧ f.image.getLsbD 11 = f.OF ∧
    f.image.extractLsb' 12 2 = f.IOPL ∧ f.image.getLsbD 14 = f.NT) ∧
  (∀ s : State,
      let z := s.opsz
      (∃ t, exec .popf s = .next t ∧ t.eip = s.nextEip ∧ t.stackPtr = s.spUp z.bytes ∧
        t.flags = .ofImage (s.memRead z.width (s.slot z 0)) ∧
        OnlyView s.stksz.width .esp s t ∧ t.mem = s.mem ∧ SameRest s t) ∧
      (∃ t, exec .lahf s = .next t ∧
        Wrote s t .w8 (.reg .esp) (s.flags.image.setWidth 8) s.flags) ∧
      (let ah := s.readReg .w8 .esp
       exec .sahf s = .next { s with
         eip := s.nextEip
         flags := { s.flags with
           SF := ah.getLsbD 7, ZF := ah.getLsbD 6, AF := ah.getLsbD 4, PF := ah.getLsbD 2,
           CF := ah.getLsbD 0 } }))

/-- ENTER pushes the frame pointer, and for a level copies that many less one words from below the
frame the old frame pointer names and pushes the new frame pointer; it sets the frame pointer to where
the first push left the stack pointer, and reserves its size; LEAVE goes back to the frame pointer and
pops it; where operand and stack sizes agree, LEAVE after ENTER restores every register (rules R444,
R445; an opsz of 32 over a 16-bit stack takes the frame zero-extended, log entry 12). By the header of
its file, the spec marks "[from general knowledge, not in source]", admitted by decision D1: every rule
of 45_control_transfer.md. -/
def Obligations.EnterLeave : Prop :=
  ∀ s : State,
    let z := s.opsz
    let w := z.width
    (∀ size level, ∃ t, exec (.enter size level) s = .next t ∧ t.eip = s.nextEip ∧
      t.flags = s.flags ∧ SameRest s t ∧
      (let depth := level.toNat % 32
       let words := depth + 1
       let pushedAt (k : Nat) : BitVec 32 := s.lin .ss (s.spDown (k * z.bytes))
       let frameAt (k : Nat) : BitVec 32 :=
         s.lin .ss (s.wrapSP (s.readIndex s.stksz .ebp - BitVec.ofNat 32 (k * z.bytes)))
       let frame := (s.spDown z.bytes).setWidth w.bits
       let stored (m : Memory) (k : Nat) (v : BitVec w.bits) : Memory :=
         (State.memWrite { s with mem := m } w (pushedAt k) v).mem
       t.stackPtr = s.spDown (words * z.bytes + size.toNat) ∧
       t.readReg w .ebp = frame ∧
       t.memRead w (pushedAt 1) = s.readReg w .ebp ∧
       (∀ q, q ≠ .esp → q ≠ .ebp → t.gpr.get q = s.gpr.get q) ∧
       (∀ p, (∀ k, 1 ≤ k → k ≤ words → ¬ InSpan (pushedAt k) z.bytes p) →
         t.mem.get p = s.mem.get p) ∧
       ∃ copied : Nat → Memory,
         copied 0 = stored s.mem 1 (s.readReg w .ebp) ∧
         (∀ k, k + 1 < depth → copied (k + 1) =
           stored (copied k) (k + 2) (State.memRead { s with mem := copied k } w (frameAt (k + 1)))) ∧
         (depth = 0 → t.mem = copied 0) ∧
         (depth ≠ 0 → t.mem = stored (copied (depth - 1)) words frame)) ∧
      (s.opsz = s.stksz →
        ∃ u, exec .leave t = .next u ∧ u.gpr = s.gpr ∧ u.mem = t.mem)) ∧
    (∃ t, exec .leave s = .next t ∧ t.eip = s.nextEip ∧ t.flags = s.flags ∧ SameRest s t ∧
      t.mem = s.mem ∧
      (let frame := s.readIndex s.stksz .ebp
       t.readReg w .ebp = s.memRead w (s.lin .ss frame) ∧
       t.stackPtr = s.wrapSP (frame + BitVec.ofNat 32 z.bytes) ∧
       OnlyViews w .ebp s.stksz.width .esp s t))

/-! ### Control transfer -/

/-- The near targets: a relative jump goes to `NextEIP` plus the displacement, cut to 16 bits under a
16-bit operand size; an indirect one to its operand; every conditional jump, JCXZ, LOOP, LOOPE and
LOOPNE goes there or to `NextEIP` by its condition; far jumps load CS; no flag changes, and no register
but the count of the loops (rules R420 to R431). By the header of its file, the spec marks "[from
general knowledge, not in source]", admitted by decision D1: every rule of 45_control_transfer.md. -/
def Obligations.Jumps : Prop :=
  ∀ s : State,
    let target (rel : Int) : BitVec 32 :=
      BitVec.ofInt 32 ((s.nextEip.toNat + rel) % (if s.opsz = .s16 then 2 ^ 16 else 2 ^ 32))
    let branch (i : Instr) (c : Bool) (rel : Int) (t : State) : Prop :=
      exec i s = .next { t with eip := if c then target rel else s.nextEip }
    let counted : State := s.writeIndex s.adsz .ecx (s.readIndex s.adsz .ecx - 1)
    let cx : Nat := (s.readIndex s.adsz .ecx).toNat
    let far (i : Instr) (sel : BitVec 16) (off : BitVec 32) : Prop :=
      match segmentFor s .cs sel with
      | some d => exec i s = .next { s.setSeg .cs sel d.base d.big with eip := off }
      | none => exec i s = .refused .descLookup
    (∀ rel, branch (.jmp (.jb rel)) true rel.toInt s) ∧
    (∀ rel, branch (.jmp (.jw rel)) true rel.toInt s) ∧
    (∀ rm, exec (.jmp (.rmw rm)) s =
      .next { s with eip := BitVec.ofNat 32 (s.readRM s.opw rm).toNat }) ∧
    (∀ off sel, far (.jmp (.pw off sel)) sel ((off.setWidth s.opsz.bits).setWidth 32)) ∧
    (∀ m, far (.jmp (.mp m)) (s.memRead .w16 (s.memAddr m + BitVec.ofNat 32 s.opsz.bytes))
      ((s.memRead s.opw (s.memAddr m)).setWidth 32)) ∧
    (∀ cc rel, branch (jccInstr cc (.jb rel)) (s.flags.cond cc) rel.toInt s) ∧
    (∀ cc rel, branch (jccInstr cc (.jw rel)) (s.flags.cond cc) rel.toInt s) ∧
    (∀ rel, branch (.jcxz rel) (decide (cx = 0)) rel.toInt s) ∧
    (∀ rel, branch (.loop rel) (decide (cx ≠ 1)) rel.toInt counted) ∧
    (∀ rel, branch (.loope rel) (decide (cx ≠ 1) && s.flags.ZF) rel.toInt counted) ∧
    (∀ rel, branch (.loopne rel) (decide (cx ≠ 1) && !s.flags.ZF) rel.toInt counted)

/-- Calls push the return offset (a far call CS first) and go to their target; returns pop the offset
(a far return CS too), release their count, and go there; far forms load CS from 16 times the selector
in real mode and from the descriptor hook in protected mode, whose failure refuses the step (rules R27,
R420, R432 to R439). Of these the spec marks as its own decision or knowledge: R27 (D4, D37, derived).
By the header of its file, the spec marks "[from general knowledge, not in source]", admitted by
decision D1: every rule of 45_control_transfer.md. -/
def Obligations.CallsReturns : Prop :=
  ∀ s : State,
    let z := s.opsz
    let w := z.width
    let near (i : Instr) (target : BitVec 32) : Prop :=
      ∃ t, exec i s = .next t ∧ t.eip = target ∧ t.flags = s.flags ∧ SameRest s t ∧
        Pushed s t z (s.nextEip.setWidth z.bits)
    let farCallTo (i : Instr) (sel : BitVec 16) (off : BitVec 32) : Prop :=
      match segmentFor s .cs sel with
      | some d =>
        ∃ t, exec i s = .next t ∧ t.eip = off ∧ t.flags = s.flags ∧ t.fpu = s.fpu ∧ SameSystem s t ∧
          t.seg = s.seg.set .cs ⟨sel, d.base⟩ ∧ t.csD = d.big ∧ t.ssB = s.ssB ∧
          PushedSpace s t z 2 ∧
          t.memRead w (t.slot z 0) = s.nextEip.setWidth z.bits ∧
          t.memRead w (t.slot z 1) = (s.sel .cs).setWidth z.bits
      | none => exec i s = .refused .descLookup
    let returned (t : State) (bytes : Nat) : Prop :=
      t.eip = (s.memRead w (s.slot z 0)).setWidth 32 ∧ t.flags = s.flags ∧ t.fpu = s.fpu ∧
        t.mem = s.mem ∧ SameSystem s t ∧ t.ssB = s.ssB ∧ t.stackPtr = s.spUp bytes ∧
        OnlyView s.stksz.width .esp s t
    let farRet (f : RetForm) (count : BitVec 16) : Prop :=
      let sel := (s.memRead w (s.slot z 1)).setWidth 16
      match segmentFor s .cs sel with
      | some d => ∃ t, exec (.retf f) s = .next t ∧ returned t (2 * z.bytes + count.toNat) ∧
          t.seg = s.seg.set .cs ⟨sel, d.base⟩ ∧ t.csD = d.big
      | none => exec (.retf f) s = .refused .descLookup
    (∀ rel, near (.call (.jw rel)) (s.nearTarget rel)) ∧
    (∀ rm, near (.call (.rmw rm)) ((s.readRM w rm).setWidth 32)) ∧
    (∀ off sel, farCallTo (.call (.pw off sel)) sel ((off.setWidth z.bits).setWidth 32)) ∧
    (∀ m, farCallTo (.call (.mp m)) (s.memRead .w16 (s.memAddr m + BitVec.ofNat 32 z.bytes))
      ((s.memRead w (s.memAddr m)).setWidth 32)) ∧
    (∃ t, exec (.ret .plain) s = .next t ∧ returned t z.bytes ∧ SameSegs s t) ∧
    (∀ count, ∃ t, exec (.ret (.iw count)) s = .next t ∧
      returned t (z.bytes + count.toNat) ∧ SameSegs s t) ∧
    farRet .plain 0 ∧ (∀ count, farRet (.iw count) count)

/-- Delivery of vector `v` in real mode: the flags, CS and the saved instruction pointer are pushed as
three words, IF and TF are cleared, and CS:EIP come from the vector's entry at physical `4*v`; nothing
else changes. In protected mode it is refused (rules R676, R678). Of these the spec marks as its own
decision or knowledge: R676 (D9, D32, general knowledge), R678 (D9). -/
def Obligations.Delivery : Prop :=
  ∀ (v : BitVec 8) (ip : BitVec 32) (s : State),
    (s.protectedMode = true → deliver v ip s = .refused .protectedInterrupt) ∧
    (s.protectedMode = false → ∃ t, deliver v ip s = .next t ∧
      PushedSpace s t .s16 3 ∧
      t.memRead .w16 (t.slot .s16 2) = s.flags.image.setWidth 16 ∧
      t.memRead .w16 (t.slot .s16 1) = s.sel .cs ∧
      t.memRead .w16 (t.slot .s16 0) = ip.setWidth 16 ∧
      t.flags = { s.flags with IF := false, TF := false } ∧
      (let entry := BitVec.ofNat 32 (4 * v.toNat)
       let sel := t.memRead .w16 (entry + 2)
       t.eip = (t.memRead .w16 entry).setWidth 32 ∧
       t.seg = s.seg.set .cs ⟨sel, BitVec.ofNat 32 (16 * sel.toNat)⟩ ∧ t.csD = false ∧
       t.ssB = s.ssB) ∧
      t.fpu = s.fpu ∧ SameSystem s t)

/-- INT3, INT n and INTO with OF set deliver vectors 3, n and 4 as traps, saving `NextEIP`; BOUND with
the index outside its bounds delivers vector 5 as a fault, saving EIP; the step's result names the
vector. INTO with OF clear and BOUND with the index inside only move on (rules R440 to R442, R446,
R671, R672, R677; the field `result` that holds a step's result is the model's own, log entry 2). Of
these the spec marks as its own decision or knowledge: R671 (D8, D9, D37, D53), R672 (D9, D10, general
knowledge), R677 (D45). By the header of its file, the spec marks "[from general knowledge, not in
source]", admitted by decision D1: every rule of 45_control_transfer.md. -/
def Obligations.SoftwareInterrupts : Prop :=
  ∀ s : State,
    let delivers (i : Instr) (v : BitVec 8) (ip : BitVec 32) : Prop :=
      if s.protectedMode then exec i s = .refused .protectedInterrupt
      else ∃ t, deliver v ip s = .next t ∧ exec i s = .next { t with result := some (.delivered v) }
    delivers .int3 3 s.nextEip ∧ (∀ n, delivers (.int n) n s.nextEip) ∧
    (s.flags.OF = true → delivers .into 4 s.nextEip) ∧
    (s.flags.OF = false → exec .into s = .next { s with eip := s.nextEip }) ∧
    (∀ r m,
      let lo := (s.memRead s.opw (s.memAddr m)).toInt
      let hi := (s.memRead s.opw (s.memAddr m + BitVec.ofNat 32 s.opsz.bytes)).toInt
      let i := (s.readReg s.opw r).toInt
      (lo ≤ i ∧ i ≤ hi → exec (.bound r m) s = .next { s with eip := s.nextEip }) ∧
      (i < lo ∨ hi < i → delivers (.bound r m) 5 s.eip))

/-- IRET pops the offset, CS and the flags image, CS from 16 times the selector in real mode and from
the descriptor hook in protected mode, whose failure refuses the step; and in real mode a software
interrupt followed by IRET in the delivered state resumes after the interrupt with the flags, CS and
every general register as they were (rules R27, R443, R676, R681). Of these the spec marks as its own
decision or knowledge: R27 (D4, D37, derived), R443 (D36), R676 (D9, D32, general knowledge), R681
(general knowledge). By the header of its file, the spec marks "[from general knowledge, not in
source]", admitted by decision D1: every rule of 45_control_transfer.md. -/
def Obligations.InterruptReturn : Prop :=
  (∀ s : State,
    let z := s.opsz
    let w := z.width
    let sel := (s.memRead w (s.slot z 1)).setWidth 16
    match segmentFor s .cs sel with
    | some d => ∃ t, exec .iret s = .next t ∧ t.eip = (s.memRead w (s.slot z 0)).setWidth 32 ∧
        t.seg = s.seg.set .cs ⟨sel, d.base⟩ ∧ t.csD = d.big ∧
        t.ssB = s.ssB ∧ t.flags = .ofImage (s.memRead w (s.slot z 2)) ∧
        t.stackPtr = s.spUp (3 * z.bytes) ∧ OnlyView s.stksz.width .esp s t ∧ t.mem = s.mem ∧
        t.fpu = s.fpu ∧ SameSystem s t
    | none => exec .iret s = .refused .descLookup) ∧
  (∀ (n : BitVec 8) (s t : State), s.RealMode → exec (.int n) s = .next t →
    ∃ u, exec .iret { t with pfx := .empty } = .next u ∧
      u.eip = (s.nextEip.setWidth 16).setWidth 32 ∧ u.flags = s.flags ∧ u.seg = s.seg ∧
      u.csD = s.csD ∧ u.gpr = s.gpr ∧ u.mem = t.mem)

/-! ### Strings -/

/-! ### Strings -/

/-- One element of each string instruction without a repeat prefix: what is moved, stored, loaded,
compared or passed to a port, and the indexes moved by the element's size, up or down by DF, in their
own width; nothing else changes (rules R470, R471, R474 to R480; the port history is the model's own,
log entry 4). Of these the spec marks as its own decision or knowledge: R470 (general knowledge), R471
(general knowledge), R474 (general knowledge), R475 (general knowledge), R476 (general knowledge), R477
(general knowledge), R478 (general knowledge), R479 (general knowledge), R480 (general knowledge). -/
def Obligations.StringElements : Prop :=
  ∀ (f : StringForm) (s : State), s.pfx.rep = .none →
    let w : Width := match f with
      | .b => .w8
      | .w => s.opw
    let src := s.lin (s.pfx.seg.getD .ds) (s.readIndex s.adsz .esi)
    let dst := s.lin .es (s.readIndex s.adsz .edi)
    let moved (r : Reg) : BitVec 32 :=
      BitVec.ofInt 32 (((s.readIndex s.adsz r).toNat +
        (if s.flags.DF then -(w.bytes : Int) else w.bytes)) % 2 ^ s.adsz.bits)
    let iw := s.adsz.width
    (∃ t, exec (.movs f) s = .next t ∧ t.eip = s.nextEip ∧ t.flags = s.flags ∧ SameRest s t ∧
      t.memRead w dst = s.memRead w src ∧ SameMemExcept dst w.bytes s t ∧
      t.readIndex s.adsz .esi = moved .esi ∧ t.readIndex s.adsz .edi = moved .edi ∧
      OnlyViews iw .esi iw .edi s t) ∧
    (∃ t, exec (.cmps f) s = .next t ∧ t.eip = s.nextEip ∧ SameRest s t ∧ t.mem = s.mem ∧
      t.flags = (flagsSub s.flags (s.memRead w src) (s.memRead w dst) false).2 ∧
      t.readIndex s.adsz .esi = moved .esi ∧ t.readIndex s.adsz .edi = moved .edi ∧
      OnlyViews iw .esi iw .edi s t) ∧
    (∃ t, exec (.scas f) s = .next t ∧ t.eip = s.nextEip ∧ SameRest s t ∧ t.mem = s.mem ∧
      t.flags = (flagsSub s.flags (s.readReg w .eax) (s.memRead w dst) false).2 ∧
      t.readIndex s.adsz .edi = moved .edi ∧ OnlyView iw .edi s t) ∧
    (∃ t, exec (.stos f) s = .next t ∧ t.eip = s.nextEip ∧ t.flags = s.flags ∧ SameRest s t ∧
      t.memRead w dst = s.readReg w .eax ∧ SameMemExcept dst w.bytes s t ∧
      t.readIndex s.adsz .edi = moved .edi ∧ OnlyView iw .edi s t) ∧
    (∃ t, exec (.lods f) s = .next t ∧ t.eip = s.nextEip ∧ t.flags = s.flags ∧ SameRest s t ∧
      t.mem = s.mem ∧ t.readReg w .eax = s.memRead w src ∧
      t.readIndex s.adsz .esi = moved .esi ∧ OnlyViews w .eax iw .esi s t) ∧
    (∃ t, exec (.ins f) s = .next t ∧ t.eip = s.nextEip ∧ t.flags = s.flags ∧ SameSegs s t ∧
      t.fpu = s.fpu ∧ t.ctl = s.ctl ∧ t.dbg = s.dbg ∧ t.pfx = s.pfx ∧ t.nextEip = s.nextEip ∧
      t.bus = s.bus ∧ t.result = s.result ∧
      t.ports = (s.portRead w (s.readReg .w16 .edx)).2.ports ∧
      t.memRead w dst = (s.portRead w (s.readReg .w16 .edx)).1 ∧
      SameMemExcept dst w.bytes s t ∧
      t.readIndex s.adsz .edi = moved .edi ∧ OnlyView iw .edi s t) ∧
    (∃ t, exec (.outs f) s = .next t ∧ t.eip = s.nextEip ∧ t.flags = s.flags ∧ SameSegs s t ∧
      t.fpu = s.fpu ∧ t.ctl = s.ctl ∧ t.dbg = s.dbg ∧ t.pfx = s.pfx ∧ t.nextEip = s.nextEip ∧
      t.bus = s.bus ∧ t.result = s.result ∧ t.mem = s.mem ∧
      t.ports = (s.portWrite w (s.readReg .w16 .edx) (s.memRead w src)).ports ∧
      t.readIndex s.adsz .esi = moved .esi ∧ OnlyView iw .esi s t)

/-- Under a repeat prefix one execution does nothing but move on when the count is 0; otherwise it runs
one element as without the prefix, decrements the count without touching a flag, and goes back to EIP
while the count is not 0 and, for CMPS and SCAS, ZF is 1 (REPE) or 0 (REPNE) after the element (rules
R472, R473). Of these the spec marks as its own decision or knowledge: R472 (D14, D55, general
knowledge), R473 (D15, general knowledge). -/
def Obligations.RepeatStep : Prop :=
  ∀ (i : Instr) (f : StringForm) (s t : State),
    i = .movs f ∨ i = .cmps f ∨ i = .scas f ∨ i = .stos f ∨ i = .lods f ∨ i = .ins f ∨ i = .outs f →
    s.pfx.rep ≠ .none →
    (s.count = 0 → exec i s = .next { s with eip := s.nextEip }) ∧
    (s.count ≠ 0 → exec i { s with pfx := { s.pfx with rep := .none } } = .next t →
      let counted := { t.writeIndex s.adsz .ecx (t.readIndex s.adsz .ecx - 1) with pfx := s.pfx }
      let compares := i = .cmps f ∨ i = .scas f
      let again := s.count ≠ 1 ∧ (compares → t.flags.ZF = decide (s.pfx.rep = .rep))
      (again → exec i s = .next { counted with eip := s.eip }) ∧
      (¬ again → exec i s = .next { counted with eip := s.nextEip }))

/-- A repeated MOVS, STOS or LODS with count N at least 1 takes exactly N executions: after each of the
first N - 1 EIP is back at the instruction and the count is what is left, and the last leaves the count
0, EIP past the instruction, and the indexes offset by N elements (rule R482). -/
def Obligations.RepeatRuns : Prop :=
  ∀ (f : StringForm) (i : Instr) (s : State),
    i = .movs f ∨ i = .stos f ∨ i = .lods f → s.pfx.rep ≠ .none → s.count ≠ 0 →
    let n := s.count.toNat
    let bytes : Int := if s.flags.DF then -(s.elementWidth f).bytes else (s.elementWidth f).bytes
    let offset (r : Reg) : BitVec 32 :=
      BitVec.ofInt 32 (((s.readIndex s.adsz r).toNat + n * bytes) % 2 ^ s.adsz.bits)
    (∀ k, 1 ≤ k → k < n → ∃ u, execTimes i k s = .next u ∧ u.eip = s.eip ∧
      u.count.toNat = n - k) ∧
    (∃ u, execTimes i n s = .next u ∧ u.eip = s.nextEip ∧ u.count = 0 ∧ u.flags = s.flags ∧
      u.readIndex s.adsz .esi =
        (if i = .stos f then s.readIndex s.adsz .esi else offset .esi) ∧
      u.readIndex s.adsz .edi =
        (if i = .lods f then s.readIndex s.adsz .edi else offset .edi))

/-! ### Processor control -/

/-- CLC, STC, CMC, CLD and STD: one byte each, the one flag each writes, nothing else (rules R500 to
R504). By the header of its file, the spec marks "[from general knowledge, not in source]", admitted by
decision D1: the mnemonics and byte values of every rule of 47_processor_control.md. -/
def Obligations.FlagInstructions : Prop :=
  ∀ s : State,
    let flags (f : Flags) : Result := .next { s with eip := s.nextEip, flags := f }
    (exec .clc s = flags { s.flags with CF := false } ∧
     exec .stc s = flags { s.flags with CF := true } ∧
     exec .cmc s = flags { s.flags with CF := !s.flags.CF } ∧
     exec .cld s = flags { s.flags with DF := false } ∧
     exec .std s = flags { s.flags with DF := true }) ∧
    (∀ z a rest,
      decode z a (0xF8 :: rest) = some (.clc, rest) ∧ decode z a (0xF9 :: rest) = some (.stc, rest) ∧
      decode z a (0xF5 :: rest) = some (.cmc, rest) ∧ decode z a (0xFC :: rest) = some (.cld, rest) ∧
      decode z a (0xFD :: rest) = some (.std, rest))

/-- CLI and STI write IF and nothing else, WAIT does nothing, HLT moves past itself and halts. The
host's interrupt is delivered with the current EIP when IF is set and otherwise leaves the block alone;
the non-maskable one is vector 2 whatever IF is; reset keeps nothing of the block's state; what the
host sets through the register port it gets back: a general register through the view of its width and
code, no other bit of the general registers and nothing else changed; a selector, stored with its base
and hidden bit, or refused by the descriptor hook; EIP, a control or debug register, an FPU slot and
the control word whole; the flags, the status word and the tag word through their masks (rules R22,
R23, R27, R33, R51, R53, R505 to R508, R690, R691, R710). The model's own choices here: the memory, the
port history and the record of calls are the platform's and survive a reset (log entries 4, 5 and 15),
`nextEip` and `result` are set to their values of log entry 2, the values of the reset are those of log
entry 13, and the calls of a delivery are recorded (log entry 5). Of these the spec marks as its own
decision or knowledge: R22 (derived), R23 (D54), R27 (D4, D37, derived), R33 (D6, general knowledge),
R51 (D24, general knowledge), R53 (D25, general knowledge), R506 (D44), R507 (D13), R508 (D51), R690
(D11), R691 (D11), R710 (D31). By the header of its file, the spec marks "[from general knowledge, not
in source]", admitted by decision D1: the mnemonics and byte values of every rule of
47_processor_control.md. -/
def Obligations.ProcessorAndHost : Prop :=
  ∀ (v : BitVec 8) (s t : State),
    let entry (v : BitVec 8) : BitVec 32 := BitVec.ofNat 32 (4 * v.toNat)
    let recorded (v : BitVec 8) : State := { t with
      bus := [.read (entry v + 2) 2, .read (entry v) 2, .write (t.slot .s16 0) 2,
        .write (t.slot .s16 1) 2, .write (t.slot .s16 2) 2] ++ t.bus }
    exec .cli s = .next { s with eip := s.nextEip, flags := { s.flags with IF := false } } ∧
    exec .sti s = .next { s with eip := s.nextEip, flags := { s.flags with IF := true } } ∧
    exec .wait s = .next { s with eip := s.nextEip } ∧
    exec .hlt s = .next { s with eip := s.nextEip, result := some .halted } ∧
    (s.flags.IF = false → hostInterrupt v s = .masked) ∧
    (s.flags.IF = true → deliver v s.eip s = .next t → hostInterrupt v s = .accepted (recorded v)) ∧
    (deliver 2 s.eip s = .next t → hostNmi s = .accepted (recorded 2)) ∧
    (s.protectedMode = true → hostNmi s = .refused .protectedInterrupt ∧
      (s.flags.IF = true → hostInterrupt v s = .refused .protectedInterrupt)) ∧
    (hostReset s = { State.reset with mem := s.mem, ports := s.ports, bus := s.bus }) ∧
    (∀ (w : Width) (r : Reg) (x : BitVec w.bits), let u := hostSetReg s w r x
      hostGetReg u w r = x ∧ OnlyView w r s u ∧ u = { s with gpr := u.gpr }) ∧
    (∀ sr sel,
      match segmentFor s sr sel with
      | some d => ∃ u, hostSetSelector sr sel s = .next u ∧ hostGetSelector u sr = sel ∧
          u.seg.get sr = ⟨sel, d.base⟩ ∧ (∀ q, q ≠ sr → u.seg.get q = s.seg.get q) ∧
          u = { s with
            seg := u.seg
            csD := if sr = .cs then d.big else s.csD
            ssB := if sr = .ss then d.big else s.ssB }
      | none => hostSetSelector sr sel s = .refused .descLookup) ∧
    (∀ x, hostGetEip (hostSetEip s x) = x ∧
      hostGetFlags (hostSetFlags s x) = x &&& 0x7FD5 ||| 0x0002) ∧
    (∀ c x, hostGetCtl (hostSetCtl s c x) c = x) ∧ (∀ d x, hostGetDbg (hostSetDbg s d x) d = x) ∧
    (∀ k x, hostGetSlot (hostSetSlot s k x) k = x) ∧
    (∀ x, hostGetFcw (hostSetFcw s x) = x ∧ hostGetFsw (hostSetFsw s x) = x &&& 0x7F00) ∧
    (∀ x (k : BitVec 3), (hostSetFtw s x).fpu.used k = (x >>> (2 * k.toNat) &&& 3 != 3))

/-! ### The FPU -/

/-- Every FPU instruction completes, in every form and every state: EIP moves on, no integer flag, no
segment, control or debug register changes, no general register but AX of FNSTSW AX, and no byte of
memory outside the operand it stores to (rule R530). Of these the spec marks as its own decision or
knowledge: R530 (D28). By the header of its file, the spec marks "[from general knowledge, not in
source]", admitted by decision D1: every encoding and every layout of 48_fpu_data_control.md. -/
def Obligations.FpuCompletes : Prop :=
  ∀ (i : Instr) (s : State), isFpu i = true →
    ∃ t, exec i s = .next t ∧ t.eip = s.nextEip ∧ t.flags = s.flags ∧ SameSegs s t ∧
      SameSystem s t ∧
      (i ≠ .fnstsw .ax → t.gpr = s.gpr) ∧ (i = .fnstsw .ax → OnlyView .w16 .eax s t) ∧
      (fpuStore s.opsz i = none → t.mem = s.mem) ∧
      (∀ m n, fpuStore s.opsz i = some (m, n) → SameMemExcept (s.memAddr m) n s t)

/-- A pop marks the top unused and moves it up; the slot's value stays, every other used bit and every
word is unchanged, and a pop of an unused slot is no different (rule R532). -/
def Obligations.FpuPop : Prop :=
  ∀ f : Fpu,
    f.pop.FTOP = f.FTOP + 1 ∧ f.pop.used f.FTOP = false ∧
    (∀ k, k ≠ f.FTOP → f.pop.used k = f.used k) ∧
    (∀ k, f.pop.reg k = f.reg k) ∧ (∀ i, f.pop.st i = f.st (i + 1)) ∧
    f.pop.FCW = f.FCW ∧ f.pop.C0 = f.C0 ∧ f.pop.C1 = f.C1 ∧ f.pop.C2 = f.C2 ∧ f.pop.C3 = f.C3

/-- The FPU loads push one value and change nothing else: the memory operand converted, a copy of
ST(i), or a constant; the conversions from integers and from packed BCD are of the number the operand
denotes. A push moves the top down, marks its slot used and stores the value there (over a used slot
too: the default of `FPU_PUSH_ON_USED`, log entry 6); every other slot, used bit and word is unchanged
(rules R531, R540 to R542, R548, R552, R555 to R561). Of these the spec marks as its own decision or
knowledge: R531 (D22), R556 (D42), R557 (D42), R558 (D42), R559 (D42), R560 (D42). By the header of its
file, the spec marks "[from general knowledge, not in source]", admitted by decision D1: every encoding
and every layout of 48_fpu_data_control.md. -/
def Obligations.FpuLoads : Prop :=
  (∀ (f : Fpu) (v : F64), let g := f.push v
    g.FTOP = f.FTOP - 1 ∧ g.st 0 = v ∧ g.used g.FTOP = true ∧
    (∀ k, k ≠ f.FTOP - 1 → g.reg k = f.reg k ∧ g.used k = f.used k) ∧
    (∀ i, i ≠ 7 → g.st (i + 1) = f.st i) ∧
    g.FCW = f.FCW ∧ g.C0 = f.C0 ∧ g.C1 = f.C1 ∧ g.C2 = f.C2 ∧ g.C3 = f.C3) ∧
  ∀ s : State,
    let pushes (i : Instr) (v : F64) : Prop :=
      exec i s = .next { s with eip := s.nextEip, fpu := s.fpu.push v }
    (∀ m, pushes (.fld (.mf32 m)) (f32ToF64 (s.memRead .w32 (s.memAddr m)))) ∧
    (∀ m, pushes (.fld (.mf64 m)) (BitVec.ofNat 64 (s.memReadSpan 8 (s.memAddr m)))) ∧
    (∀ m, pushes (.fld (.mf80 m)) (f80ToF64 (BitVec.ofNat 80 (s.memReadSpan 10 (s.memAddr m))))) ∧
    (∀ i, pushes (.fld (.st i)) (s.fpu.st i)) ∧
    (∀ m, pushes (.fild (.m16 m)) (intToF64 (s.memRead .w16 (s.memAddr m)).toInt)) ∧
    (∀ m, pushes (.fild (.m32 m)) (intToF64 (s.memRead .w32 (s.memAddr m)).toInt)) ∧
    (∀ m, pushes (.fild (.m64 m))
      (intToF64 (BitVec.ofNat 64 (s.memReadSpan 8 (s.memAddr m))).toInt)) ∧
    (∀ m, pushes (.fbld m)
      (let digit (k : Nat) : Nat :=
         (s.mem.get (s.memAddr m + BitVec.ofNat 32 (k / 2)).toNat).toNat / 16 ^ (k % 2) % 16
       let number := ((List.range 18).map fun k => digit k * 10 ^ k).sum
       let sign := (s.mem.get (s.memAddr m + 9).toNat).msb
       round64 sign number 0)) ∧
    pushes .fld1 0x3FF0000000000000 ∧ pushes .fldl2t 0x400A934F0979A371 ∧
    pushes .fldl2e 0x3FF71547652B82FE ∧ pushes .fldpi 0x400921FB54442D18 ∧
    pushes .fldlg2 0x3FD34413509F79FF ∧ pushes .fldln2 0x3FE62E42FEFA39EF ∧ pushes .fldz 0

/-- The FPU stores write the converted top of the stack at the operand, low byte first, and pop or not
by their rules, an integer or packed BCD store rounding as bits 10 and 11 of the control word say;
FNSTCW and FNSTSW store the control and the status word (rules R49, R543 to R547, R549, R550, R553,
R565 to R567; the conversions are those of `Conversions`). Of these the spec marks as its own decision
or knowledge: R49 (D23, D24, general knowledge). By the header of its file, the spec marks "[from
general knowledge, not in source]", admitted by decision D1: every encoding and every layout of
48_fpu_data_control.md. -/
def Obligations.FpuStores : Prop :=
  ∀ s : State,
    let top := s.fpu.st 0
    let rc : BitVec 2 := s.fpu.FCW.extractLsb' 10 2
    let stores (i : Instr) (m : MemOp) (n v : Nat) (f : Fpu) : Prop :=
      ∃ t, exec i s = .next t ∧ t.memReadSpan n (s.memAddr m) = v ∧ t.fpu = f
    (∀ m, stores (.fst (.mf32 m)) m 4 (f64ToF32 top).toNat s.fpu) ∧
    (∀ m, stores (.fst (.mf64 m)) m 8 top.toNat s.fpu) ∧
    (∀ m, stores (.fstp (.mf32 m)) m 4 (f64ToF32 top).toNat s.fpu.pop) ∧
    (∀ m, stores (.fstp (.mf64 m)) m 8 top.toNat s.fpu.pop) ∧
    (∀ m, stores (.fstp (.mf80 m)) m 10 (f64ToF80 top).toNat s.fpu.pop) ∧
    (∀ m, stores (.fist (.m16 m)) m 2 (storeInt rc top 16).toNat s.fpu) ∧
    (∀ m, stores (.fist (.m32 m)) m 4 (storeInt rc top 32).toNat s.fpu) ∧
    (∀ m, stores (.fistp (.m16 m)) m 2 (storeInt rc top 16).toNat s.fpu.pop) ∧
    (∀ m, stores (.fistp (.m32 m)) m 4 (storeInt rc top 32).toNat s.fpu.pop) ∧
    (∀ m, stores (.fistp (.m64 m)) m 8 (storeInt rc top 64).toNat s.fpu.pop) ∧
    (∀ m, stores (.fbstp m) m 10 (leNat (f64ToBcd rc top)) s.fpu.pop) ∧
    (∀ m, stores (.fnstcw m) m 2 s.fpu.FCW.toNat s.fpu) ∧
    (∀ m, stores (.fnstsw (.m16 m)) m 2 s.fpu.statusWord.toNat s.fpu) ∧
    (∃ t, exec (.fnstsw .ax) s = .next t ∧
      Wrote s t .w16 (.reg .eax) s.fpu.statusWord s.flags) ∧
    (∀ i, exec (.fst (.st i)) s = .next { s with
      eip := s.nextEip, fpu := (s.fpu.setSt i top).setUsed (s.fpu.FTOP + i) true }) ∧
    (∀ i, exec (.fstp (.st i)) s = .next { s with
      eip := s.nextEip, fpu := ((s.fpu.setSt i top).setUsed (s.fpu.FTOP + i) true).pop })

/-- The six arithmetic operations, in every form: the destination slot gets the rounded result of the
operation on it and the source, in the order the form says, the popping forms pop after the write, and
nothing else changes (rules R601 to R619). By the header of its file, the spec marks "[from general
knowledge, not in source]", admitted by decision D1: every encoding and every condition-code table of
49_fpu_arithmetic.md. -/
def Obligations.FpuArithmetic : Prop :=
  ∀ s : State,
    let f := s.fpu
    let gives (i : Instr) (g : Fpu) : Prop := exec i s = .next { s with eip := s.nextEip, fpu := g }
    let float (form : FArithForm) : StIndex × F64 := match form with
      | .mf32 m => (0, f32ToF64 (s.memRead .w32 (s.memAddr m)))
      | .mf64 m => (0, BitVec.ofNat 64 (s.memReadSpan 8 (s.memAddr m)))
      | .st0St i => (0, f.st i)
      | .stSt0 i => (i, f.st 0)
    let int (form : FIntForm) : F64 := match form with
      | .m32 m => intToF64 (s.memRead .w32 (s.memAddr m)).toInt
      | .m16 m => intToF64 (s.memRead .w16 (s.memAddr m)).toInt
    (∀ form, let d := (float form).1
      let src := (float form).2
      gives (.fadd form) (f.setSt d (fadd64 (f.st d) src)) ∧
      gives (.fmul form) (f.setSt d (fmul64 (f.st d) src)) ∧
      gives (.fsub form) (f.setSt d (fsub64 (f.st d) src)) ∧
      gives (.fsubr form) (f.setSt d (fsub64 src (f.st d))) ∧
      gives (.fdiv form) (f.setSt d (fdiv64 (f.st d) src)) ∧
      gives (.fdivr form) (f.setSt d (fdiv64 src (f.st d)))) ∧
    (∀ form, let src := int form
      gives (.fiadd form) (f.setSt 0 (fadd64 (f.st 0) src)) ∧
      gives (.fimul form) (f.setSt 0 (fmul64 (f.st 0) src)) ∧
      gives (.fisub form) (f.setSt 0 (fsub64 (f.st 0) src)) ∧
      gives (.fisubr form) (f.setSt 0 (fsub64 src (f.st 0))) ∧
      gives (.fidiv form) (f.setSt 0 (fdiv64 (f.st 0) src)) ∧
      gives (.fidivr form) (f.setSt 0 (fdiv64 src (f.st 0)))) ∧
    (∀ i,
      gives (.faddp i) (f.setSt i (fadd64 (f.st i) (f.st 0))).pop ∧
      gives (.fmulp i) (f.setSt i (fmul64 (f.st i) (f.st 0))).pop ∧
      gives (.fsubp i) (f.setSt i (fsub64 (f.st i) (f.st 0))).pop ∧
      gives (.fsubrp i) (f.setSt i (fsub64 (f.st 0) (f.st i))).pop ∧
      gives (.fdivp i) (f.setSt i (fdiv64 (f.st i) (f.st 0))).pop ∧
      gives (.fdivrp i) (f.setSt i (fdiv64 (f.st 0) (f.st i))).pop)

/-- The binary64 arithmetic: a sum, difference, product or quotient of numbers is the exact one rounded
to nearest, ties to even, overflow giving an infinity and an exact zero the sign of IEEE 754; a number
over zero is an infinity of the exclusive-or of the signs; the operations on infinities; and every
invalid case and every NaN operand gives the NaN 0xFFF8000000000000 (rule R600(a) and (b); that NaN is
the default of NAN_POLICY, log entry 7). Of these the spec marks as its own decision or knowledge: R600
(D23, D27, D52). By the header of its file, the spec marks "[from general knowledge, not in source]",
admitted by decision D1: every encoding and every condition-code table of 49_fpu_arithmetic.md. -/
def Obligations.RoundsToNearest : Prop :=
  (∀ (m : Nat) (e : Int) (p : Nat),
    let value (k : Nat) : ℚ := (F64.val (signed64 false k)).toRat
    let exact : ℚ := m * 2 ^ e
    let r := FFormat.f64.round m e
    r < FFormat.f64.infinity → p < FFormat.f64.infinity →
    |exact - value r| ≤ |exact - value p| ∧
      (p ≠ r → |exact - value r| = |exact - value p| → r % 2 = 0)) ∧
  (∀ x y : FVal, x.isFinite = true → y.isFinite = true →
    (x.add y).toRat = x.toRat + y.toRat ∧ (x.mul y).toRat = x.toRat * y.toRat ∧
    (x.add y).isFinite = true ∧ (x.mul y).isFinite = true) ∧
  (∀ (neg : Bool) (m : Nat) (e : Int),
    RoundsTo ((if neg then -1 else 1) * m * 2 ^ e) neg (round64 neg m e)) ∧
  (∀ a b : F64,
    let qnan : F64 := 0xFFF8000000000000
    let inf (neg : Bool) : F64 := if neg then 0xFFF0000000000000 else 0x7FF0000000000000
    let zero (neg : Bool) : F64 := if neg then 0x8000000000000000 else 0
    let x : ℝ := F64.toRat a
    let y : ℝ := F64.toRat b
    let sign := a.msb ^^ b.msb
    (F64.finite a = true → F64.finite b = true →
      RoundsTo (x + y) (a.msb && b.msb) (fadd64 a b) ∧
      RoundsTo (x - y) (a.msb && !b.msb) (fsub64 a b) ∧
      RoundsTo (x * y) sign (fmul64 a b) ∧
      (y ≠ 0 → RoundsTo (x / y) sign (fdiv64 a b)) ∧
      (y = 0 → x ≠ 0 → fdiv64 a b = inf sign) ∧
      (y = 0 → x = 0 → fdiv64 a b = qnan)) ∧
    (∀ n, F64.val a = .inf n → F64.finite b = true →
      fadd64 a b = inf n ∧ fadd64 b a = inf n ∧ fsub64 a b = inf n ∧ fsub64 b a = inf (!n) ∧
      fdiv64 a b = inf sign ∧ fdiv64 b a = zero sign ∧
      fmul64 a b = (if y = 0 then qnan else inf sign) ∧
      fmul64 b a = (if y = 0 then qnan else inf sign)) ∧
    (∀ n k, F64.val a = .inf n → F64.val b = .inf k →
      fadd64 a b = (if n = k then inf n else qnan) ∧ fsub64 a b = (if n = k then qnan else inf n) ∧
      fmul64 a b = inf sign ∧ fdiv64 a b = qnan) ∧
    (F64.cls a = .nan ∨ F64.cls b = .nan →
      fadd64 a b = qnan ∧ fsub64 a b = qnan ∧ fmul64 a b = qnan ∧ fdiv64 a b = qnan))

/-- The conversions: binary32 to binary64 is exact; binary64 to binary32, extended to binary64 and
integers to binary64 round to nearest, ties to even; infinities and NaNs keep their sign and what fits
of their fraction; an integer store rounds as the rounding control says and answers the indefinite
where the integer does not fit or there is none, and so does a packed BCD store, digit by digit. A
pattern that is no NaN is what its value rounds to, and every binary64 pattern survives the way to the
extended format and back (rules R534 to R536, R553, R580). Of these the spec marks as its own decision
or knowledge: R534 (D23, D50, D52), R536 (D29). By the header of its file, the spec marks "[from
general knowledge, not in source]", admitted by decision D1: every encoding and every layout of
48_fpu_data_control.md. -/
def Obligations.Conversions : Prop :=
  (∀ (op : FpOp) (a b x : F64), F64.cls x ≠ .nan → packResult op a b (F64.val x) = x) ∧
  (∀ x : F64, f80ToF64 (f64ToF80 x) = x) ∧
  (∀ i : Int, -(2 ^ 53) ≤ i → i ≤ 2 ^ 53 → (F64.val (intToF64 i)).toRat = i) ∧
  (∀ i : Int, RoundsTo i false (intToF64 i)) ∧
  (∀ b : BitVec 32,
    (b.extractLsb' 23 8 ≠ 0xFF → F64.finite (f32ToF64 b) = true ∧
      F64.toRat (f32ToF64 b) = F32.toRat b ∧ (f32ToF64 b).msb = b.msb) ∧
    (b.extractLsb' 23 8 = 0xFF →
      f32ToF64 b = BitVec.ofBool b.msb ++ 0x7FF#11 ++ b.extractLsb' 0 23 ++ 0#29)) ∧
  (∀ x : F64,
    let r := f64ToF32 x
    let finite (b : BitVec 32) : Prop := b.extractLsb' 23 8 ≠ 0xFF
    r.msb = x.msb ∧
    (F64.finite x = true → |F64.toRat x| < 2 ^ 128 - 2 ^ 103 → finite r ∧
      ∀ b, finite b → F32.toRat b ≠ F32.toRat r →
        |F64.toRat x - F32.toRat r| < |F64.toRat x - F32.toRat b| ∨
          |F64.toRat x - F32.toRat r| = |F64.toRat x - F32.toRat b| ∧ r.getLsbD 0 = false) ∧
    (F64.finite x = true → 2 ^ 128 - 2 ^ 103 ≤ |F64.toRat x| → r.extractLsb' 0 31 = 0x7F800000) ∧
    (F64.cls x = .infinity → r.extractLsb' 0 31 = 0x7F800000) ∧
    (F64.cls x = .nan → r.extractLsb' 23 8 = 0xFF ∧
      r.extractLsb' 0 23 =
        (if x.extractLsb' 29 23 = 0 then 0x400000 else x.extractLsb' 29 23))) ∧
  (∀ e : BitVec 80,
    (e.extractLsb' 64 15 ≠ 0x7FFF → RoundsTo (F80.toRat e) e.msb (f80ToF64 e)) ∧
    (e.extractLsb' 64 15 = 0x7FFF → f80ToF64 e = BitVec.ofBool e.msb ++ 0x7FF#11 ++
      (if e.extractLsb' 0 63 = 0 then 0#52
       else if e.extractLsb' 11 52 = 0 then 0x8000000000000#52 else e.extractLsb' 11 52))) ∧
  (∀ x : F64,
    let e := f64ToF80 x
    e.msb = x.msb ∧
    (F64.finite x = true → e.extractLsb' 64 15 ≠ 0x7FFF ∧ F80.toRat e = F64.toRat x ∧
      (F64.toRat x = 0 → e.extractLsb' 0 79 = 0) ∧ (F64.toRat x ≠ 0 → e.getLsbD 63 = true)) ∧
    (F64.finite x = false → e.extractLsb' 0 79 = 0x7FFF#15 ++ 1#1 ++ x.extractLsb' 0 52 ++ 0#11)) ∧
  (∀ (rc : BitVec 2) (x : F64) (i : Int), F64.finite x = true → IntRounds rc (F64.toRat x) i →
    (∀ n, n = 16 ∨ n = 32 ∨ n = 64 → storeInt rc x n =
      if -(2 ^ (n - 1)) ≤ i ∧ i < 2 ^ (n - 1) then BitVec.ofInt n i else BitVec.ofNat n (2 ^ (n - 1))) ∧
    (i.natAbs < 10 ^ 18 → (f64ToBcd rc x).length = 10 ∧
      (∀ k, k < 18 → ((f64ToBcd rc x).getD (k / 2) 0).toNat / 16 ^ (k % 2) % 16 =
        i.natAbs / 10 ^ k % 10) ∧
      (f64ToBcd rc x).getD 9 0 = if x.msb then 0x80 else 0x00) ∧
    (10 ^ 18 ≤ i.natAbs → f64ToBcd rc x = [0, 0, 0, 0, 0, 0, 0, 0xC0, 0xFF, 0xFF])) ∧
  (∀ (rc : BitVec 2) (x : F64), F64.finite x = false →
    (∀ n, n = 16 ∨ n = 32 ∨ n = 64 → storeInt rc x n = BitVec.ofNat n (2 ^ (n - 1))) ∧
    f64ToBcd rc x = [0, 0, 0, 0, 0, 0, 0, 0xC0, 0xFF, 0xFF])

/-- The compares: C3, C2, C0 are 0 0 0 above, 0 0 1 below, 1 0 0 at equality of the values (both zeros
are equal, an infinity is above or below every finite value), 1 1 1 if an operand is a NaN; C1 and
everything else is unchanged, the ordered and the unordered compares are one function; the source of
each form, memory operands converted; the popping forms pop after it; FTST compares with +0.0 (rules
R619 to R629). By the header of its file, the spec marks "[from general knowledge, not in source]",
admitted by decision D1: every encoding and every condition-code table of 49_fpu_arithmetic.md. -/
def Obligations.FpuCompare : Prop :=
  (∀ (f : Fpu) (a b : F64),
    let g := f.compare a b
    g = { f with C3 := g.C3, C2 := g.C2, C0 := g.C0 } ∧
    (F64.cls a = .nan ∨ F64.cls b = .nan → g.C3 = true ∧ g.C2 = true ∧ g.C0 = true) ∧
    ((F64.val a).isFinite = true → (F64.val b).isFinite = true →
      g.C2 = false ∧ g.C0 = decide ((F64.val a).toRat < (F64.val b).toRat) ∧
      g.C3 = decide ((F64.val a).toRat = (F64.val b).toRat)) ∧
    (∀ n, F64.val a = .inf n → (F64.val b).isFinite = true →
      g.C2 = false ∧ g.C0 = n ∧ g.C3 = false) ∧
    (∀ n, (F64.val a).isFinite = true → F64.val b = .inf n →
      g.C2 = false ∧ g.C0 = !n ∧ g.C3 = false) ∧
    (∀ n k, F64.val a = .inf n → F64.val b = .inf k →
      g.C2 = false ∧ g.C0 = (n && !k) ∧ g.C3 = (n == k))) ∧
  (∀ s : State,
    let top := s.fpu.st 0
    let gives (i : Instr) (g : Fpu) : Prop := exec i s = .next { s with eip := s.nextEip, fpu := g }
    let int (form : FIntForm) : F64 := match form with
      | .m32 m => intToF64 (s.memRead .w32 (s.memAddr m)).toInt
      | .m16 m => intToF64 (s.memRead .w16 (s.memAddr m)).toInt
    let float (form : FComForm) : F64 := match form with
      | .mf32 m => f32ToF64 (s.memRead .w32 (s.memAddr m))
      | .mf64 m => BitVec.ofNat 64 (s.memReadSpan 8 (s.memAddr m))
      | .st i => s.fpu.st i
    (∀ form, gives (.fcom form) (s.fpu.compare top (float form)) ∧
      gives (.fcomp form) (s.fpu.compare top (float form)).pop) ∧
    (∀ form, gives (.ficom form) (s.fpu.compare top (int form)) ∧
      gives (.ficomp form) (s.fpu.compare top (int form)).pop) ∧
    (∀ i, gives (.fucom i) (s.fpu.compare top (s.fpu.st i)) ∧
      gives (.fucomp i) (s.fpu.compare top (s.fpu.st i)).pop) ∧
    gives .fcompp (s.fpu.compare top (s.fpu.st 1)).pop.pop ∧
    gives .fucompp (s.fpu.compare top (s.fpu.st 1)).pop.pop ∧
    gives .ftst (s.fpu.compare top 0))

/-- FXAM classifies the top of the stack, FCHS and FABS change its sign bit, FSQRT, FRNDINT, FSCALE,
FPREM, FPREM1 and FXTRACT compute on it (the values are those of `FpuFunctions`), and the
transcendental instructions apply the functions the configuration leaves open, with the stack effects
and condition codes of their rules; nothing else changes (rules R49, R640 to R657; the text before R650
clears C2 in R650 to R657, which for FYL2X and FPATAN is the model's reading, log entry 11). Of these
the spec marks as its own decision or knowledge: R49 (D23, D24, general knowledge), R647 (D27), R650
(D27), R651 (D27), R652 (D27), R653 (D27), R654 (D27), R655 (D27), R656 (D27), R657 (D27). By the
header of its file, the spec marks "[from general knowledge, not in source]", admitted by decision D1:
every encoding and every condition-code table of 49_fpu_arithmetic.md. -/
def Obligations.FpuUnary : Prop :=
  ∀ s : State,
    let f := s.fpu
    let x := f.st 0
    let y := f.st 1
    let gives (i : Instr) (g : Fpu) : Prop := exec i s = .next { s with eip := s.nextEip, fpu := g }
    let codes (c3 c2 c0 : Bool) : Fpu := { f with C1 := x.msb, C3 := c3, C2 := c2, C0 := c0 }
    (f.used f.FTOP = false → gives .fxam (codes true false true)) ∧
    (f.used f.FTOP = true →
      (F64.cls x = .nan → gives .fxam (codes false false true)) ∧
      (F64.cls x = .normal → gives .fxam (codes false true false)) ∧
      (F64.cls x = .infinity → gives .fxam (codes false true true)) ∧
      (F64.cls x = .zero → gives .fxam (codes true false false)) ∧
      (F64.cls x = .subnormal → gives .fxam (codes true true false))) ∧
    gives .fchs (f.setSt 0 (x ^^^ 0x8000000000000000)) ∧
    gives .fabs (f.setSt 0 (x &&& 0x7FFFFFFFFFFFFFFF)) ∧
    gives .fsqrt (f.setSt 0 (fsqrt64 x)) ∧
    gives .frndint (f.setSt 0 (frndint64 (f.FCW.extractLsb' 10 2) x)) ∧
    gives .fscale (f.setSt 0 (fscale64 x y)) ∧
    gives .fxtract ((f.setSt 0 (fxtract64 x).1).push (fxtract64 x).2) ∧
    (∀ nearest, let r := fremainder64 nearest x y
      let i : Instr := if nearest then .fprem1 else .fprem
      (∀ q, r.2 = some q → gives i { f.setSt 0 r.1 with
        C2 := false, C0 := q / 4 % 2 == 1, C3 := q / 2 % 2 == 1, C1 := q % 2 == 1 }) ∧
      (r.2 = none → gives i { f.setSt 0 r.1 with C2 := false })) ∧
    gives .f2xm1 { f.setSt 0 (fsub64 (Config.exp2 x) 0x3FF0000000000000) with C2 := false } ∧
    gives .fyl2x { (f.setSt 1 (fmul64 y (Config.log2 x))).pop with C2 := false } ∧
    gives .fyl2xp1
      { (f.setSt 1 (fmul64 y (Config.log2 (fadd64 x 0x3FF0000000000000)))).pop with C2 := false } ∧
    gives .fpatan { (f.setSt 1 (Config.atan2 y x)).pop with C2 := false } ∧
    gives .fptan { (f.setSt 0 (Config.tan x)).push 0x3FF0000000000000 with C2 := false } ∧
    gives .fsincos { (f.setSt 0 (Config.sin x)).push (Config.cos x) with C2 := false } ∧
    gives .fsin { f.setSt 0 (Config.sin x) with C2 := false } ∧
    gives .fcos { f.setSt 0 (Config.cos x) with C2 := false }

/-- The values of FSQRT (the square root rounded to nearest, ties to even), FRNDINT (the integer the
rounding control says, a zero keeping its sign), FSCALE (the value times a power of two, rounded),
FXTRACT (exponent and significand, exact) and FPREM and FPREM1 (the exact remainder and the magnitude
of its quotient), and what each does with zeros, infinities and NaNs (rules R600, R643 to R648; the NaN
is the default of NAN_POLICY, log entry 7). Of these the spec marks as its own decision or knowledge:
R600 (D23, D27, D52), R647 (D27). By the header of its file, the spec marks "[from general knowledge,
not in source]", admitted by decision D1: every encoding and every condition-code table of
49_fpu_arithmetic.md. -/
def Obligations.FpuFunctions : Prop :=
  ∀ x y : F64,
    let qnan : F64 := 0xFFF8000000000000
    let vx := F64.toRat x
    let vy := F64.toRat y
    let finite := F64.finite x = true
    (finite → 0 ≤ vx → RoundsTo (Real.sqrt vx) x.msb (fsqrt64 x)) ∧
    (finite → vx < 0 → fsqrt64 x = qnan) ∧
    (∀ n, F64.val x = .inf n → fsqrt64 x = if n then qnan else x) ∧
    (∀ (rc : BitVec 2) (i : Int), finite → IntRounds rc vx i →
      F64.finite (frndint64 rc x) = true ∧ F64.toRat (frndint64 rc x) = i ∧
        (frndint64 rc x).msb = x.msb) ∧
    (∀ rc, F64.cls x = .infinity → frndint64 rc x = x) ∧
    (∀ n : Int, finite → F64.finite y = true → IntRounds 3 vy n →
      RoundsTo ((vx : ℝ) * 2 ^ n) x.msb (fscale64 x y)) ∧
    (F64.cls x = .infinity → F64.finite y = true → fscale64 x y = x) ∧
    (y = 0x7FF0000000000000 → fscale64 x y = fmul64 x 0x7FF0000000000000) ∧
    (y = 0xFFF0000000000000 → fscale64 x y = fmul64 x 0x0000000000000000) ∧
    (finite → vx ≠ 0 → ∃ e : Int, (2 : ℚ) ^ e ≤ |vx| ∧ |vx| < 2 ^ (e + 1) ∧
      (fxtract64 x).1 = intToF64 e ∧ F64.toRat (fxtract64 x).2 * 2 ^ e = vx) ∧
    (finite → vx = 0 → fxtract64 x = (0xFFF0000000000000, x)) ∧
    (F64.cls x = .infinity → fxtract64 x = (0x7FF0000000000000, x)) ∧
    (∀ nearest, finite → F64.finite y = true → vy ≠ 0 →
      ∃ q : Int, IntRounds (if nearest then 0 else 3) (vx / vy) q ∧
        (let r := fremainder64 nearest x y
         F64.finite r.1 = true ∧ F64.toRat r.1 = vx - q * vy ∧
           (F64.toRat r.1 = 0 → r.1.msb = x.msb) ∧ r.2 = some q.natAbs)) ∧
    (∀ nearest, finite → F64.cls y = .infinity → fremainder64 nearest x y = (x, some 0)) ∧
    (∀ nearest, F64.cls x = .infinity ∨ F64.finite y = true ∧ vy = 0 →
      fremainder64 nearest x y = (qnan, none)) ∧
    (F64.cls x = .nan → fsqrt64 x = qnan ∧ (∀ rc, frndint64 rc x = qnan) ∧
      fxtract64 x = (qnan, qnan)) ∧
    (F64.cls x = .nan ∨ F64.cls y = .nan → fscale64 x y = qnan ∧
      ∀ nearest, fremainder64 nearest x y = (qnan, none))

/-- The status word holds C0 to C3 and the top at their bits, the tag word the code of each slot.
Exchange, stack control and the control and status words: FXCH swaps values and used bits, FINCSTP and
FDECSTP move the top only, FFREE frees a slot, FNINIT keeps the slot values, FLDCW stores all 16 bits,
FLDENV restores the words and the used bits, FNSTENV masks the exceptions after its image; the others
do nothing (rules R51, R53, R554, R562 to R564, R568 to R572, R575 to R577). Of these the spec marks as
its own decision or knowledge: R51 (D24, general knowledge), R53 (D25, general knowledge), R575 (D26).
By the header of its file, the spec marks "[from general knowledge, not in source]", admitted by
decision D1: every encoding and every layout of 48_fpu_data_control.md. -/
def Obligations.FpuControl : Prop :=
  ∀ s : State,
    let f := s.fpu
    let gives (i : Instr) (g : Fpu) : Prop := exec i s = .next { s with eip := s.nextEip, fpu := g }
    (f.statusWord.getLsbD 8 = f.C0 ∧ f.statusWord.getLsbD 9 = f.C1 ∧ f.statusWord.getLsbD 10 = f.C2 ∧
      f.statusWord.getLsbD 14 = f.C3 ∧ f.statusWord.extractLsb' 11 3 = f.FTOP ∧
      f.statusWord.extractLsb' 0 8 = 0 ∧ f.statusWord.getLsbD 15 = false) ∧
    (∀ k : BitVec 3, f.tagWord.extractLsb' (2 * k.toNat) 2 =
      if f.used k = false then 3
      else match F64.cls (f.reg k) with
        | .zero => 1
        | .nan => 2
        | .infinity => 2
        | .subnormal => 2
        | .normal => 0) ∧
    gives .fnop f ∧ gives .feni f ∧ gives .fdisi f ∧ gives .fsetpm f ∧ gives .fnclex f ∧
    gives .fincstp { f with FTOP := f.FTOP + 1 } ∧ gives .fdecstp { f with FTOP := f.FTOP - 1 } ∧
    (∀ i, gives (.ffree i) (f.setUsed (f.FTOP + i) false)) ∧
    (∀ m, gives (.fldcw m) { f with FCW := s.memRead .w16 (s.memAddr m) }) ∧
    (∃ g, gives .fninit g ∧ g.FPR = f.FPR ∧ g.FCW = 0x037F ∧ g.FTOP = 0 ∧ g.statusWord = 0 ∧
      g.tagWord = 0xFFFF) ∧
    (∀ i, ∃ g : Fpu, gives (.fxch i) g ∧ g.FTOP = f.FTOP ∧ g.FCW = f.FCW ∧
      g.statusWord = f.statusWord ∧ g.st i = f.st 0 ∧ g.st 0 = f.st i ∧
      g.used (f.FTOP + i) = f.used f.FTOP ∧ g.used f.FTOP = f.used (f.FTOP + i) ∧
      ∀ k, k ≠ f.FTOP → k ≠ f.FTOP + i → g.reg k = f.reg k ∧ g.used k = f.used k) ∧
    (∀ m, ∃ g : Fpu, gives (.fldenv m) g ∧
      (let at' (k : Nat) : BitVec 32 :=
         s.memAddr m + BitVec.ofNat 32 (if s.opsz = .s16 then 2 * k else 4 * k)
       let status := s.memRead .w16 (at' 1)
       g.FPR = f.FPR ∧ g.FCW = s.memRead .w16 (at' 0) ∧ g.statusWord = status &&& 0x7F00 ∧
       ∀ k : BitVec 3,
         g.used k = (s.memRead .w16 (at' 2) >>> (2 * k.toNat) &&& 3 != 3))) ∧
    (∀ m, ∃ t, exec (.fnstenv m) s = .next t ∧ t.fpu = { f with FCW := f.FCW ||| 0x003F } ∧
      (let at' (k : Nat) : BitVec 32 :=
         s.memAddr m + BitVec.ofNat 32 (if s.opsz = .s16 then 2 * k else 4 * k)
       t.memRead .w16 (at' 0) = f.FCW ∧ t.memRead .w16 (at' 1) = f.statusWord ∧
       t.memRead .w16 (at' 2) = f.tagWord ∧
       ∀ p, InSpan (s.memAddr m) (envSize s.opsz) p → ¬ InSpan (at' 0) 2 p → ¬ InSpan (at' 1) 2 p →
         ¬ InSpan (at' 2) 2 p → t.mem.get p = 0))

/-- FNSAVE writes the environment image and after it the eight values in stack order, in the extended
format, and leaves the FPU as FNINIT does; FRSTOR takes the words and the used bits from any image, and
the eight values by the new top; FNSAVE followed by FRSTOR from the same operand gives back the whole
FPU state: every slot value exactly, the used bits, the top, the condition codes and the control word,
in both image formats (rules R575, R577 to R580). Of these the spec marks as its own decision or
knowledge: R575 (D26). By the header of its file, the spec marks "[from general knowledge, not in
source]", admitted by decision D1: every encoding and every layout of 48_fpu_data_control.md. -/
def Obligations.SaveRestore : Prop :=
  ∀ (m : MemOp) (s : State),
    let a := s.memAddr m
    let size : Nat := if s.opsz = .s16 then 14 else 28
    let word (k : Nat) : BitVec 32 := a + BitVec.ofNat 32 (if s.opsz = .s16 then 2 * k else 4 * k)
    let slot (i : StIndex) : BitVec 32 := a + BitVec.ofNat 32 (size + 10 * i.toNat)
    (∃ t u, exec (.fnsave m) s = .next t ∧ t.fpu = s.fpu.init ∧
      exec (.frstor m) t = .next u ∧ u.fpu = s.fpu ∧ u.mem = t.mem) ∧
    (∃ t, exec (.fnsave m) s = .next t ∧
      t.memRead .w16 (word 0) = s.fpu.FCW ∧ t.memRead .w16 (word 1) = s.fpu.statusWord ∧
      t.memRead .w16 (word 2) = s.fpu.tagWord ∧
      (∀ p, InSpan a size p → ¬ InSpan (word 0) 2 p → ¬ InSpan (word 1) 2 p →
        ¬ InSpan (word 2) 2 p → t.mem.get p = 0) ∧
      (∀ i, t.memReadSpan 10 (slot i) = (f64ToF80 (s.fpu.st i)).toNat) ∧
      SameMemExcept a (size + 80) s t) ∧
    (∃ g : Fpu, exec (.frstor m) s = .next { s with eip := s.nextEip, fpu := g } ∧
      g.FCW = s.memRead .w16 (word 0) ∧ g.statusWord = s.memRead .w16 (word 1) &&& 0x7F00 ∧
      (∀ k : BitVec 3,
        g.used k = (s.memRead .w16 (word 2) >>> (2 * k.toNat) &&& 3 != 3)) ∧
      ∀ i, g.st i = f80ToF64 (BitVec.ofNat 80 (s.memReadSpan 10 (slot i))))
end

