-- ==== Sys2Proof/Laws/State.lean ====
section
/-! SUPPORT. For every named update of the state, each field it leaves alone, so that no proof unfolds a
record update; and what depends on those fields only. -/

namespace Sys2Proof.Machine

variable (s : State)

/-! ### `writeReg` -/

@[simp] theorem State.writeReg_seg (w : Width) (r : Reg) (v : BitVec w.bits) :
    (s.writeReg w r v).seg = s.seg := rfl

@[simp] theorem State.writeReg_csD (w : Width) (r : Reg) (v : BitVec w.bits) :
    (s.writeReg w r v).csD = s.csD := rfl

@[simp] theorem State.writeReg_ssB (w : Width) (r : Reg) (v : BitVec w.bits) :
    (s.writeReg w r v).ssB = s.ssB := rfl

@[simp] theorem State.writeReg_flags (w : Width) (r : Reg) (v : BitVec w.bits) :
    (s.writeReg w r v).flags = s.flags := rfl

@[simp] theorem State.writeReg_eip (w : Width) (r : Reg) (v : BitVec w.bits) :
    (s.writeReg w r v).eip = s.eip := rfl

@[simp] theorem State.writeReg_ctl (w : Width) (r : Reg) (v : BitVec w.bits) :
    (s.writeReg w r v).ctl = s.ctl := rfl

@[simp] theorem State.writeReg_dbg (w : Width) (r : Reg) (v : BitVec w.bits) :
    (s.writeReg w r v).dbg = s.dbg := rfl

@[simp] theorem State.writeReg_pfx (w : Width) (r : Reg) (v : BitVec w.bits) :
    (s.writeReg w r v).pfx = s.pfx := rfl

@[simp] theorem State.writeReg_nextEip (w : Width) (r : Reg) (v : BitVec w.bits) :
    (s.writeReg w r v).nextEip = s.nextEip := rfl

@[simp] theorem State.writeReg_fpu (w : Width) (r : Reg) (v : BitVec w.bits) :
    (s.writeReg w r v).fpu = s.fpu := rfl

@[simp] theorem State.writeReg_mem (w : Width) (r : Reg) (v : BitVec w.bits) :
    (s.writeReg w r v).mem = s.mem := rfl

@[simp] theorem State.writeReg_ports (w : Width) (r : Reg) (v : BitVec w.bits) :
    (s.writeReg w r v).ports = s.ports := rfl

@[simp] theorem State.writeReg_bus (w : Width) (r : Reg) (v : BitVec w.bits) :
    (s.writeReg w r v).bus = s.bus := rfl

@[simp] theorem State.writeReg_result (w : Width) (r : Reg) (v : BitVec w.bits) :
    (s.writeReg w r v).result = s.result := rfl

/-! ### `writeIndex` -/

@[simp] theorem State.writeIndex_seg (z : Size) (r : Reg) (v : BitVec 32) :
    (s.writeIndex z r v).seg = s.seg := rfl

@[simp] theorem State.writeIndex_csD (z : Size) (r : Reg) (v : BitVec 32) :
    (s.writeIndex z r v).csD = s.csD := rfl

@[simp] theorem State.writeIndex_ssB (z : Size) (r : Reg) (v : BitVec 32) :
    (s.writeIndex z r v).ssB = s.ssB := rfl

@[simp] theorem State.writeIndex_flags (z : Size) (r : Reg) (v : BitVec 32) :
    (s.writeIndex z r v).flags = s.flags := rfl

@[simp] theorem State.writeIndex_eip (z : Size) (r : Reg) (v : BitVec 32) :
    (s.writeIndex z r v).eip = s.eip := rfl

@[simp] theorem State.writeIndex_ctl (z : Size) (r : Reg) (v : BitVec 32) :
    (s.writeIndex z r v).ctl = s.ctl := rfl

@[simp] theorem State.writeIndex_dbg (z : Size) (r : Reg) (v : BitVec 32) :
    (s.writeIndex z r v).dbg = s.dbg := rfl

@[simp] theorem State.writeIndex_pfx (z : Size) (r : Reg) (v : BitVec 32) :
    (s.writeIndex z r v).pfx = s.pfx := rfl

@[simp] theorem State.writeIndex_nextEip (z : Size) (r : Reg) (v : BitVec 32) :
    (s.writeIndex z r v).nextEip = s.nextEip := rfl

@[simp] theorem State.writeIndex_fpu (z : Size) (r : Reg) (v : BitVec 32) :
    (s.writeIndex z r v).fpu = s.fpu := rfl

@[simp] theorem State.writeIndex_mem (z : Size) (r : Reg) (v : BitVec 32) :
    (s.writeIndex z r v).mem = s.mem := rfl

@[simp] theorem State.writeIndex_ports (z : Size) (r : Reg) (v : BitVec 32) :
    (s.writeIndex z r v).ports = s.ports := rfl

@[simp] theorem State.writeIndex_bus (z : Size) (r : Reg) (v : BitVec 32) :
    (s.writeIndex z r v).bus = s.bus := rfl

@[simp] theorem State.writeIndex_result (z : Size) (r : Reg) (v : BitVec 32) :
    (s.writeIndex z r v).result = s.result := rfl

/-! ### `setStackPtr` -/

@[simp] theorem State.setStackPtr_seg (v : BitVec 32) :
    (s.setStackPtr v).seg = s.seg := rfl

@[simp] theorem State.setStackPtr_csD (v : BitVec 32) :
    (s.setStackPtr v).csD = s.csD := rfl

@[simp] theorem State.setStackPtr_ssB (v : BitVec 32) :
    (s.setStackPtr v).ssB = s.ssB := rfl

@[simp] theorem State.setStackPtr_flags (v : BitVec 32) :
    (s.setStackPtr v).flags = s.flags := rfl

@[simp] theorem State.setStackPtr_eip (v : BitVec 32) :
    (s.setStackPtr v).eip = s.eip := rfl

@[simp] theorem State.setStackPtr_ctl (v : BitVec 32) :
    (s.setStackPtr v).ctl = s.ctl := rfl

@[simp] theorem State.setStackPtr_dbg (v : BitVec 32) :
    (s.setStackPtr v).dbg = s.dbg := rfl

@[simp] theorem State.setStackPtr_pfx (v : BitVec 32) :
    (s.setStackPtr v).pfx = s.pfx := rfl

@[simp] theorem State.setStackPtr_nextEip (v : BitVec 32) :
    (s.setStackPtr v).nextEip = s.nextEip := rfl

@[simp] theorem State.setStackPtr_fpu (v : BitVec 32) :
    (s.setStackPtr v).fpu = s.fpu := rfl

@[simp] theorem State.setStackPtr_mem (v : BitVec 32) :
    (s.setStackPtr v).mem = s.mem := rfl

@[simp] theorem State.setStackPtr_ports (v : BitVec 32) :
    (s.setStackPtr v).ports = s.ports := rfl

@[simp] theorem State.setStackPtr_bus (v : BitVec 32) :
    (s.setStackPtr v).bus = s.bus := rfl

@[simp] theorem State.setStackPtr_result (v : BitVec 32) :
    (s.setStackPtr v).result = s.result := rfl

/-! ### `popped` -/

@[simp] theorem State.popped_seg (z : Size) :
    (s.popped z).seg = s.seg := rfl

@[simp] theorem State.popped_csD (z : Size) :
    (s.popped z).csD = s.csD := rfl

@[simp] theorem State.popped_ssB (z : Size) :
    (s.popped z).ssB = s.ssB := rfl

@[simp] theorem State.popped_flags (z : Size) :
    (s.popped z).flags = s.flags := rfl

@[simp] theorem State.popped_eip (z : Size) :
    (s.popped z).eip = s.eip := rfl

@[simp] theorem State.popped_ctl (z : Size) :
    (s.popped z).ctl = s.ctl := rfl

@[simp] theorem State.popped_dbg (z : Size) :
    (s.popped z).dbg = s.dbg := rfl

@[simp] theorem State.popped_pfx (z : Size) :
    (s.popped z).pfx = s.pfx := rfl

@[simp] theorem State.popped_nextEip (z : Size) :
    (s.popped z).nextEip = s.nextEip := rfl

@[simp] theorem State.popped_fpu (z : Size) :
    (s.popped z).fpu = s.fpu := rfl

@[simp] theorem State.popped_mem (z : Size) :
    (s.popped z).mem = s.mem := rfl

@[simp] theorem State.popped_ports (z : Size) :
    (s.popped z).ports = s.ports := rfl

@[simp] theorem State.popped_bus (z : Size) :
    (s.popped z).bus = s.bus := rfl

@[simp] theorem State.popped_result (z : Size) :
    (s.popped z).result = s.result := rfl

/-! ### `popReg` -/

@[simp] theorem State.popReg_seg (z : Size) (r : Reg) :
    (s.popReg z r).seg = s.seg := rfl

@[simp] theorem State.popReg_csD (z : Size) (r : Reg) :
    (s.popReg z r).csD = s.csD := rfl

@[simp] theorem State.popReg_ssB (z : Size) (r : Reg) :
    (s.popReg z r).ssB = s.ssB := rfl

@[simp] theorem State.popReg_flags (z : Size) (r : Reg) :
    (s.popReg z r).flags = s.flags := rfl

@[simp] theorem State.popReg_eip (z : Size) (r : Reg) :
    (s.popReg z r).eip = s.eip := rfl

@[simp] theorem State.popReg_ctl (z : Size) (r : Reg) :
    (s.popReg z r).ctl = s.ctl := rfl

@[simp] theorem State.popReg_dbg (z : Size) (r : Reg) :
    (s.popReg z r).dbg = s.dbg := rfl

@[simp] theorem State.popReg_pfx (z : Size) (r : Reg) :
    (s.popReg z r).pfx = s.pfx := rfl

@[simp] theorem State.popReg_nextEip (z : Size) (r : Reg) :
    (s.popReg z r).nextEip = s.nextEip := rfl

@[simp] theorem State.popReg_fpu (z : Size) (r : Reg) :
    (s.popReg z r).fpu = s.fpu := rfl

@[simp] theorem State.popReg_mem (z : Size) (r : Reg) :
    (s.popReg z r).mem = s.mem := rfl

@[simp] theorem State.popReg_ports (z : Size) (r : Reg) :
    (s.popReg z r).ports = s.ports := rfl

@[simp] theorem State.popReg_bus (z : Size) (r : Reg) :
    (s.popReg z r).bus = s.bus := rfl

@[simp] theorem State.popReg_result (z : Size) (r : Reg) :
    (s.popReg z r).result = s.result := rfl

/-! ### `countDown` -/

@[simp] theorem State.countDown_seg :
    (s.countDown).seg = s.seg := rfl

@[simp] theorem State.countDown_csD :
    (s.countDown).csD = s.csD := rfl

@[simp] theorem State.countDown_ssB :
    (s.countDown).ssB = s.ssB := rfl

@[simp] theorem State.countDown_flags :
    (s.countDown).flags = s.flags := rfl

@[simp] theorem State.countDown_eip :
    (s.countDown).eip = s.eip := rfl

@[simp] theorem State.countDown_ctl :
    (s.countDown).ctl = s.ctl := rfl

@[simp] theorem State.countDown_dbg :
    (s.countDown).dbg = s.dbg := rfl

@[simp] theorem State.countDown_pfx :
    (s.countDown).pfx = s.pfx := rfl

@[simp] theorem State.countDown_nextEip :
    (s.countDown).nextEip = s.nextEip := rfl

@[simp] theorem State.countDown_fpu :
    (s.countDown).fpu = s.fpu := rfl

@[simp] theorem State.countDown_mem :
    (s.countDown).mem = s.mem := rfl

@[simp] theorem State.countDown_ports :
    (s.countDown).ports = s.ports := rfl

@[simp] theorem State.countDown_bus :
    (s.countDown).bus = s.bus := rfl

@[simp] theorem State.countDown_result :
    (s.countDown).result = s.result := rfl

/-! ### `advance` -/

@[simp] theorem State.advance_seg (w : Width) (r : Reg) :
    (s.advance w r).seg = s.seg := rfl

@[simp] theorem State.advance_csD (w : Width) (r : Reg) :
    (s.advance w r).csD = s.csD := rfl

@[simp] theorem State.advance_ssB (w : Width) (r : Reg) :
    (s.advance w r).ssB = s.ssB := rfl

@[simp] theorem State.advance_flags (w : Width) (r : Reg) :
    (s.advance w r).flags = s.flags := rfl

@[simp] theorem State.advance_eip (w : Width) (r : Reg) :
    (s.advance w r).eip = s.eip := rfl

@[simp] theorem State.advance_ctl (w : Width) (r : Reg) :
    (s.advance w r).ctl = s.ctl := rfl

@[simp] theorem State.advance_dbg (w : Width) (r : Reg) :
    (s.advance w r).dbg = s.dbg := rfl

@[simp] theorem State.advance_pfx (w : Width) (r : Reg) :
    (s.advance w r).pfx = s.pfx := rfl

@[simp] theorem State.advance_nextEip (w : Width) (r : Reg) :
    (s.advance w r).nextEip = s.nextEip := rfl

@[simp] theorem State.advance_fpu (w : Width) (r : Reg) :
    (s.advance w r).fpu = s.fpu := rfl

@[simp] theorem State.advance_mem (w : Width) (r : Reg) :
    (s.advance w r).mem = s.mem := rfl

@[simp] theorem State.advance_ports (w : Width) (r : Reg) :
    (s.advance w r).ports = s.ports := rfl

@[simp] theorem State.advance_bus (w : Width) (r : Reg) :
    (s.advance w r).bus = s.bus := rfl

@[simp] theorem State.advance_result (w : Width) (r : Reg) :
    (s.advance w r).result = s.result := rfl

/-! ### `release` -/

@[simp] theorem State.release_seg (n : BitVec 16) :
    (s.release n).seg = s.seg := rfl

@[simp] theorem State.release_csD (n : BitVec 16) :
    (s.release n).csD = s.csD := rfl

@[simp] theorem State.release_ssB (n : BitVec 16) :
    (s.release n).ssB = s.ssB := rfl

@[simp] theorem State.release_flags (n : BitVec 16) :
    (s.release n).flags = s.flags := rfl

@[simp] theorem State.release_eip (n : BitVec 16) :
    (s.release n).eip = s.eip := rfl

@[simp] theorem State.release_ctl (n : BitVec 16) :
    (s.release n).ctl = s.ctl := rfl

@[simp] theorem State.release_dbg (n : BitVec 16) :
    (s.release n).dbg = s.dbg := rfl

@[simp] theorem State.release_pfx (n : BitVec 16) :
    (s.release n).pfx = s.pfx := rfl

@[simp] theorem State.release_nextEip (n : BitVec 16) :
    (s.release n).nextEip = s.nextEip := rfl

@[simp] theorem State.release_fpu (n : BitVec 16) :
    (s.release n).fpu = s.fpu := rfl

@[simp] theorem State.release_mem (n : BitVec 16) :
    (s.release n).mem = s.mem := rfl

@[simp] theorem State.release_ports (n : BitVec 16) :
    (s.release n).ports = s.ports := rfl

@[simp] theorem State.release_bus (n : BitVec 16) :
    (s.release n).bus = s.bus := rfl

@[simp] theorem State.release_result (n : BitVec 16) :
    (s.release n).result = s.result := rfl

/-! ### `memWrite` -/

@[simp] theorem State.memWrite_gpr (w : Width) (a : BitVec 32) (v : BitVec w.bits) :
    (s.memWrite w a v).gpr = s.gpr := rfl

@[simp] theorem State.memWrite_seg (w : Width) (a : BitVec 32) (v : BitVec w.bits) :
    (s.memWrite w a v).seg = s.seg := rfl

@[simp] theorem State.memWrite_csD (w : Width) (a : BitVec 32) (v : BitVec w.bits) :
    (s.memWrite w a v).csD = s.csD := rfl

@[simp] theorem State.memWrite_ssB (w : Width) (a : BitVec 32) (v : BitVec w.bits) :
    (s.memWrite w a v).ssB = s.ssB := rfl

@[simp] theorem State.memWrite_flags (w : Width) (a : BitVec 32) (v : BitVec w.bits) :
    (s.memWrite w a v).flags = s.flags := rfl

@[simp] theorem State.memWrite_eip (w : Width) (a : BitVec 32) (v : BitVec w.bits) :
    (s.memWrite w a v).eip = s.eip := rfl

@[simp] theorem State.memWrite_ctl (w : Width) (a : BitVec 32) (v : BitVec w.bits) :
    (s.memWrite w a v).ctl = s.ctl := rfl

@[simp] theorem State.memWrite_dbg (w : Width) (a : BitVec 32) (v : BitVec w.bits) :
    (s.memWrite w a v).dbg = s.dbg := rfl

@[simp] theorem State.memWrite_pfx (w : Width) (a : BitVec 32) (v : BitVec w.bits) :
    (s.memWrite w a v).pfx = s.pfx := rfl

@[simp] theorem State.memWrite_nextEip (w : Width) (a : BitVec 32) (v : BitVec w.bits) :
    (s.memWrite w a v).nextEip = s.nextEip := rfl

@[simp] theorem State.memWrite_fpu (w : Width) (a : BitVec 32) (v : BitVec w.bits) :
    (s.memWrite w a v).fpu = s.fpu := rfl

@[simp] theorem State.memWrite_ports (w : Width) (a : BitVec 32) (v : BitVec w.bits) :
    (s.memWrite w a v).ports = s.ports := rfl

@[simp] theorem State.memWrite_bus (w : Width) (a : BitVec 32) (v : BitVec w.bits) :
    (s.memWrite w a v).bus = s.bus := rfl

@[simp] theorem State.memWrite_result (w : Width) (a : BitVec 32) (v : BitVec w.bits) :
    (s.memWrite w a v).result = s.result := rfl

/-! ### `memWriteSpan` -/

@[simp] theorem State.memWriteSpan_gpr (a : BitVec 32) (bs : List Byte) :
    (s.memWriteSpan a bs).gpr = s.gpr := rfl

@[simp] theorem State.memWriteSpan_seg (a : BitVec 32) (bs : List Byte) :
    (s.memWriteSpan a bs).seg = s.seg := rfl

@[simp] theorem State.memWriteSpan_csD (a : BitVec 32) (bs : List Byte) :
    (s.memWriteSpan a bs).csD = s.csD := rfl

@[simp] theorem State.memWriteSpan_ssB (a : BitVec 32) (bs : List Byte) :
    (s.memWriteSpan a bs).ssB = s.ssB := rfl

@[simp] theorem State.memWriteSpan_flags (a : BitVec 32) (bs : List Byte) :
    (s.memWriteSpan a bs).flags = s.flags := rfl

@[simp] theorem State.memWriteSpan_eip (a : BitVec 32) (bs : List Byte) :
    (s.memWriteSpan a bs).eip = s.eip := rfl

@[simp] theorem State.memWriteSpan_ctl (a : BitVec 32) (bs : List Byte) :
    (s.memWriteSpan a bs).ctl = s.ctl := rfl

@[simp] theorem State.memWriteSpan_dbg (a : BitVec 32) (bs : List Byte) :
    (s.memWriteSpan a bs).dbg = s.dbg := rfl

@[simp] theorem State.memWriteSpan_pfx (a : BitVec 32) (bs : List Byte) :
    (s.memWriteSpan a bs).pfx = s.pfx := rfl

@[simp] theorem State.memWriteSpan_nextEip (a : BitVec 32) (bs : List Byte) :
    (s.memWriteSpan a bs).nextEip = s.nextEip := rfl

@[simp] theorem State.memWriteSpan_fpu (a : BitVec 32) (bs : List Byte) :
    (s.memWriteSpan a bs).fpu = s.fpu := rfl

@[simp] theorem State.memWriteSpan_ports (a : BitVec 32) (bs : List Byte) :
    (s.memWriteSpan a bs).ports = s.ports := rfl

@[simp] theorem State.memWriteSpan_bus (a : BitVec 32) (bs : List Byte) :
    (s.memWriteSpan a bs).bus = s.bus := rfl

@[simp] theorem State.memWriteSpan_result (a : BitVec 32) (bs : List Byte) :
    (s.memWriteSpan a bs).result = s.result := rfl

/-! ### `storeSpan` -/

@[simp] theorem State.storeSpan_gpr (m : MemOp) (n v : Nat) :
    (s.storeSpan m n v).gpr = s.gpr := rfl

@[simp] theorem State.storeSpan_seg (m : MemOp) (n v : Nat) :
    (s.storeSpan m n v).seg = s.seg := rfl

@[simp] theorem State.storeSpan_csD (m : MemOp) (n v : Nat) :
    (s.storeSpan m n v).csD = s.csD := rfl

@[simp] theorem State.storeSpan_ssB (m : MemOp) (n v : Nat) :
    (s.storeSpan m n v).ssB = s.ssB := rfl

@[simp] theorem State.storeSpan_flags (m : MemOp) (n v : Nat) :
    (s.storeSpan m n v).flags = s.flags := rfl

@[simp] theorem State.storeSpan_eip (m : MemOp) (n v : Nat) :
    (s.storeSpan m n v).eip = s.eip := rfl

@[simp] theorem State.storeSpan_ctl (m : MemOp) (n v : Nat) :
    (s.storeSpan m n v).ctl = s.ctl := rfl

@[simp] theorem State.storeSpan_dbg (m : MemOp) (n v : Nat) :
    (s.storeSpan m n v).dbg = s.dbg := rfl

@[simp] theorem State.storeSpan_pfx (m : MemOp) (n v : Nat) :
    (s.storeSpan m n v).pfx = s.pfx := rfl

@[simp] theorem State.storeSpan_nextEip (m : MemOp) (n v : Nat) :
    (s.storeSpan m n v).nextEip = s.nextEip := rfl

@[simp] theorem State.storeSpan_fpu (m : MemOp) (n v : Nat) :
    (s.storeSpan m n v).fpu = s.fpu := rfl

@[simp] theorem State.storeSpan_ports (m : MemOp) (n v : Nat) :
    (s.storeSpan m n v).ports = s.ports := rfl

@[simp] theorem State.storeSpan_bus (m : MemOp) (n v : Nat) :
    (s.storeSpan m n v).bus = s.bus := rfl

@[simp] theorem State.storeSpan_result (m : MemOp) (n v : Nat) :
    (s.storeSpan m n v).result = s.result := rfl

/-! ### `segWrite` -/

@[simp] theorem State.segWrite_gpr (w : Width) (r : SegReg) (off : BitVec 32) (v : BitVec w.bits) :
    (s.segWrite w r off v).gpr = s.gpr := rfl

@[simp] theorem State.segWrite_seg (w : Width) (r : SegReg) (off : BitVec 32) (v : BitVec w.bits) :
    (s.segWrite w r off v).seg = s.seg := rfl

@[simp] theorem State.segWrite_csD (w : Width) (r : SegReg) (off : BitVec 32) (v : BitVec w.bits) :
    (s.segWrite w r off v).csD = s.csD := rfl

@[simp] theorem State.segWrite_ssB (w : Width) (r : SegReg) (off : BitVec 32) (v : BitVec w.bits) :
    (s.segWrite w r off v).ssB = s.ssB := rfl

@[simp] theorem State.segWrite_flags (w : Width) (r : SegReg) (off : BitVec 32) (v : BitVec w.bits) :
    (s.segWrite w r off v).flags = s.flags := rfl

@[simp] theorem State.segWrite_eip (w : Width) (r : SegReg) (off : BitVec 32) (v : BitVec w.bits) :
    (s.segWrite w r off v).eip = s.eip := rfl

@[simp] theorem State.segWrite_ctl (w : Width) (r : SegReg) (off : BitVec 32) (v : BitVec w.bits) :
    (s.segWrite w r off v).ctl = s.ctl := rfl

@[simp] theorem State.segWrite_dbg (w : Width) (r : SegReg) (off : BitVec 32) (v : BitVec w.bits) :
    (s.segWrite w r off v).dbg = s.dbg := rfl

@[simp] theorem State.segWrite_pfx (w : Width) (r : SegReg) (off : BitVec 32) (v : BitVec w.bits) :
    (s.segWrite w r off v).pfx = s.pfx := rfl

@[simp] theorem State.segWrite_nextEip (w : Width) (r : SegReg) (off : BitVec 32) (v : BitVec w.bits) :
    (s.segWrite w r off v).nextEip = s.nextEip := rfl

@[simp] theorem State.segWrite_fpu (w : Width) (r : SegReg) (off : BitVec 32) (v : BitVec w.bits) :
    (s.segWrite w r off v).fpu = s.fpu := rfl

@[simp] theorem State.segWrite_ports (w : Width) (r : SegReg) (off : BitVec 32) (v : BitVec w.bits) :
    (s.segWrite w r off v).ports = s.ports := rfl

@[simp] theorem State.segWrite_bus (w : Width) (r : SegReg) (off : BitVec 32) (v : BitVec w.bits) :
    (s.segWrite w r off v).bus = s.bus := rfl

@[simp] theorem State.segWrite_result (w : Width) (r : SegReg) (off : BitVec 32) (v : BitVec w.bits) :
    (s.segWrite w r off v).result = s.result := rfl

/-! ### `writeDst` -/

@[simp] theorem State.writeDst_gpr (w : Width) (v : BitVec w.bits) :
    (s.writeDst w v).gpr = s.gpr := rfl

@[simp] theorem State.writeDst_seg (w : Width) (v : BitVec w.bits) :
    (s.writeDst w v).seg = s.seg := rfl

@[simp] theorem State.writeDst_csD (w : Width) (v : BitVec w.bits) :
    (s.writeDst w v).csD = s.csD := rfl

@[simp] theorem State.writeDst_ssB (w : Width) (v : BitVec w.bits) :
    (s.writeDst w v).ssB = s.ssB := rfl

@[simp] theorem State.writeDst_flags (w : Width) (v : BitVec w.bits) :
    (s.writeDst w v).flags = s.flags := rfl

@[simp] theorem State.writeDst_eip (w : Width) (v : BitVec w.bits) :
    (s.writeDst w v).eip = s.eip := rfl

@[simp] theorem State.writeDst_ctl (w : Width) (v : BitVec w.bits) :
    (s.writeDst w v).ctl = s.ctl := rfl

@[simp] theorem State.writeDst_dbg (w : Width) (v : BitVec w.bits) :
    (s.writeDst w v).dbg = s.dbg := rfl

@[simp] theorem State.writeDst_pfx (w : Width) (v : BitVec w.bits) :
    (s.writeDst w v).pfx = s.pfx := rfl

@[simp] theorem State.writeDst_nextEip (w : Width) (v : BitVec w.bits) :
    (s.writeDst w v).nextEip = s.nextEip := rfl

@[simp] theorem State.writeDst_fpu (w : Width) (v : BitVec w.bits) :
    (s.writeDst w v).fpu = s.fpu := rfl

@[simp] theorem State.writeDst_ports (w : Width) (v : BitVec w.bits) :
    (s.writeDst w v).ports = s.ports := rfl

@[simp] theorem State.writeDst_bus (w : Width) (v : BitVec w.bits) :
    (s.writeDst w v).bus = s.bus := rfl

@[simp] theorem State.writeDst_result (w : Width) (v : BitVec w.bits) :
    (s.writeDst w v).result = s.result := rfl

/-! ### `push` -/

@[simp] theorem State.push_seg (z : Size) (v : BitVec z.bits) :
    (s.push z v).seg = s.seg := rfl

@[simp] theorem State.push_csD (z : Size) (v : BitVec z.bits) :
    (s.push z v).csD = s.csD := rfl

@[simp] theorem State.push_ssB (z : Size) (v : BitVec z.bits) :
    (s.push z v).ssB = s.ssB := rfl

@[simp] theorem State.push_flags (z : Size) (v : BitVec z.bits) :
    (s.push z v).flags = s.flags := rfl

@[simp] theorem State.push_eip (z : Size) (v : BitVec z.bits) :
    (s.push z v).eip = s.eip := rfl

@[simp] theorem State.push_ctl (z : Size) (v : BitVec z.bits) :
    (s.push z v).ctl = s.ctl := rfl

@[simp] theorem State.push_dbg (z : Size) (v : BitVec z.bits) :
    (s.push z v).dbg = s.dbg := rfl

@[simp] theorem State.push_pfx (z : Size) (v : BitVec z.bits) :
    (s.push z v).pfx = s.pfx := rfl

@[simp] theorem State.push_nextEip (z : Size) (v : BitVec z.bits) :
    (s.push z v).nextEip = s.nextEip := rfl

@[simp] theorem State.push_fpu (z : Size) (v : BitVec z.bits) :
    (s.push z v).fpu = s.fpu := rfl

@[simp] theorem State.push_ports (z : Size) (v : BitVec z.bits) :
    (s.push z v).ports = s.ports := rfl

@[simp] theorem State.push_bus (z : Size) (v : BitVec z.bits) :
    (s.push z v).bus = s.bus := rfl

@[simp] theorem State.push_result (z : Size) (v : BitVec z.bits) :
    (s.push z v).result = s.result := rfl

/-! ### `pushReturn` -/

@[simp] theorem State.pushReturn_seg (z : Size) :
    (s.pushReturn z).seg = s.seg := rfl

@[simp] theorem State.pushReturn_csD (z : Size) :
    (s.pushReturn z).csD = s.csD := rfl

@[simp] theorem State.pushReturn_ssB (z : Size) :
    (s.pushReturn z).ssB = s.ssB := rfl

@[simp] theorem State.pushReturn_flags (z : Size) :
    (s.pushReturn z).flags = s.flags := rfl

@[simp] theorem State.pushReturn_eip (z : Size) :
    (s.pushReturn z).eip = s.eip := rfl

@[simp] theorem State.pushReturn_ctl (z : Size) :
    (s.pushReturn z).ctl = s.ctl := rfl

@[simp] theorem State.pushReturn_dbg (z : Size) :
    (s.pushReturn z).dbg = s.dbg := rfl

@[simp] theorem State.pushReturn_pfx (z : Size) :
    (s.pushReturn z).pfx = s.pfx := rfl

@[simp] theorem State.pushReturn_nextEip (z : Size) :
    (s.pushReturn z).nextEip = s.nextEip := rfl

@[simp] theorem State.pushReturn_fpu (z : Size) :
    (s.pushReturn z).fpu = s.fpu := rfl

@[simp] theorem State.pushReturn_ports (z : Size) :
    (s.pushReturn z).ports = s.ports := rfl

@[simp] theorem State.pushReturn_bus (z : Size) :
    (s.pushReturn z).bus = s.bus := rfl

@[simp] theorem State.pushReturn_result (z : Size) :
    (s.pushReturn z).result = s.result := rfl

/-! ### `setSeg` -/

@[simp] theorem State.setSeg_gpr (r : SegReg) (sel : BitVec 16) (base : BitVec 32) (big : Bool) :
    (s.setSeg r sel base big).gpr = s.gpr := rfl

@[simp] theorem State.setSeg_flags (r : SegReg) (sel : BitVec 16) (base : BitVec 32) (big : Bool) :
    (s.setSeg r sel base big).flags = s.flags := rfl

@[simp] theorem State.setSeg_eip (r : SegReg) (sel : BitVec 16) (base : BitVec 32) (big : Bool) :
    (s.setSeg r sel base big).eip = s.eip := rfl

@[simp] theorem State.setSeg_ctl (r : SegReg) (sel : BitVec 16) (base : BitVec 32) (big : Bool) :
    (s.setSeg r sel base big).ctl = s.ctl := rfl

@[simp] theorem State.setSeg_dbg (r : SegReg) (sel : BitVec 16) (base : BitVec 32) (big : Bool) :
    (s.setSeg r sel base big).dbg = s.dbg := rfl

@[simp] theorem State.setSeg_pfx (r : SegReg) (sel : BitVec 16) (base : BitVec 32) (big : Bool) :
    (s.setSeg r sel base big).pfx = s.pfx := rfl

@[simp] theorem State.setSeg_nextEip (r : SegReg) (sel : BitVec 16) (base : BitVec 32) (big : Bool) :
    (s.setSeg r sel base big).nextEip = s.nextEip := rfl

@[simp] theorem State.setSeg_fpu (r : SegReg) (sel : BitVec 16) (base : BitVec 32) (big : Bool) :
    (s.setSeg r sel base big).fpu = s.fpu := rfl

@[simp] theorem State.setSeg_mem (r : SegReg) (sel : BitVec 16) (base : BitVec 32) (big : Bool) :
    (s.setSeg r sel base big).mem = s.mem := rfl

@[simp] theorem State.setSeg_ports (r : SegReg) (sel : BitVec 16) (base : BitVec 32) (big : Bool) :
    (s.setSeg r sel base big).ports = s.ports := rfl

@[simp] theorem State.setSeg_bus (r : SegReg) (sel : BitVec 16) (base : BitVec 32) (big : Bool) :
    (s.setSeg r sel base big).bus = s.bus := rfl

@[simp] theorem State.setSeg_result (r : SegReg) (sel : BitVec 16) (base : BitVec 32) (big : Bool) :
    (s.setSeg r sel base big).result = s.result := rfl

/-! ### `jumpTo` -/

@[simp] theorem State.jumpTo_gpr (t : BitVec 32) :
    (s.jumpTo t).gpr = s.gpr := rfl

@[simp] theorem State.jumpTo_seg (t : BitVec 32) :
    (s.jumpTo t).seg = s.seg := rfl

@[simp] theorem State.jumpTo_csD (t : BitVec 32) :
    (s.jumpTo t).csD = s.csD := rfl

@[simp] theorem State.jumpTo_ssB (t : BitVec 32) :
    (s.jumpTo t).ssB = s.ssB := rfl

@[simp] theorem State.jumpTo_flags (t : BitVec 32) :
    (s.jumpTo t).flags = s.flags := rfl

@[simp] theorem State.jumpTo_ctl (t : BitVec 32) :
    (s.jumpTo t).ctl = s.ctl := rfl

@[simp] theorem State.jumpTo_dbg (t : BitVec 32) :
    (s.jumpTo t).dbg = s.dbg := rfl

@[simp] theorem State.jumpTo_pfx (t : BitVec 32) :
    (s.jumpTo t).pfx = s.pfx := rfl

@[simp] theorem State.jumpTo_nextEip (t : BitVec 32) :
    (s.jumpTo t).nextEip = s.nextEip := rfl

@[simp] theorem State.jumpTo_fpu (t : BitVec 32) :
    (s.jumpTo t).fpu = s.fpu := rfl

@[simp] theorem State.jumpTo_mem (t : BitVec 32) :
    (s.jumpTo t).mem = s.mem := rfl

@[simp] theorem State.jumpTo_ports (t : BitVec 32) :
    (s.jumpTo t).ports = s.ports := rfl

@[simp] theorem State.jumpTo_bus (t : BitVec 32) :
    (s.jumpTo t).bus = s.bus := rfl

@[simp] theorem State.jumpTo_result (t : BitVec 32) :
    (s.jumpTo t).result = s.result := rfl

/-! ### `retire` -/

@[simp] theorem State.retire_gpr :
    (s.retire).gpr = s.gpr := rfl

@[simp] theorem State.retire_seg :
    (s.retire).seg = s.seg := rfl

@[simp] theorem State.retire_csD :
    (s.retire).csD = s.csD := rfl

@[simp] theorem State.retire_ssB :
    (s.retire).ssB = s.ssB := rfl

@[simp] theorem State.retire_flags :
    (s.retire).flags = s.flags := rfl

@[simp] theorem State.retire_ctl :
    (s.retire).ctl = s.ctl := rfl

@[simp] theorem State.retire_dbg :
    (s.retire).dbg = s.dbg := rfl

@[simp] theorem State.retire_pfx :
    (s.retire).pfx = s.pfx := rfl

@[simp] theorem State.retire_nextEip :
    (s.retire).nextEip = s.nextEip := rfl

@[simp] theorem State.retire_fpu :
    (s.retire).fpu = s.fpu := rfl

@[simp] theorem State.retire_mem :
    (s.retire).mem = s.mem := rfl

@[simp] theorem State.retire_ports :
    (s.retire).ports = s.ports := rfl

@[simp] theorem State.retire_bus :
    (s.retire).bus = s.bus := rfl

@[simp] theorem State.retire_result :
    (s.retire).result = s.result := rfl

/-! ### `setCF` -/

@[simp] theorem State.setCF_gpr (b : Bool) :
    (s.setCF b).gpr = s.gpr := rfl

@[simp] theorem State.setCF_seg (b : Bool) :
    (s.setCF b).seg = s.seg := rfl

@[simp] theorem State.setCF_csD (b : Bool) :
    (s.setCF b).csD = s.csD := rfl

@[simp] theorem State.setCF_ssB (b : Bool) :
    (s.setCF b).ssB = s.ssB := rfl

@[simp] theorem State.setCF_eip (b : Bool) :
    (s.setCF b).eip = s.eip := rfl

@[simp] theorem State.setCF_ctl (b : Bool) :
    (s.setCF b).ctl = s.ctl := rfl

@[simp] theorem State.setCF_dbg (b : Bool) :
    (s.setCF b).dbg = s.dbg := rfl

@[simp] theorem State.setCF_pfx (b : Bool) :
    (s.setCF b).pfx = s.pfx := rfl

@[simp] theorem State.setCF_nextEip (b : Bool) :
    (s.setCF b).nextEip = s.nextEip := rfl

@[simp] theorem State.setCF_fpu (b : Bool) :
    (s.setCF b).fpu = s.fpu := rfl

@[simp] theorem State.setCF_mem (b : Bool) :
    (s.setCF b).mem = s.mem := rfl

@[simp] theorem State.setCF_ports (b : Bool) :
    (s.setCF b).ports = s.ports := rfl

@[simp] theorem State.setCF_bus (b : Bool) :
    (s.setCF b).bus = s.bus := rfl

@[simp] theorem State.setCF_result (b : Bool) :
    (s.setCF b).result = s.result := rfl

/-! ### `setZF` -/

@[simp] theorem State.setZF_gpr (b : Bool) :
    (s.setZF b).gpr = s.gpr := rfl

@[simp] theorem State.setZF_seg (b : Bool) :
    (s.setZF b).seg = s.seg := rfl

@[simp] theorem State.setZF_csD (b : Bool) :
    (s.setZF b).csD = s.csD := rfl

@[simp] theorem State.setZF_ssB (b : Bool) :
    (s.setZF b).ssB = s.ssB := rfl

@[simp] theorem State.setZF_eip (b : Bool) :
    (s.setZF b).eip = s.eip := rfl

@[simp] theorem State.setZF_ctl (b : Bool) :
    (s.setZF b).ctl = s.ctl := rfl

@[simp] theorem State.setZF_dbg (b : Bool) :
    (s.setZF b).dbg = s.dbg := rfl

@[simp] theorem State.setZF_pfx (b : Bool) :
    (s.setZF b).pfx = s.pfx := rfl

@[simp] theorem State.setZF_nextEip (b : Bool) :
    (s.setZF b).nextEip = s.nextEip := rfl

@[simp] theorem State.setZF_fpu (b : Bool) :
    (s.setZF b).fpu = s.fpu := rfl

@[simp] theorem State.setZF_mem (b : Bool) :
    (s.setZF b).mem = s.mem := rfl

@[simp] theorem State.setZF_ports (b : Bool) :
    (s.setZF b).ports = s.ports := rfl

@[simp] theorem State.setZF_bus (b : Bool) :
    (s.setZF b).bus = s.bus := rfl

@[simp] theorem State.setZF_result (b : Bool) :
    (s.setZF b).result = s.result := rfl

/-! ### `record` -/

@[simp] theorem State.record_gpr (l : List BusAccess) :
    (s.record l).gpr = s.gpr := rfl

@[simp] theorem State.record_seg (l : List BusAccess) :
    (s.record l).seg = s.seg := rfl

@[simp] theorem State.record_csD (l : List BusAccess) :
    (s.record l).csD = s.csD := rfl

@[simp] theorem State.record_ssB (l : List BusAccess) :
    (s.record l).ssB = s.ssB := rfl

@[simp] theorem State.record_flags (l : List BusAccess) :
    (s.record l).flags = s.flags := rfl

@[simp] theorem State.record_eip (l : List BusAccess) :
    (s.record l).eip = s.eip := rfl

@[simp] theorem State.record_ctl (l : List BusAccess) :
    (s.record l).ctl = s.ctl := rfl

@[simp] theorem State.record_dbg (l : List BusAccess) :
    (s.record l).dbg = s.dbg := rfl

@[simp] theorem State.record_pfx (l : List BusAccess) :
    (s.record l).pfx = s.pfx := rfl

@[simp] theorem State.record_nextEip (l : List BusAccess) :
    (s.record l).nextEip = s.nextEip := rfl

@[simp] theorem State.record_fpu (l : List BusAccess) :
    (s.record l).fpu = s.fpu := rfl

@[simp] theorem State.record_mem (l : List BusAccess) :
    (s.record l).mem = s.mem := rfl

@[simp] theorem State.record_ports (l : List BusAccess) :
    (s.record l).ports = s.ports := rfl

@[simp] theorem State.record_result (l : List BusAccess) :
    (s.record l).result = s.result := rfl

/-! ### `pushFrame` -/

@[simp] theorem State.pushFrame_seg (ip : BitVec 32) :
    (s.pushFrame ip).seg = s.seg := rfl

@[simp] theorem State.pushFrame_csD (ip : BitVec 32) :
    (s.pushFrame ip).csD = s.csD := rfl

@[simp] theorem State.pushFrame_ssB (ip : BitVec 32) :
    (s.pushFrame ip).ssB = s.ssB := rfl

@[simp] theorem State.pushFrame_eip (ip : BitVec 32) :
    (s.pushFrame ip).eip = s.eip := rfl

@[simp] theorem State.pushFrame_ctl (ip : BitVec 32) :
    (s.pushFrame ip).ctl = s.ctl := rfl

@[simp] theorem State.pushFrame_dbg (ip : BitVec 32) :
    (s.pushFrame ip).dbg = s.dbg := rfl

@[simp] theorem State.pushFrame_pfx (ip : BitVec 32) :
    (s.pushFrame ip).pfx = s.pfx := rfl

@[simp] theorem State.pushFrame_nextEip (ip : BitVec 32) :
    (s.pushFrame ip).nextEip = s.nextEip := rfl

@[simp] theorem State.pushFrame_fpu (ip : BitVec 32) :
    (s.pushFrame ip).fpu = s.fpu := rfl

@[simp] theorem State.pushFrame_ports (ip : BitVec 32) :
    (s.pushFrame ip).ports = s.ports := rfl

@[simp] theorem State.pushFrame_bus (ip : BitVec 32) :
    (s.pushFrame ip).bus = s.bus := rfl

@[simp] theorem State.pushFrame_result (ip : BitVec 32) :
    (s.pushFrame ip).result = s.result := rfl

/-! ### `writeRM` -/

@[simp] theorem State.writeRMAt_seg (e : State) (w : Width) (rm : RM) (v : BitVec w.bits) :
    (s.writeRMAt e w rm v).seg = s.seg := by
  cases rm <;> rfl

@[simp] theorem State.writeRMAt_csD (e : State) (w : Width) (rm : RM) (v : BitVec w.bits) :
    (s.writeRMAt e w rm v).csD = s.csD := by
  cases rm <;> rfl

@[simp] theorem State.writeRMAt_ssB (e : State) (w : Width) (rm : RM) (v : BitVec w.bits) :
    (s.writeRMAt e w rm v).ssB = s.ssB := by
  cases rm <;> rfl

@[simp] theorem State.writeRMAt_flags (e : State) (w : Width) (rm : RM) (v : BitVec w.bits) :
    (s.writeRMAt e w rm v).flags = s.flags := by
  cases rm <;> rfl

@[simp] theorem State.writeRMAt_eip (e : State) (w : Width) (rm : RM) (v : BitVec w.bits) :
    (s.writeRMAt e w rm v).eip = s.eip := by
  cases rm <;> rfl

@[simp] theorem State.writeRMAt_ctl (e : State) (w : Width) (rm : RM) (v : BitVec w.bits) :
    (s.writeRMAt e w rm v).ctl = s.ctl := by
  cases rm <;> rfl

@[simp] theorem State.writeRMAt_dbg (e : State) (w : Width) (rm : RM) (v : BitVec w.bits) :
    (s.writeRMAt e w rm v).dbg = s.dbg := by
  cases rm <;> rfl

@[simp] theorem State.writeRMAt_pfx (e : State) (w : Width) (rm : RM) (v : BitVec w.bits) :
    (s.writeRMAt e w rm v).pfx = s.pfx := by
  cases rm <;> rfl

@[simp] theorem State.writeRMAt_nextEip (e : State) (w : Width) (rm : RM) (v : BitVec w.bits) :
    (s.writeRMAt e w rm v).nextEip = s.nextEip := by
  cases rm <;> rfl

@[simp] theorem State.writeRMAt_fpu (e : State) (w : Width) (rm : RM) (v : BitVec w.bits) :
    (s.writeRMAt e w rm v).fpu = s.fpu := by
  cases rm <;> rfl

@[simp] theorem State.writeRMAt_ports (e : State) (w : Width) (rm : RM) (v : BitVec w.bits) :
    (s.writeRMAt e w rm v).ports = s.ports := by
  cases rm <;> rfl

@[simp] theorem State.writeRMAt_bus (e : State) (w : Width) (rm : RM) (v : BitVec w.bits) :
    (s.writeRMAt e w rm v).bus = s.bus := by
  cases rm <;> rfl

@[simp] theorem State.writeRMAt_result (e : State) (w : Width) (rm : RM) (v : BitVec w.bits) :
    (s.writeRMAt e w rm v).result = s.result := by
  cases rm <;> rfl

@[simp] theorem State.writeRM_seg (w : Width) (rm : RM) (v : BitVec w.bits) :
    (s.writeRM w rm v).seg = s.seg := by
  cases rm <;> rfl

@[simp] theorem State.writeRM_csD (w : Width) (rm : RM) (v : BitVec w.bits) :
    (s.writeRM w rm v).csD = s.csD := by
  cases rm <;> rfl

@[simp] theorem State.writeRM_ssB (w : Width) (rm : RM) (v : BitVec w.bits) :
    (s.writeRM w rm v).ssB = s.ssB := by
  cases rm <;> rfl

@[simp] theorem State.writeRM_flags (w : Width) (rm : RM) (v : BitVec w.bits) :
    (s.writeRM w rm v).flags = s.flags := by
  cases rm <;> rfl

@[simp] theorem State.writeRM_eip (w : Width) (rm : RM) (v : BitVec w.bits) :
    (s.writeRM w rm v).eip = s.eip := by
  cases rm <;> rfl

@[simp] theorem State.writeRM_ctl (w : Width) (rm : RM) (v : BitVec w.bits) :
    (s.writeRM w rm v).ctl = s.ctl := by
  cases rm <;> rfl

@[simp] theorem State.writeRM_dbg (w : Width) (rm : RM) (v : BitVec w.bits) :
    (s.writeRM w rm v).dbg = s.dbg := by
  cases rm <;> rfl

@[simp] theorem State.writeRM_pfx (w : Width) (rm : RM) (v : BitVec w.bits) :
    (s.writeRM w rm v).pfx = s.pfx := by
  cases rm <;> rfl

@[simp] theorem State.writeRM_nextEip (w : Width) (rm : RM) (v : BitVec w.bits) :
    (s.writeRM w rm v).nextEip = s.nextEip := by
  cases rm <;> rfl

@[simp] theorem State.writeRM_fpu (w : Width) (rm : RM) (v : BitVec w.bits) :
    (s.writeRM w rm v).fpu = s.fpu := by
  cases rm <;> rfl

@[simp] theorem State.writeRM_ports (w : Width) (rm : RM) (v : BitVec w.bits) :
    (s.writeRM w rm v).ports = s.ports := by
  cases rm <;> rfl

@[simp] theorem State.writeRM_bus (w : Width) (rm : RM) (v : BitVec w.bits) :
    (s.writeRM w rm v).bus = s.bus := by
  cases rm <;> rfl

@[simp] theorem State.writeRM_result (w : Width) (rm : RM) (v : BitVec w.bits) :
    (s.writeRM w rm v).result = s.result := by
  cases rm <;> rfl

@[simp] theorem State.writePlace_seg (w : Width) (p : BitPlace) (v : BitVec w.bits) :
    (s.writePlace w p v).seg = s.seg := by
  cases p <;> rfl

@[simp] theorem State.writePlace_csD (w : Width) (p : BitPlace) (v : BitVec w.bits) :
    (s.writePlace w p v).csD = s.csD := by
  cases p <;> rfl

@[simp] theorem State.writePlace_ssB (w : Width) (p : BitPlace) (v : BitVec w.bits) :
    (s.writePlace w p v).ssB = s.ssB := by
  cases p <;> rfl

@[simp] theorem State.writePlace_flags (w : Width) (p : BitPlace) (v : BitVec w.bits) :
    (s.writePlace w p v).flags = s.flags := by
  cases p <;> rfl

@[simp] theorem State.writePlace_eip (w : Width) (p : BitPlace) (v : BitVec w.bits) :
    (s.writePlace w p v).eip = s.eip := by
  cases p <;> rfl

@[simp] theorem State.writePlace_ctl (w : Width) (p : BitPlace) (v : BitVec w.bits) :
    (s.writePlace w p v).ctl = s.ctl := by
  cases p <;> rfl

@[simp] theorem State.writePlace_dbg (w : Width) (p : BitPlace) (v : BitVec w.bits) :
    (s.writePlace w p v).dbg = s.dbg := by
  cases p <;> rfl

@[simp] theorem State.writePlace_pfx (w : Width) (p : BitPlace) (v : BitVec w.bits) :
    (s.writePlace w p v).pfx = s.pfx := by
  cases p <;> rfl

@[simp] theorem State.writePlace_nextEip (w : Width) (p : BitPlace) (v : BitVec w.bits) :
    (s.writePlace w p v).nextEip = s.nextEip := by
  cases p <;> rfl

@[simp] theorem State.writePlace_fpu (w : Width) (p : BitPlace) (v : BitVec w.bits) :
    (s.writePlace w p v).fpu = s.fpu := by
  cases p <;> rfl

@[simp] theorem State.writePlace_ports (w : Width) (p : BitPlace) (v : BitVec w.bits) :
    (s.writePlace w p v).ports = s.ports := by
  cases p <;> rfl

@[simp] theorem State.writePlace_bus (w : Width) (p : BitPlace) (v : BitVec w.bits) :
    (s.writePlace w p v).bus = s.bus := by
  cases p <;> rfl

@[simp] theorem State.writePlace_result (w : Width) (p : BitPlace) (v : BitVec w.bits) :
    (s.writePlace w p v).result = s.result := by
  cases p <;> rfl

@[simp] theorem State.writeProduct_seg (w : Width) (p : Int) :
    (s.writeProduct w p).seg = s.seg := by
  cases w <;> rfl

@[simp] theorem State.writeProduct_csD (w : Width) (p : Int) :
    (s.writeProduct w p).csD = s.csD := by
  cases w <;> rfl

@[simp] theorem State.writeProduct_ssB (w : Width) (p : Int) :
    (s.writeProduct w p).ssB = s.ssB := by
  cases w <;> rfl

@[simp] theorem State.writeProduct_flags (w : Width) (p : Int) :
    (s.writeProduct w p).flags = s.flags := by
  cases w <;> rfl

@[simp] theorem State.writeProduct_eip (w : Width) (p : Int) :
    (s.writeProduct w p).eip = s.eip := by
  cases w <;> rfl

@[simp] theorem State.writeProduct_ctl (w : Width) (p : Int) :
    (s.writeProduct w p).ctl = s.ctl := by
  cases w <;> rfl

@[simp] theorem State.writeProduct_dbg (w : Width) (p : Int) :
    (s.writeProduct w p).dbg = s.dbg := by
  cases w <;> rfl

@[simp] theorem State.writeProduct_pfx (w : Width) (p : Int) :
    (s.writeProduct w p).pfx = s.pfx := by
  cases w <;> rfl

@[simp] theorem State.writeProduct_nextEip (w : Width) (p : Int) :
    (s.writeProduct w p).nextEip = s.nextEip := by
  cases w <;> rfl

@[simp] theorem State.writeProduct_fpu (w : Width) (p : Int) :
    (s.writeProduct w p).fpu = s.fpu := by
  cases w <;> rfl

@[simp] theorem State.writeProduct_mem (w : Width) (p : Int) :
    (s.writeProduct w p).mem = s.mem := by
  cases w <;> rfl

@[simp] theorem State.writeProduct_ports (w : Width) (p : Int) :
    (s.writeProduct w p).ports = s.ports := by
  cases w <;> rfl

@[simp] theorem State.writeProduct_bus (w : Width) (p : Int) :
    (s.writeProduct w p).bus = s.bus := by
  cases w <;> rfl

@[simp] theorem State.writeProduct_result (w : Width) (p : Int) :
    (s.writeProduct w p).result = s.result := by
  cases w <;> rfl

@[simp] theorem State.writeQuotient_seg (w : Width) (q r : BitVec w.bits) :
    (s.writeQuotient w q r).seg = s.seg := by
  cases w <;> rfl

@[simp] theorem State.writeQuotient_csD (w : Width) (q r : BitVec w.bits) :
    (s.writeQuotient w q r).csD = s.csD := by
  cases w <;> rfl

@[simp] theorem State.writeQuotient_ssB (w : Width) (q r : BitVec w.bits) :
    (s.writeQuotient w q r).ssB = s.ssB := by
  cases w <;> rfl

@[simp] theorem State.writeQuotient_flags (w : Width) (q r : BitVec w.bits) :
    (s.writeQuotient w q r).flags = s.flags := by
  cases w <;> rfl

@[simp] theorem State.writeQuotient_eip (w : Width) (q r : BitVec w.bits) :
    (s.writeQuotient w q r).eip = s.eip := by
  cases w <;> rfl

@[simp] theorem State.writeQuotient_ctl (w : Width) (q r : BitVec w.bits) :
    (s.writeQuotient w q r).ctl = s.ctl := by
  cases w <;> rfl

@[simp] theorem State.writeQuotient_dbg (w : Width) (q r : BitVec w.bits) :
    (s.writeQuotient w q r).dbg = s.dbg := by
  cases w <;> rfl

@[simp] theorem State.writeQuotient_pfx (w : Width) (q r : BitVec w.bits) :
    (s.writeQuotient w q r).pfx = s.pfx := by
  cases w <;> rfl

@[simp] theorem State.writeQuotient_nextEip (w : Width) (q r : BitVec w.bits) :
    (s.writeQuotient w q r).nextEip = s.nextEip := by
  cases w <;> rfl

@[simp] theorem State.writeQuotient_fpu (w : Width) (q r : BitVec w.bits) :
    (s.writeQuotient w q r).fpu = s.fpu := by
  cases w <;> rfl

@[simp] theorem State.writeQuotient_mem (w : Width) (q r : BitVec w.bits) :
    (s.writeQuotient w q r).mem = s.mem := by
  cases w <;> rfl

@[simp] theorem State.writeQuotient_ports (w : Width) (q r : BitVec w.bits) :
    (s.writeQuotient w q r).ports = s.ports := by
  cases w <;> rfl

@[simp] theorem State.writeQuotient_bus (w : Width) (q r : BitVec w.bits) :
    (s.writeQuotient w q r).bus = s.bus := by
  cases w <;> rfl

@[simp] theorem State.writeQuotient_result (w : Width) (q r : BitVec w.bits) :
    (s.writeQuotient w q r).result = s.result := by
  cases w <;> rfl

/-! ### What the fields determine -/

variable {s} {t : State}

theorem opsz_congr (h1 : t.csD = s.csD) (h2 : t.pfx = s.pfx) : t.opsz = s.opsz := by
  simp [State.opsz, h1, h2]

theorem adsz_congr (h1 : t.csD = s.csD) (h2 : t.pfx = s.pfx) : t.adsz = s.adsz := by
  simp [State.adsz, h1, h2]

theorem stksz_congr (h : t.ssB = s.ssB) : t.stksz = s.stksz := by
  simp [State.stksz, h]

theorem protectedMode_congr (h : t.ctl = s.ctl) : t.protectedMode = s.protectedMode := by
  simp [State.protectedMode, h]

theorem lin_congr (h : t.seg = s.seg) (r : SegReg) (off : BitVec 32) : t.lin r off = s.lin r off := by
  simp [State.lin, h]

theorem readReg_congr (h : t.gpr = s.gpr) (w : Width) (r : Reg) : t.readReg w r = s.readReg w r := by
  simp [State.readReg, h]

theorem readIndex_congr (h : t.gpr = s.gpr) (z : Size) (r : Reg) :
    t.readIndex z r = s.readIndex z r := by
  simp [State.readIndex, State.readReg, h]

theorem memRead_congr (h : t.mem = s.mem) (w : Width) (a : BitVec 32) :
    t.memRead w a = s.memRead w a := by
  simp [State.memRead, h]

theorem memOffset_congr (h : t.gpr = s.gpr) (m : MemOp) : t.memOffset m = s.memOffset m := by
  cases m <;>
    simp only [State.memOffset, State.sibIndex, readReg_congr h]
  case based16 b d => cases b <;> simp only [State.base16, readReg_congr h]

theorem memSeg_congr (h : t.pfx = s.pfx) (m : MemOp) : t.memSeg m = s.memSeg m := by
  simp [State.memSeg, State.overridden, h]

theorem memAddr_congr (h1 : t.gpr = s.gpr) (h2 : t.seg = s.seg) (h3 : t.pfx = s.pfx) (m : MemOp) :
    t.memAddr m = s.memAddr m := by
  simp only [State.memAddr, memSeg_congr h3, memOffset_congr h1, lin_congr h2]

theorem stackPtr_congr (h1 : t.gpr = s.gpr) (h2 : t.ssB = s.ssB) : t.stackPtr = s.stackPtr := by
  simp only [State.stackPtr, stksz_congr h2, readIndex_congr h1]

end Sys2Proof.Machine
end

