-- ==== Sys2Proof/Laws/Accesses.lean ====
section
/-! SUPPORT. What the record of a step can hold: which bytes the pieces of an access list read and write,
and the one form every completed instruction of a step has. -/

namespace Sys2Proof.Machine

/-! ### Bytes of a list of calls -/

@[simp] theorem readsByte_nil (p : Nat) : ReadsByte [] p ↔ False := by simp [ReadsByte]

@[simp] theorem writesByte_nil (p : Nat) : WritesByte [] p ↔ False := by simp [WritesByte]

@[simp] theorem readsByte_append (l k : List BusAccess) (p : Nat) :
    ReadsByte (l ++ k) p ↔ ReadsByte l p ∨ ReadsByte k p := by
  simp only [ReadsByte, List.mem_append]
  constructor
  · rintro ⟨a, n, h | h, hp⟩
    · exact .inl ⟨a, n, h, hp⟩
    · exact .inr ⟨a, n, h, hp⟩
  · rintro (⟨a, n, h, hp⟩ | ⟨a, n, h, hp⟩)
    · exact ⟨a, n, .inl h, hp⟩
    · exact ⟨a, n, .inr h, hp⟩

@[simp] theorem writesByte_append (l k : List BusAccess) (p : Nat) :
    WritesByte (l ++ k) p ↔ WritesByte l p ∨ WritesByte k p := by
  simp only [WritesByte, List.mem_append]
  constructor
  · rintro ⟨a, n, h | h, hp⟩
    · exact .inl ⟨a, n, h, hp⟩
    · exact .inr ⟨a, n, h, hp⟩
  · rintro (⟨a, n, h, hp⟩ | ⟨a, n, h, hp⟩)
    · exact ⟨a, n, .inl h, hp⟩
    · exact ⟨a, n, .inr h, hp⟩

@[simp] theorem readsByte_read (a : BitVec 32) (n p : Nat) : ReadsByte [.read a n] p ↔ InSpan a n p := by
  simp [ReadsByte]

@[simp] theorem readsByte_write (a : BitVec 32) (n p : Nat) : ReadsByte [.write a n] p ↔ False := by
  simp [ReadsByte]

@[simp] theorem writesByte_write (a : BitVec 32) (n p : Nat) :
    WritesByte [.write a n] p ↔ InSpan a n p := by
  simp [WritesByte]

@[simp] theorem writesByte_read (a : BitVec 32) (n p : Nat) : WritesByte [.read a n] p ↔ False := by
  simp [WritesByte]

/-- A span read reads each byte of its span and no other (R84). -/
@[simp] theorem readsByte_spanReads (a : BitVec 32) (n p : Nat) :
    ReadsByte (spanReads a n) p ↔ InSpan a n p := by
  simp only [ReadsByte, spanReads, InSpan, List.mem_map, List.mem_range, BusAccess.read.injEq]
  constructor
  · rintro ⟨b, _, ⟨k, hk, rfl, rfl⟩, j, hj, rfl⟩
    obtain rfl : j = 0 := by omega
    exact ⟨k, hk, by simp⟩
  · rintro ⟨j, hj, rfl⟩
    exact ⟨_, _, ⟨j, hj, rfl, rfl⟩, 0, by omega, by simp⟩

/-- A span write writes each byte of its span and no other (R84). -/
@[simp] theorem writesByte_spanWrites (a : BitVec 32) (n p : Nat) :
    WritesByte (spanWrites a n) p ↔ InSpan a n p := by
  simp only [WritesByte, spanWrites, InSpan, List.mem_map, List.mem_range, BusAccess.write.injEq]
  constructor
  · rintro ⟨b, _, ⟨k, hk, rfl, rfl⟩, j, hj, rfl⟩
    obtain rfl : j = 0 := by omega
    exact ⟨k, hk, by simp⟩
  · rintro ⟨j, hj, rfl⟩
    exact ⟨_, _, ⟨j, hj, rfl, rfl⟩, 0, by omega, by simp⟩

@[simp] theorem writesByte_spanReads (a : BitVec 32) (n p : Nat) : ¬ WritesByte (spanReads a n) p := by
  simp [WritesByte, spanReads]

@[simp] theorem readsByte_spanWrites (a : BitVec 32) (n p : Nat) : ¬ ReadsByte (spanWrites a n) p := by
  simp [ReadsByte, spanWrites]

/-! ### The calls of a memory operand -/

@[simp] theorem rmReads_mem (s : State) (w : Width) (m : MemOp) :
    s.rmReads w (.mem m) = [.read (s.memAddr m) w.bytes] := rfl

@[simp] theorem rmWrites_mem (s : State) (w : Width) (m : MemOp) :
    s.rmWrites w (.mem m) = [.write (s.memAddr m) w.bytes] := rfl

@[simp] theorem rmModifies_mem (s : State) (w : Width) (m : MemOp) :
    s.rmModifies w (.mem m) = [.read (s.memAddr m) w.bytes, .write (s.memAddr m) w.bytes] := rfl

/-- Every group-2 instruction makes the calls of its operation (R380). -/
theorem accesses_shiftInstr (s : State) (k : ShiftKind) (f : ShiftForm) :
    s.accesses (shiftInstr k f) = s.shiftAccesses k f := by
  cases k <;> rfl

/-- Every SETcc makes its write only (R298). -/
theorem accesses_setccInstr (s : State) (cc : Cond) (rm : RM) :
    s.accesses (setccInstr cc rm) = s.rmWrites .w8 rm := by
  cases cc <;> rfl

/-- The steps of a group-2 operation, in one expression (R230, R231). -/
theorem steps_eq (k : ShiftKind) (w : Nat) (count : BitVec 8) :
    k.steps w count =
      if k = .rcl ∨ k = .rcr then count.toNat % 32 % (w + 1) else count.toNat % 32 := by
  cases k <;> rfl

/-! ### The end of a step -/

@[simp] theorem State.record_bus_eq (s : State) (l : List BusAccess) :
    (s.record l).bus = l.reverse ++ s.bus := rfl

@[simp] theorem State.record_nil (s : State) : s.record [] = s := rfl

/-- Everything an instruction of a step that completes can have done. -/
theorem runInstr_next {i : Instr} {n : Nat} {s u : State} (h : runInstr i n s = .next u) :
    ∃ t, exec i (s.withLength n) = .next t ∧
      u = (t.record ((s.withLength n).fetches n ++ (s.withLength n).accessesTo i t)).endStep := by
  simp only [runInstr] at h
  cases he : exec i (s.withLength n) with
  | next t =>
    rw [he] at h
    exact ⟨t, rfl, (Host.Outcome.next.inj h).symm⟩
  | fault r => rw [he] at h; cases h
  | refused r => rw [he] at h; cases h

/-! ### The state after a step that stops -/

/-- Nothing but PrefixState, the record and the model's own fields differs after a step that stops (R671). -/
theorem afterStop_eq (s : State) :
    s.afterStop = { s with
      pfx := .empty
      nextEip := 0
      result := none
      bus := s.callsOfStop.reverse ++ s.bus } := rfl

theorem callsOfStop_undecodable {s : State} (h : decodeAt s.csD s.window = none) :
    s.callsOfStop = s.fetches (bytesFetched s.csD s.window) := by
  simp [State.callsOfStop, h]

theorem callsOfStop_decoded {s : State} {d : Decoded} (h : decodeAt s.csD s.window = some d) :
    s.callsOfStop = s.fetches d.length ++
      State.operandReads ({ s.beginStep with pfx := d.pfx }.withLength d.length) d.instr := by
  simp [State.callsOfStop, h]

theorem afterStep_next {s t : State} (h : step s = .next t) : s.afterStep = t := by
  have hc : cycle s = .next t := h
  simp [State.afterStep, hc]

theorem afterStep_fault {s : State} {r : Fault} (h : step s = .fault r) : s.afterStep = s.afterStop := by
  have hc : cycle s = .fault r := h
  simp [State.afterStep, hc]

theorem afterStep_refused {s : State} {r : Refusal} (h : step s = .refused r) :
    s.afterStep = s.afterStop := by
  have hc : cycle s = .refused r := h
  simp [State.afterStep, hc]

/-- Every refused step leaves a state that meets the invariants if the state before it did. -/
theorem afterStop_inv {s : State} (h : s.Inv) : s.afterStop.Inv := ⟨h.1, rfl, rfl⟩

end Sys2Proof.Machine
end

