-- ==== Sys2Proof/Laws/Decode.lean ====
section
/-! SUPPORT. The laws of the encoding's parts: a field that is put is taken back, whatever follows it. -/

namespace Sys2Proof

/-! ### Codes -/

@[simp] theorem Reg.ofCode_code (r : Reg) : Reg.ofCode r.code = r := by cases r <;> rfl

@[simp] theorem Reg.code_ofCode (c : BitVec 3) : (Reg.ofCode c).code = c := by
  revert c; decide

@[simp] theorem SegReg.ofCode_code (r : SegReg) : SegReg.ofCode r.code = some r := by cases r <;> rfl

@[simp] theorem CtlReg.ofCode_code (r : CtlReg) : CtlReg.ofCode r.code = some r := by cases r <;> rfl

@[simp] theorem DbgReg.ofCode_code (r : DbgReg) : DbgReg.ofCode r.code = some r := by cases r <;> rfl

@[simp] theorem Base16.ofCode_code (b : Base16) : Base16.ofCode b.code = b := by cases b <;> rfl

@[simp] theorem Scale.ofCode_code (s : Scale) : Scale.ofCode s.code = s := by cases s <;> rfl

theorem Reg.code_inj {r q : Reg} : r.code = q.code ↔ r = q :=
  ⟨fun h => by rw [← Reg.ofCode_code r, h, Reg.ofCode_code], fun h => by rw [h]⟩

theorem Reg.code_eq_five (r : Reg) : r.code = 5#3 ↔ r = .ebp := by cases r <;> decide

theorem Reg.code_eq_four (r : Reg) : r.code = 4#3 ↔ r = .esp := by cases r <;> decide

theorem Base16.code_eq_six (b : Base16) : b.code = 6#3 ↔ b = .bp := by cases b <;> decide

/-! ### Fields of a byte -/

@[simp] theorem hi2_pack (x : BitVec 2) (y z : BitVec 3) : hi2 (pack x y z) = x := by
  revert x y z; decide

@[simp] theorem mid3_pack (x : BitVec 2) (y z : BitVec 3) : mid3 (pack x y z) = y := by
  revert x y z; decide

@[simp] theorem lo3_pack (x : BitVec 2) (y z : BitVec 3) : lo3 (pack x y z) = z := by
  revert x y z; decide

/-! ### Trailing fields -/

@[simp] theorem take8_cons (b : Byte) (bs : List Byte) (k : Byte → List Byte → Parse) :
    take8 (b :: bs) k = k b bs := rfl

@[simp] theorem take16_put16 (v : BitVec 16) (bs : List Byte) (k : BitVec 16 → List Byte → Parse) :
    take16 (put16 v ++ bs) k = k v bs := by
  have h : v.extractLsb' 8 8 ++ v.extractLsb' 0 8 = v := by
    apply BitVec.eq_of_getLsbD_eq
    intro i hi
    simp only [BitVec.getLsbD_append, BitVec.getLsbD_extractLsb', Nat.zero_add]
    split
    · simp_all
    · rw [show 8 + (i - 8) = i by omega]
      simp [show i - 8 < 8 by omega]
  simp only [put16, List.cons_append, List.nil_append, take16]
  rw [h]

@[simp] theorem take32_put32 (v : BitVec 32) (bs : List Byte) (k : BitVec 32 → List Byte → Parse) :
    take32 (put32 v ++ bs) k = k v bs := by
  have h : v.extractLsb' 24 8 ++ v.extractLsb' 16 8 ++ v.extractLsb' 8 8 ++ v.extractLsb' 0 8 = v := by
    apply BitVec.eq_of_getLsbD_eq
    intro i hi
    simp only [BitVec.getLsbD_append, BitVec.getLsbD_extractLsb', Nat.zero_add]
    split
    · simp_all
    · split
      · rw [show 8 + (i - 8) = i by omega]
        simp_all
      · split
        · rw [show 16 + (i - 8 - 8) = i by omega]
          simp_all
        · rw [show 24 + (i - 8 - 8 - 8) = i by omega]
          simp [show i - 8 - 8 - 8 < 8 by omega]
  simp only [put32, List.cons_append, List.nil_append, take32]
  rw [h]

/-- A zero-extended field comes back where it fits its size. -/
theorem takeImm_putImm {z : Size} {v : BitVec 32} (h : WellFormed.immOk z v = true) (bs : List Byte)
    (k : BitVec 32 → List Byte → Parse) : takeImm z (putImm z v ++ bs) k = k v bs := by
  cases z
  · have h : v.toNat < 2 ^ 16 := by simpa [WellFormed.immOk] using h
    have e : (v.setWidth 16).setWidth 32 = v := by
      apply BitVec.eq_of_toNat_eq
      simp only [BitVec.toNat_setWidth]
      omega
    simp [takeImm, putImm, e]
  · exact take32_put32 v bs k

/-- A sign-extended displacement comes back where it fits its size. -/
theorem takeRel_putImm {z : Size} {v : BitVec 32} (h : WellFormed.relOk z v = true) (bs : List Byte)
    (k : BitVec 32 → List Byte → Parse) : takeRel z (putImm z v ++ bs) k = k v bs := by
  cases z
  · have h : v = (v.setWidth 16).signExtend 32 := by simpa [WellFormed.relOk] using h
    simp only [takeRel, putImm, take16_put16]
    rw [← h]
  · exact take32_put32 v bs k

/-! ### Operands -/

/-- A memory operand comes back where it is well formed. -/
theorem takeRM_putM {a : Size} {m : MemOp} (h : WellFormed.memOk a m = true) (g : BitVec 3)
    (bs : List Byte) (k : BitVec 3 → RM → List Byte → Parse) :
    takeRM a (putM g m ++ bs) k = k g (.mem m) bs := by
  cases m with
  | direct16 d =>
    obtain rfl : Size.s16 = a := by simpa [WellFormed.memOk, MemOp.size] using h
    simp [putM, takeRM, takeMem]
  | direct32 d =>
    obtain rfl : Size.s32 = a := by simpa [WellFormed.memOk, MemOp.size] using h
    simp [putM, takeRM, takeMem]
  | based16 b d =>
    obtain rfl : Size.s16 = a := by
      simp only [WellFormed.memOk, MemOp.size, Bool.and_eq_true, beq_iff_eq] at h
      exact h.1
    cases d with
    | none =>
      have hb : b ≠ .bp := by rintro rfl; simp [WellFormed.memOk] at h
      simp [putM, takeRM, takeMem, Base16.code_eq_six, hb]
    | d8 d => simp [putM, takeRM, takeMem]
    | d16 d => simp [putM, takeRM, takeMem]
  | based32 b d =>
    obtain rfl : Size.s32 = a := by
      simp only [WellFormed.memOk, MemOp.size, Bool.and_eq_true, beq_iff_eq] at h
      exact h.1
    have hs : b ≠ .esp := by rintro rfl; simp [WellFormed.memOk] at h
    cases d with
    | none =>
      have hb : b ≠ .ebp := by rintro rfl; simp [WellFormed.memOk] at h
      simp [putM, takeRM, takeMem, Reg.code_eq_five, Reg.code_eq_four, hb, hs]
    | d8 d => simp [putM, takeRM, takeMem, Reg.code_eq_four, hs]
    | d32 d => simp [putM, takeRM, takeMem, Reg.code_eq_four, hs]
  | sib sc ix b d =>
    obtain rfl : Size.s32 = a := by
      simp only [WellFormed.memOk, MemOp.size, Bool.and_eq_true, beq_iff_eq] at h
      exact h.1
    cases d with
    | none =>
      have hb : b ≠ .ebp := by rintro rfl; simp [WellFormed.memOk] at h
      simp [putM, takeRM, takeMem, takeSib, Reg.code_eq_five, hb]
    | d8 d => simp [putM, takeRM, takeMem, takeSib]
    | d32 d => simp [putM, takeRM, takeMem, takeSib]
  | sibNoBase sc ix d =>
    obtain rfl : Size.s32 = a := by simpa [WellFormed.memOk, MemOp.size] using h
    simp [putM, takeRM, takeMem, takeSib]

/-- A register-or-memory operand comes back where it is well formed. -/
theorem takeRM_putRM {a : Size} {rm : RM} (h : WellFormed.rmOk a rm = true) (g : BitVec 3)
    (bs : List Byte) (k : BitVec 3 → RM → List Byte → Parse) :
    takeRM a (putRM g rm ++ bs) k = k g rm bs := by
  cases rm with
  | reg r => simp [putRM, takeRM]
  | mem m => exact takeRM_putM h g bs k

/-- A register operand of an FPU row comes back. -/
theorem takeRM_reg (a : Size) (g i : BitVec 3) (bs : List Byte) (k : BitVec 3 → RM → List Byte → Parse) :
    takeRM a (pack 3 g i :: bs) k = k g (.reg (.ofCode i)) bs := by
  simp [takeRM]

theorem takeM_putM {a : Size} {m : MemOp} (h : WellFormed.memOk a m = true) (g : BitVec 3)
    (bs : List Byte) (k : BitVec 3 → MemOp → List Byte → Parse) :
    takeM a (putM g m ++ bs) k = k g m bs := by
  simp [takeM, takeRM_putM h]

/-! ### Memory forms -/

/-- A memory operand takes part of the length of its encoding. -/
theorem putM_length_le (g : BitVec 3) (m : MemOp) : (putM g m).length ≤ 6 := by
  cases m with
  | based16 b d => cases d <;> simp [putM, put16]
  | based32 b d => cases d <;> simp [putM, put32]
  | sib sc ix b d => cases d <;> simp [putM, put32]
  | _ => simp [putM, put16, put32]

end Sys2Proof
end

