-- ==== Sys2Proof/Laws/Memory.lean ====
section
/-! SUPPORT. The laws of memory: a read after a write, what a write leaves alone, and that every memory
operation keeps the canonical form. -/

namespace Sys2Proof

theorem Width.pow_bytes (w : Width) : 256 ^ w.bytes = 2 ^ w.bits := by cases w <;> rfl

theorem Width.bits_eq (w : Width) : w.bits = 8 * w.bytes := by cases w <;> rfl

theorem Width.bytes_le (w : Width) : w.bytes ≤ 4 := by cases w <;> decide

end Sys2Proof

namespace Sys2Proof.Machine

/-! ### One byte -/

@[simp] theorem Memory.get_nil (a : Nat) : Memory.get [] a = Config.unwrittenByte := rfl

theorem Memory.get_without_self (m : Memory) (a : Nat) : (m.without a).get a = Config.unwrittenByte := by
  induction m with
  | nil => rfl
  | cons c m ih =>
    by_cases h : c.1 = a
    · simpa [Memory.without, h] using ih
    · simpa [Memory.without, h, Memory.get, Ne.symm h] using ih

theorem Memory.get_without_of_ne (m : Memory) {a p : Nat} (hp : p ≠ a) :
    (m.without a).get p = m.get p := by
  induction m with
  | nil => rfl
  | cons c m ih =>
    by_cases h : c.1 = a
    · obtain ⟨k, v⟩ := c
      obtain rfl : k = a := h
      simpa [Memory.without, Memory.get, hp] using ih
    · by_cases hc : p = c.1
      · simp [Memory.without, h, Memory.get, hc]
      · simpa [Memory.without, h, Memory.get, hc] using ih

theorem Memory.get_place (m : Memory) (a p : Nat) (b : Byte) (h : ∀ c ∈ m, c.1 ≠ a) :
    (m.place a b).get p = if p = a then b else m.get p := by
  induction m with
  | nil => simp [Memory.place, Memory.get]
  | cons c m ih =>
    have hc : c.1 ≠ a := h c (by simp)
    have ih := ih fun c hc => h c (by simp [hc])
    simp only [Memory.place]
    split
    · simp [Memory.get]
    · simp only [Memory.get, ih]
      by_cases h1 : p = a <;> by_cases h2 : p = c.1 <;> simp_all

/-- A byte read after a byte write: the written one at its address, the old one elsewhere. -/
theorem Memory.get_put (m : Memory) (a p : Nat) (b : Byte) :
    (m.put a b).get p = if p = a then b else m.get p := by
  unfold Memory.put
  split
  · rename_i hb
    split
    · subst_vars; exact m.get_without_self _
    · exact m.get_without_of_ne ‹_›
  · rw [Memory.get_place _ _ _ _ fun c hc => by simpa using (List.mem_filter.1 hc).2]
    split
    · rfl
    · exact m.get_without_of_ne ‹_›

@[simp] theorem Memory.get_put_self (m : Memory) (a : Nat) (b : Byte) : (m.put a b).get a = b := by
  simp [Memory.get_put]

theorem Memory.get_put_of_ne (m : Memory) {a p : Nat} (b : Byte) (h : p ≠ a) :
    (m.put a b).get p = m.get p := by
  simp [Memory.get_put, h]

/-! ### The canonical form -/

theorem Memory.wfFrom_mono {m : Memory} {lo lo' : Nat} (h : m.wfFrom lo = true) (hle : lo' ≤ lo) :
    m.wfFrom lo' = true := by
  cases m with
  | nil => rfl
  | cons c m =>
    simp only [Memory.wfFrom, Bool.and_eq_true, decide_eq_true_eq] at h ⊢
    exact ⟨⟨⟨by omega, h.1.1.2⟩, h.1.2⟩, h.2⟩

theorem Memory.wfFrom_without {m : Memory} {lo : Nat} (h : m.wfFrom lo = true) (a : Nat) :
    (m.without a).wfFrom lo = true := by
  induction m generalizing lo with
  | nil => rfl
  | cons c m ih =>
    simp only [Memory.wfFrom, Bool.and_eq_true, decide_eq_true_eq] at h
    have ih := ih h.2
    by_cases hc : c.1 = a
    · simpa [Memory.without, hc] using Memory.wfFrom_mono ih (by omega : lo ≤ c.1 + 1)
    · simp only [Memory.without, bne_iff_ne, ne_eq, hc, not_false_eq_true, List.filter_cons_of_pos,
        Memory.wfFrom, Bool.and_eq_true, decide_eq_true_eq]
      exact ⟨by simpa using h.1, ih⟩

theorem Memory.wfFrom_place {m : Memory} {lo a : Nat} {b : Byte} (h : m.wfFrom lo = true) (hlo : lo ≤ a)
    (ha : a < 2 ^ 32) (hb : b ≠ Config.unwrittenByte) (hm : ∀ c ∈ m, c.1 ≠ a) :
    (m.place a b).wfFrom lo = true := by
  induction m generalizing lo with
  | nil => simp only [Memory.place, Memory.wfFrom]; simp [hlo, hb]; omega
  | cons c m ih =>
    simp only [Memory.wfFrom, Bool.and_eq_true, decide_eq_true_eq] at h
    have hc : c.1 ≠ a := hm c (by simp)
    simp only [Memory.place]
    split
    · simp only [Memory.wfFrom, Bool.and_eq_true, decide_eq_true_eq, bne_iff_ne]
      exact ⟨⟨⟨hlo, ha⟩, hb⟩, ⟨⟨by omega, h.1.1.2⟩, by simpa using h.1.2⟩, h.2⟩
    · simp only [Memory.wfFrom, Bool.and_eq_true, decide_eq_true_eq]
      exact ⟨h.1, ih h.2 (by omega) fun c hc => hm c (by simp [hc])⟩

/-- A byte write keeps the canonical form. -/
theorem Memory.wf_put {m : Memory} (h : m.wf = true) {a : Nat} (ha : a < 2 ^ 32) (b : Byte) :
    (m.put a b).wf = true := by
  unfold Memory.put
  split
  · exact Memory.wfFrom_without h a
  · exact Memory.wfFrom_place (Memory.wfFrom_without h a) (by omega) ha ‹_› fun c hc => by
      simpa using (List.mem_filter.1 hc).2

/-- A write of a byte sequence keeps the canonical form. -/
theorem Memory.wf_writeBytes {m : Memory} (h : m.wf = true) (a : BitVec 32) (bs : List Byte) :
    (m.writeBytes a bs).wf = true := by
  induction bs generalizing m a with
  | nil => exact h
  | cons b bs ih => exact ih (Memory.wf_put h a.isLt b) (a + 1)

theorem memWrite_wf {s : State} (h : s.mem.wf = true) (w : Width) (a : BitVec 32) (v : BitVec w.bits) :
    (s.memWrite w a v).mem.wf = true :=
  Memory.wf_writeBytes h a _

theorem memWriteSpan_wf {s : State} (h : s.mem.wf = true) (a : BitVec 32) (bs : List Byte) :
    (s.memWriteSpan a bs).mem.wf = true :=
  Memory.wf_writeBytes h a bs

theorem placeBytes_wf {s : State} (h : s.mem.wf = true) (bs : List Byte) :
    (s.placeBytes bs).mem.wf = true := by
  have key : ∀ (l : List (Byte × Nat)) (m : Memory), m.wf = true →
      (l.foldl (fun m p => m.put (s.fetchAddr p.2).toNat p.1) m).wf = true := by
    intro l
    induction l with
    | nil => exact fun m hm => hm
    | cons p l ih => exact fun m hm => ih _ (Memory.wf_put hm (s.fetchAddr p.2).isLt p.1)
  exact key _ _ h

theorem reset_wf : State.reset.mem.wf = true := rfl

/-! ### Byte sequences -/

@[simp] theorem Memory.readBytes_length (m : Memory) (a : BitVec 32) (n : Nat) :
    (m.readBytes a n).length = n := by
  induction n generalizing a with
  | zero => rfl
  | succ n ih => simp [Memory.readBytes, ih]

theorem add_ofNat_succ (a : BitVec 32) (k : Nat) :
    a + 1 + BitVec.ofNat 32 k = a + BitVec.ofNat 32 (k + 1) := by
  rw [BitVec.add_assoc]
  congr 1
  apply BitVec.eq_of_toNat_eq
  simp [BitVec.toNat_ofNat, Nat.add_comm]

/-- Byte `k` of a read sequence is the byte at that distance. -/
theorem Memory.readBytes_getElem (m : Memory) (a : BitVec 32) (n k : Nat)
    (h : k < (m.readBytes a n).length) :
    (m.readBytes a n)[k] = m.get (a + BitVec.ofNat 32 k).toNat := by
  induction n generalizing a k with
  | zero => simp [Memory.readBytes] at h
  | succ n ih =>
    cases k with
    | zero => simp [Memory.readBytes]
    | succ k => simp only [Memory.readBytes, List.getElem_cons_succ, ih, add_ofNat_succ]

/-- A read of `n` bytes depends on those bytes only. -/
theorem Memory.readBytes_congr {m m' : Memory} {a : BitVec 32} {n : Nat}
    (h : ∀ k, k < n → m'.get (a + BitVec.ofNat 32 k).toNat = m.get (a + BitVec.ofNat 32 k).toNat) :
    m'.readBytes a n = m.readBytes a n :=
  List.ext_getElem (by simp) fun k h1 h2 => by
    simpa only [Memory.readBytes_getElem] using h k (by simpa using h1)

theorem toNat_add_ofNat_inj (a : BitVec 32) {i j : Nat} (hi : i < 2 ^ 32) (hj : j < 2 ^ 32)
    (h : (a + BitVec.ofNat 32 i).toNat = (a + BitVec.ofNat 32 j).toNat) : i = j := by
  simp only [BitVec.toNat_add, BitVec.toNat_ofNat] at h
  omega

/-- A written sequence at any byte: the sequence's own byte inside, the old byte outside. -/
theorem Memory.get_writeBytes (m : Memory) (a : BitVec 32) (bs : List Byte)
    (hn : bs.length ≤ 2 ^ 32) (p : Nat) :
    (∀ k (h : k < bs.length), p = (a + BitVec.ofNat 32 k).toNat → (m.writeBytes a bs).get p = bs[k]) ∧
    ((∀ k, k < bs.length → p ≠ (a + BitVec.ofNat 32 k).toNat) → (m.writeBytes a bs).get p = m.get p) := by
  induction bs generalizing m a with
  | nil => simp [Memory.writeBytes]
  | cons b bs ih =>
    simp only [List.length_cons] at hn
    have ih := ih (m.put a.toNat b) (a + 1) (by omega)
    refine ⟨fun k h hp => ?_, fun hp => ?_⟩
    · cases k with
      | zero =>
        have hout : ∀ k, k < bs.length → p ≠ (a + 1 + BitVec.ofNat 32 k).toNat := by
          intro k hk he
          rw [add_ofNat_succ] at he
          have := toNat_add_ofNat_inj a (i := 0) (j := k + 1) (by omega) (by omega) (hp ▸ he)
          omega
        simp only [BitVec.add_zero] at hp
        simpa [Memory.writeBytes, hp] using ih.2 hout
      | succ k =>
        simp only [List.length_cons] at h
        exact ih.1 k (by omega) (by rw [add_ofNat_succ]; exact hp)
    · have h0 : p ≠ a.toNat := by simpa using hp 0 (by simp)
      rw [Memory.writeBytes, ih.2 fun k hk => by
        rw [add_ofNat_succ]; exact hp (k + 1) (by simp; omega)]
      exact m.get_put_of_ne b h0

/-- A sequence reads back after it is written. -/
theorem Memory.readBytes_writeBytes (m : Memory) (a : BitVec 32) (bs : List Byte)
    (hn : bs.length ≤ 2 ^ 32) : (m.writeBytes a bs).readBytes a bs.length = bs :=
  List.ext_getElem (by simp) fun k h1 h2 => by
    rw [Memory.readBytes_getElem]
    exact (m.get_writeBytes a bs hn _).1 k h2 rfl

/-- A write leaves a sequence alone that shares no address with it. -/
theorem Memory.readBytes_writeBytes_of_disjoint (m : Memory) (a b : BitVec 32) (bs : List Byte) (n : Nat)
    (hn : bs.length ≤ 2 ^ 32)
    (h : ∀ i j, i < n → j < bs.length →
      (b + BitVec.ofNat 32 i).toNat ≠ (a + BitVec.ofNat 32 j).toNat) :
    (m.writeBytes a bs).readBytes b n = m.readBytes b n :=
  Memory.readBytes_congr fun i hi =>
    (m.get_writeBytes a bs hn _).2 fun j hj => h i j hi hj

/-- Two adjacent sequences are one. -/
theorem Memory.readBytes_append (m : Memory) (a : BitVec 32) (i j : Nat) :
    m.readBytes a (i + j) = m.readBytes a i ++ m.readBytes (a + BitVec.ofNat 32 i) j := by
  induction i generalizing a with
  | zero => simp [Memory.readBytes]
  | succ i ih =>
    rw [Nat.succ_add, Memory.readBytes, ih, Memory.readBytes, List.cons_append, add_ofNat_succ]

/-! ### Little-endian numbers -/

@[simp] theorem leBytes_length (n v : Nat) : (leBytes n v).length = n := by
  induction n generalizing v with
  | zero => rfl
  | succ n ih => simp [leBytes, ih]

theorem leNat_leBytes (n v : Nat) : leNat (leBytes n v) = v % 256 ^ n := by
  induction n generalizing v with
  | zero => simp [leBytes, leNat, Nat.mod_one]
  | succ n ih =>
    simp only [leBytes, leNat, ih, BitVec.toNat_ofNat]
    rw [show (256 : Nat) ^ (n + 1) = 256 * 256 ^ n from by rw [Nat.pow_succ]; ring, Nat.mod_mul]

theorem leNat_lt (bs : List Byte) : leNat bs < 256 ^ bs.length := by
  induction bs with
  | nil => simp [leNat]
  | cons b bs ih =>
    have := b.isLt
    simp only [leNat, List.length_cons, Nat.pow_succ]
    omega

theorem leBytes_leNat (bs : List Byte) : leBytes bs.length (leNat bs) = bs := by
  induction bs with
  | nil => rfl
  | cons b bs ih =>
    have hb := b.isLt
    have h1 : BitVec.ofNat 8 (b.toNat + 256 * leNat bs) = b :=
      BitVec.eq_of_toNat_eq (by simp [BitVec.toNat_ofNat]; omega)
    have h2 : (b.toNat + 256 * leNat bs) / 256 = leNat bs := by omega
    simp only [List.length_cons, leBytes, leNat, h1, h2, ih]

theorem leBytes_getElem (n v k : Nat) (h : k < (leBytes n v).length) :
    (leBytes n v)[k] = BitVec.ofNat 8 (v / 256 ^ k) := by
  induction n generalizing v k with
  | zero => simp [leBytes] at h
  | succ n ih =>
    cases k with
    | zero => simp [leBytes]
    | succ k =>
      simp only [leBytes, List.getElem_cons_succ, ih, Nat.div_div_eq_div_mul]
      rw [Nat.pow_succ, Nat.mul_comm]

/-! ### Words in memory -/

/-- A word reads back after it is written. -/
@[simp] theorem memRead_memWrite (s : State) (w : Width) (a : BitVec 32) (v : BitVec w.bits) :
    (s.memWrite w a v).memRead w a = v := by
  have h := s.mem.readBytes_writeBytes a (leBytes w.bytes v.toNat)
    (by simpa using w.bytes_le.trans (by norm_num))
  rw [leBytes_length] at h
  unfold State.memRead State.memWrite
  rw [h, leNat_leBytes, w.pow_bytes, Nat.mod_eq_of_lt v.isLt, BitVec.ofNat_toNat, BitVec.setWidth_eq]

/-- A byte after a word is written: the word's own byte inside, the old byte outside. -/
theorem get_memWrite (s : State) (w : Width) (a : BitVec 32) (v : BitVec w.bits) (p : Nat) :
    (∀ k, k < w.bytes → p = (a + BitVec.ofNat 32 k).toNat →
      (s.memWrite w a v).mem.get p = v.extractLsb' (8 * k) 8) ∧
    ((∀ k, k < w.bytes → p ≠ (a + BitVec.ofNat 32 k).toNat) →
      (s.memWrite w a v).mem.get p = s.mem.get p) := by
  have h := s.mem.get_writeBytes a (leBytes w.bytes v.toNat)
    (by simpa using w.bytes_le.trans (by norm_num)) p
  refine ⟨fun k hk hp => ?_, fun hp => h.2 fun k hk => hp k (by simpa using hk)⟩
  rw [State.memWrite, h.1 k (by simpa using hk) hp, leBytes_getElem]
  apply BitVec.eq_of_toNat_eq
  simp [BitVec.extractLsb'_toNat, Nat.shiftRight_eq_div_pow, Nat.pow_mul]

/-- A word is left alone by a write that shares no address with it. -/
theorem memRead_memWrite_of_disjoint (s : State) (w w' : Width) (a b : BitVec 32) (v : BitVec w.bits)
    (h : ∀ i j, i < w'.bytes → j < w.bytes →
      (b + BitVec.ofNat 32 i).toNat ≠ (a + BitVec.ofNat 32 j).toNat) :
    (s.memWrite w a v).memRead w' b = s.memRead w' b := by
  unfold State.memRead State.memWrite
  rw [Memory.readBytes_writeBytes_of_disjoint _ _ _ _ _ (by simpa using w.bytes_le.trans (by norm_num))
    fun i j hi hj => h i j hi (by simpa using hj)]

/-- A word read depends on its bytes only. -/
theorem memRead_eq_of_bytes {s t : State} {w : Width} {a : BitVec 32}
    (h : ∀ k, k < w.bytes →
      t.mem.get (a + BitVec.ofNat 32 k).toNat = s.mem.get (a + BitVec.ofNat 32 k).toNat) :
    t.memRead w a = s.memRead w a := by
  unfold State.memRead
  rw [Memory.readBytes_congr h]

/-- A span reads back after it is written. -/
theorem memReadSpan_memWriteSpan (s : State) (a : BitVec 32) (bs : List Byte) (h : bs.length ≤ 2 ^ 32) :
    (s.memWriteSpan a bs).memReadSpan bs.length a = leNat bs := by
  unfold State.memReadSpan State.memWriteSpan
  rw [Memory.readBytes_writeBytes _ _ _ h]

end Sys2Proof.Machine
end

