-- ==== Sys2Proof/Laws/Registers.lean ====
section
/-! SUPPORT. The laws of registers: what a write through a view changes, what it leaves alone, and what
a read after it gives. -/

namespace Sys2Proof.Machine

/-! ### Storage -/

@[simp] theorem Gpr.get_set_self (g : Gpr) (r : Reg) (v : BitVec 32) : (g.set r v).get r = v := by
  cases r <;> rfl

theorem Gpr.get_set_of_ne (g : Gpr) {r q : Reg} (v : BitVec 32) (h : q ≠ r) :
    (g.set r v).get q = g.get q := by
  cases r <;> cases q <;> first | rfl | exact absurd rfl h

theorem Gpr.ext_get {g g' : Gpr} (h : ∀ r, g'.get r = g.get r) : g' = g := by
  cases g; cases g'
  have h0 := h .eax; have h1 := h .ecx; have h2 := h .edx; have h3 := h .ebx
  have h4 := h .esp; have h5 := h .ebp; have h6 := h .esi; have h7 := h .edi
  simp only [Gpr.get] at h0 h1 h2 h3 h4 h5 h6 h7
  simp [h0, h1, h2, h3, h4, h5, h6, h7]

@[simp] theorem Gpr.set_get (g : Gpr) (r : Reg) : g.set r (g.get r) = g := by cases r <;> rfl

@[simp] theorem Segs.get_set_self (g : Segs) (r : SegReg) (v : Seg) : (g.set r v).get r = v := by
  cases r <;> rfl

theorem Segs.get_set_of_ne (g : Segs) {r q : SegReg} (v : Seg) (h : q ≠ r) :
    (g.set r v).get q = g.get q := by
  cases r <;> cases q <;> first | rfl | exact absurd rfl h

@[simp] theorem Segs.set_set (g : Segs) (r : SegReg) (v v' : Seg) : (g.set r v).set r v' = g.set r v' := by
  cases r <;> rfl

@[simp] theorem Segs.set_get (g : Segs) (r : SegReg) : g.set r (g.get r) = g := by cases r <;> rfl

@[simp] theorem Ctl.get_set_self (c : Ctl) (r : CtlReg) (v : BitVec 32) : (c.set r v).get r = v := by
  cases r <;> rfl

theorem Ctl.get_set_of_ne (c : Ctl) {r q : CtlReg} (v : BitVec 32) (h : q ≠ r) :
    (c.set r v).get q = c.get q := by
  cases r <;> cases q <;> first | rfl | exact absurd rfl h

@[simp] theorem Dbg.get_set_self (d : Dbg) (r : DbgReg) (v : BitVec 32) : (d.set r v).get r = v := by
  cases r <;> rfl

theorem Dbg.get_set_of_ne (d : Dbg) {r q : DbgReg} (v : BitVec 32) (h : q ≠ r) :
    (d.set r v).get q = d.get q := by
  cases r <;> cases q <;> first | rfl | exact absurd rfl h

/-! ### Views -/

/-- The bits of a written storage: those of the view are the written value's, the others as before. -/
theorem getLsbD_withView (w : Width) (r : Reg) (x : BitVec 32) (v : BitVec w.bits) (k : Nat) :
    (withView w (isHigh8 r) x v).getLsbD k =
      if viewLow w r ≤ k ∧ k < viewLow w r + w.bits then v.getLsbD (k - viewLow w r)
      else x.getLsbD k := by
  have hx : 32 ≤ k → x.getLsbD k = false := fun h => BitVec.getLsbD_of_ge x k h
  have hn : ∀ m, m ≤ k → k - m + m = k := fun m h => by omega
  cases w
  · have low (v : BitVec 8) : (x.extractLsb' 8 24 ++ v).getLsbD k =
        if k < 8 then v.getLsbD k else x.getLsbD k := by
      simp only [BitVec.getLsbD_append, BitVec.getLsbD_extractLsb']
      split
      · rfl
      · rw [Nat.add_comm 8, hn 8 (by omega)]
        by_cases h : k < 32
        · simp [show k - 8 < 24 by omega]
        · simp [hx (by omega)]
    have high (v : BitVec 8) : (x.extractLsb' 16 16 ++ v ++ x.extractLsb' 0 8).getLsbD k =
        if 8 ≤ k ∧ k < 16 then v.getLsbD (k - 8) else x.getLsbD k := by
      simp only [BitVec.getLsbD_append, BitVec.getLsbD_extractLsb', Nat.zero_add]
      by_cases h1 : k < 8
      · simp [h1, show ¬ 8 ≤ k by omega]
      · by_cases h2 : k < 16
        · simp [h1, h2, show k - 8 < 8 by omega, show 8 ≤ k by omega]
        · rw [show 16 + (k - 8 - 8) = k by omega]
          by_cases h : k < 32
          · simp [h1, h2, show ¬ k - 8 < 8 by omega, show k - 8 - 8 < 16 by omega]
          · simp [h1, h2, show ¬ k - 8 < 8 by omega, hx (by omega)]
    cases h : isHigh8 r
    · simpa [withView, viewLow, h] using low v
    · simpa [withView, viewLow, h, show 8 + Width.w8.bits = 16 from rfl] using high v
  · have low (v : BitVec 16) : (x.extractLsb' 16 16 ++ v).getLsbD k =
        if k < 16 then v.getLsbD k else x.getLsbD k := by
      simp only [BitVec.getLsbD_append, BitVec.getLsbD_extractLsb']
      split
      · rfl
      · rw [Nat.add_comm 16, hn 16 (by omega)]
        by_cases h : k < 32
        · simp [show k - 16 < 16 by omega]
        · simp [hx (by omega)]
    simpa [withView, viewLow] using low v
  · have low (v : BitVec 32) : v.getLsbD k = if k < 32 then v.getLsbD k else x.getLsbD k := by
      split
      · rfl
      · rw [hx (by omega), BitVec.getLsbD_of_ge v k (by omega)]
    simpa [withView, viewLow] using low v

/-- The bits of a view. -/
theorem getLsbD_viewOf (w : Width) (r : Reg) (x : BitVec 32) (k : Nat) (h : k < w.bits) :
    (viewOf w (isHigh8 r) x).getLsbD k = x.getLsbD (viewLow w r + k) := by
  cases w
  · cases hr : isHigh8 r <;> simp_all [viewOf, viewLow]
  · simp_all [viewOf, viewLow]
  · simp [viewOf, viewLow]

@[simp] theorem viewOf_withView (w : Width) (r : Reg) (x : BitVec 32) (v : BitVec w.bits) :
    viewOf w (isHigh8 r) (withView w (isHigh8 r) x v) = v := by
  apply BitVec.eq_of_getLsbD_eq
  intro k hk
  rw [getLsbD_viewOf w r _ k hk, getLsbD_withView, if_pos (by omega), Nat.add_sub_cancel_left]

/-- A view reads as written. -/
@[simp] theorem readReg_writeReg (s : State) (w : Width) (r : Reg) (v : BitVec w.bits) :
    (s.writeReg w r v).readReg w r = v := by
  simp [State.readReg, State.writeReg]

/-- A write through a view leaves the storage of every other register alone. -/
theorem get_writeReg_of_ne (s : State) (w : Width) {r q : Reg} (v : BitVec w.bits)
    (h : q ≠ homeOf w r) : (s.writeReg w r v).gpr.get q = s.gpr.get q :=
  Gpr.get_set_of_ne _ _ h

/-- A write through a view changes the bits of that view only. -/
theorem onlyView_writeReg (s : State) (w : Width) (r : Reg) (v : BitVec w.bits) :
    OnlyView w r s (s.writeReg w r v) := by
  intro q k h
  by_cases hq : q = homeOf w r
  · subst hq
    simp only [State.writeReg, Gpr.get_set_self, getLsbD_withView]
    rw [if_neg]
    rintro ⟨h1, h2⟩
    exact h ⟨rfl, h1, h2⟩
  · rw [get_writeReg_of_ne s w v hq]

theorem onlyView_refl (w : Width) (r : Reg) (s : State) : OnlyView w r s s := fun _ _ _ => rfl

theorem OnlyView.trans {w : Width} {r : Reg} {s t u : State} (h1 : OnlyView w r s t)
    (h2 : OnlyView w r t u) : OnlyView w r s u := fun q k h => (h2 q k h).trans (h1 q k h)

theorem OnlyView.left {w w' : Width} {r r' : Reg} {s t : State} (h : OnlyView w r s t) :
    OnlyViews w r w' r' s t := fun q k h1 _ => h q k h1

theorem OnlyView.right {w w' : Width} {r r' : Reg} {s t : State} (h : OnlyView w' r' s t) :
    OnlyViews w r w' r' s t := fun q k _ h2 => h q k h2

theorem OnlyViews.trans {w w' : Width} {r r' : Reg} {s t u : State} (h1 : OnlyViews w r w' r' s t)
    (h2 : OnlyViews w r w' r' t u) : OnlyViews w r w' r' s u :=
  fun q k ha hb => (h2 q k ha hb).trans (h1 q k ha hb)

/-- Only the general registers matter. -/
theorem onlyView_congr {w : Width} {r : Reg} {s s' t t' : State} (h : OnlyView w r s t)
    (hs : s'.gpr = s.gpr) (ht : t'.gpr = t.gpr) : OnlyView w r s' t' := by
  simpa only [OnlyView, hs, ht] using h

theorem onlyViews_congr {w w' : Width} {r r' : Reg} {s s' t t' : State} (h : OnlyViews w r w' r' s t)
    (hs : s'.gpr = s.gpr) (ht : t'.gpr = t.gpr) : OnlyViews w r w' r' s' t' := by
  simpa only [OnlyViews, hs, ht] using h

/-! ### 16- and 32-bit views -/

@[simp] theorem homeOf_size (z : Size) (r : Reg) : homeOf z.width r = r := by cases z <;> rfl

@[simp] theorem viewLow_size (z : Size) (r : Reg) : viewLow z.width r = 0 := by cases z <;> rfl

/-- A 16- or 32-bit read is not changed by a 16- or 32-bit write of another register. -/
theorem readReg_writeReg_of_ne (s : State) (y z : Size) {r q : Reg} (v : BitVec z.bits) (h : q ≠ r) :
    (s.writeReg z.width r v).readReg y.width q = s.readReg y.width q := by
  have hg : (s.writeReg z.width r v).gpr.get q = s.gpr.get q :=
    get_writeReg_of_ne s z.width v (by simpa using h)
  unfold State.readReg
  rw [homeOf_size, hg]

@[simp] theorem readIndex_writeIndex (s : State) (z : Size) (r : Reg) (v : BitVec 32) :
    (s.writeIndex z r v).readIndex z r = (v.setWidth z.bits).setWidth 32 := by
  simp [State.readIndex, State.writeIndex]

theorem readIndex_writeIndex_of_ne (s : State) (y z : Size) {r q : Reg} (v : BitVec 32) (h : q ≠ r) :
    (s.writeIndex z r v).readIndex y q = s.readIndex y q := by
  simp only [State.readIndex, State.writeIndex, readReg_writeReg_of_ne s y z _ h]

theorem readIndex_writeReg_of_ne (s : State) (y z : Size) {r q : Reg} (v : BitVec z.bits) (h : q ≠ r) :
    (s.writeReg z.width r v).readIndex y q = s.readIndex y q := by
  simp only [State.readIndex, readReg_writeReg_of_ne s y z _ h]

theorem readReg_writeIndex_of_ne (s : State) (y z : Size) {r q : Reg} (v : BitVec 32) (h : q ≠ r) :
    (s.writeIndex z r v).readReg y.width q = s.readReg y.width q := by
  simp only [State.writeIndex, readReg_writeReg_of_ne s y z _ h]

theorem readIndex_lt (s : State) (z : Size) (r : Reg) : (s.readIndex z r).toNat < 2 ^ z.bits := by
  have h := (s.readReg z.width r).isLt
  cases z <;> simp only [State.readIndex, BitVec.toNat_setWidth] <;>
    exact Nat.lt_of_le_of_lt (Nat.mod_le _ _) h

end Sys2Proof.Machine
end

