-- ==== Sys2Proof/Laws/Ops.lean ====
section
/-! SUPPORT. What each shared operation can do, said once: sequencing, selector loads, the stack, taking
an exception and returning from one, ports, and the repeat wrapper. -/

namespace Sys2Proof.Machine

/-! ### Sequencing -/

@[simp] theorem thenDo_next (s : State) (k : State → Result) : thenDo (.next s) k = k s := rfl

@[simp] theorem thenDo_fault (r : Fault) (k : State → Result) : thenDo (.fault r) k = .fault r := rfl

@[simp] theorem thenDo_refused (r : Refusal) (k : State → Result) :
    thenDo (.refused r) k = .refused r := rfl

/-- A sequence that completes: its first part completes, and its second does from there. -/
theorem thenDo_eq_next {o : Result} {k : State → Result} {t : State} :
    thenDo o k = .next t ↔ ∃ u, o = .next u ∧ k u = .next t := by
  cases o <;> simp [thenDo]

theorem thenDo_eq_fault {o : Result} {k : State → Result} {r : Fault} :
    thenDo o k = .fault r ↔ o = .fault r ∨ ∃ u, o = .next u ∧ k u = .fault r := by
  cases o <;> simp [thenDo]

theorem thenDo_eq_refused {o : Result} {k : State → Result} {r : Refusal} :
    thenDo o k = .refused r ↔ o = .refused r ∨ ∃ u, o = .next u ∧ k u = .refused r := by
  cases o <;> simp [thenDo]

theorem thenDo_assoc (o : Result) (j k : State → Result) :
    thenDo (thenDo o j) k = thenDo o fun s => thenDo (j s) k := by
  cases o <;> rfl

theorem done_eq (s : State) : done s = .next { s with eip := s.nextEip } := rfl

/-! ### Selector loads -/

theorem selBase (sel : BitVec 16) : sel.setWidth 32 <<< 4 = BitVec.ofNat 32 (16 * sel.toNat) := by
  apply BitVec.eq_of_toNat_eq
  have := sel.isLt
  simp only [BitVec.toNat_shiftLeft, BitVec.toNat_setWidth, BitVec.toNat_ofNat, Nat.shiftLeft_eq]
  omega

/-- A selector load stores what `segmentFor` gives, or is refused. -/
theorem loadSeg_eq (r : SegReg) (sel : BitVec 16) (s : State) :
    loadSeg r sel s =
      match segmentFor s r sel with
      | some d => .next (s.setSeg r sel d.base d.big)
      | none => .refused .descLookup := by
  unfold loadSeg segmentFor
  split
  · rfl
  · simp [selBase]

theorem segmentFor_real {s : State} (h : s.protectedMode = false) (r : SegReg) (sel : BitVec 16) :
    segmentFor s r sel = some ⟨BitVec.ofNat 32 (16 * sel.toNat), false⟩ := by
  simp [segmentFor, h]

theorem segmentFor_congr {s t : State} (h : t.ctl = s.ctl) (r : SegReg) (sel : BitVec 16) :
    segmentFor t r sel = segmentFor s r sel := by
  simp [segmentFor, protectedMode_congr h]

/-- In real mode a selector load completes, with 16 times the selector as the base. -/
theorem loadSeg_real {s : State} (h : s.protectedMode = false) (r : SegReg) (sel : BitVec 16) :
    loadSeg r sel s = .next (s.setSeg r sel (BitVec.ofNat 32 (16 * sel.toNat)) false) := by
  rw [loadSeg_eq, segmentFor_real h]

theorem loadSeg_ne_fault (r : SegReg) (sel : BitVec 16) (s : State) (f : Fault) :
    loadSeg r sel s ≠ .fault f := by
  rw [loadSeg_eq]
  split <;> simp

/-- A selector load that completes sets one segment register and nothing else. -/
theorem loadSeg_next {r : SegReg} {sel : BitVec 16} {s t : State} (h : loadSeg r sel s = .next t) :
    ∃ base big, t = s.setSeg r sel base big := by
  rw [loadSeg_eq] at h
  split at h
  · exact ⟨_, _, (Host.Outcome.next.inj h).symm⟩
  · exact absurd h (by simp)

@[simp] theorem setSeg_get_self (s : State) (r : SegReg) (sel : BitVec 16) (base : BitVec 32) (big : Bool) :
    (s.setSeg r sel base big).seg.get r = ⟨sel, base⟩ := by
  simp [State.setSeg]

theorem setSeg_get_of_ne (s : State) {r q : SegReg} (sel : BitVec 16) (base : BitVec 32) (big : Bool)
    (h : q ≠ r) : (s.setSeg r sel base big).seg.get q = s.seg.get q :=
  Segs.get_set_of_ne _ _ h

/-! ### The stack pointer -/

theorem size_cases (z : Size) : z.bits = 16 ∨ z.bits = 32 := by cases z <;> simp

theorem toNat_wrapSP (s : State) (v : BitVec 32) : (s.wrapSP v).toNat = v.toNat % 2 ^ s.stksz.bits := by
  have := v.isLt
  unfold State.wrapSP
  rcases size_cases s.stksz with e | e <;> simp only [e, BitVec.toNat_setWidth] <;> omega

theorem toNat_spUp (s : State) (n : Nat) :
    (s.spUp n).toNat = (s.stackPtr.toNat + n) % 2 ^ s.stksz.bits := by
  unfold State.spUp
  rw [toNat_wrapSP]
  rcases size_cases s.stksz with e | e <;> simp only [e, BitVec.toNat_add, BitVec.toNat_ofNat] <;> omega

theorem toNat_spDown (s : State) (n : Nat) :
    ((s.spDown n).toNat : Int) = ((s.stackPtr.toNat : Int) - n) % 2 ^ s.stksz.bits := by
  unfold State.spDown
  have := s.stackPtr.isLt
  rw [toNat_wrapSP]
  rcases size_cases s.stksz with e | e <;> simp only [e, BitVec.toNat_sub, BitVec.toNat_ofNat] <;> omega

theorem stackPtr_lt (s : State) : s.stackPtr.toNat < 2 ^ s.stksz.bits := readIndex_lt s _ _

@[simp] theorem spUp_zero (s : State) : s.spUp 0 = s.stackPtr := by
  apply BitVec.eq_of_toNat_eq
  rw [toNat_spUp, Nat.add_zero, Nat.mod_eq_of_lt (stackPtr_lt s)]

@[simp] theorem spDown_zero (s : State) : s.spDown 0 = s.stackPtr := by
  apply BitVec.eq_of_toNat_eq
  have h := toNat_spDown s 0
  have hl := stackPtr_lt s
  rcases size_cases s.stksz with e | e <;> simp only [e] at * <;> omega

@[simp] theorem stackPtr_setStackPtr (s : State) (v : BitVec 32) : (s.setStackPtr v).stackPtr = s.wrapSP v := by
  simp only [State.stackPtr, State.setStackPtr, State.wrapSP,
    stksz_congr (State.writeIndex_ssB s _ _ _), readIndex_writeIndex]

theorem wrapSP_congr {s t : State} (h : t.ssB = s.ssB) (v : BitVec 32) : t.wrapSP v = s.wrapSP v := by
  unfold State.wrapSP
  rw [stksz_congr h]

theorem spUp_congr {s t : State} (h1 : t.gpr = s.gpr) (h2 : t.ssB = s.ssB) (n : Nat) :
    t.spUp n = s.spUp n := by
  simp only [State.spUp, wrapSP_congr h2, stackPtr_congr h1 h2]

theorem slot_congr {s t : State} (h1 : t.gpr = s.gpr) (h2 : t.ssB = s.ssB) (h3 : t.seg = s.seg) (z : Size)
    (i : Nat) : t.slot z i = s.slot z i := by
  simp only [State.slot, lin_congr h3, spUp_congr h1 h2]

/-- Where the stack pointer was moved down from, seen from below. -/
theorem spUp_of_down {s t : State} (h : t.ssB = s.ssB) {m n : Nat} (hp : t.stackPtr = s.spDown m)
    (hmn : m ≤ n) : t.spUp n = s.spUp (n - m) := by
  apply BitVec.eq_of_toNat_eq
  have h1 := toNat_spDown s m
  rw [toNat_spUp, toNat_spUp, hp, stksz_congr h]
  rcases size_cases s.stksz with e | e <;> simp only [e] at * <;> omega

theorem spUp_of_down' {s t : State} (h : t.ssB = s.ssB) {m n : Nat} (hp : t.stackPtr = s.spDown m)
    (hmn : n ≤ m) : t.spUp n = s.spDown (m - n) := by
  apply BitVec.eq_of_toNat_eq
  have h1 := toNat_spDown s m
  have h2 := toNat_spDown s (m - n)
  rw [toNat_spUp, hp, stksz_congr h]
  rcases size_cases s.stksz with e | e <;> simp only [e] at * <;> omega

theorem spDown_of_down {s t : State} (h : t.ssB = s.ssB) {m : Nat} (n : Nat) (hp : t.stackPtr = s.spDown m) :
    t.spDown n = s.spDown (m + n) := by
  apply BitVec.eq_of_toNat_eq
  have h1 := toNat_spDown s m
  have h2 := toNat_spDown s (m + n)
  have h3 := toNat_spDown t n
  rw [hp, stksz_congr h] at h3
  rcases size_cases s.stksz with e | e <;> simp only [e] at * <;> omega

theorem spUp_of_up {s t : State} (h : t.ssB = s.ssB) {m : Nat} (n : Nat) (hp : t.stackPtr = s.spUp m) :
    t.spUp n = s.spUp (m + n) := by
  apply BitVec.eq_of_toNat_eq
  have h1 := toNat_spUp s m
  rw [toNat_spUp, toNat_spUp, hp, stksz_congr h, h1]
  rcases size_cases s.stksz with e | e <;> simp only [e] <;> omega

/-- The stack pointer moved up a little: it wraps at most once. -/
theorem spUp_cases (s : State) {n : Nat} (hn : n ≤ 4096) :
    ((s.spUp n).toNat = s.stackPtr.toNat + n ∨
      (s.spUp n).toNat + 2 ^ s.stksz.bits = s.stackPtr.toNat + n) ∧
    (s.spUp n).toNat < 2 ^ s.stksz.bits := by
  have h1 := toNat_spUp s n
  have h2 := stackPtr_lt s
  rcases size_cases s.stksz with e | e <;> simp only [e] at * <;> omega

/-- Two stretches of the stack that do not overlap share no byte of memory. -/
theorem spUp_disjoint (s : State) {m n b c : Nat} (hm : m ≤ 4096) (hn : n ≤ 4096) (hb : b ≤ 4) (hc : c ≤ 4)
    (h : m + b ≤ n ∨ n + c ≤ m) (i j : Nat) (hi : i < b) (hj : j < c) :
    (s.lin .ss (s.spUp m) + BitVec.ofNat 32 i).toNat ≠
      (s.lin .ss (s.spUp n) + BitVec.ofNat 32 j).toNat := by
  intro he
  have he := BitVec.eq_of_toNat_eq he
  simp only [State.lin, BitVec.add_assoc] at he
  have he := congrArg BitVec.toNat (add_left_cancel he)
  obtain ⟨a1, a2⟩ := spUp_cases s hm
  obtain ⟨b1, b2⟩ := spUp_cases s hn
  simp only [BitVec.toNat_add, BitVec.toNat_ofNat] at he
  rcases size_cases s.stksz with e | e <;> simp only [e] at a1 a2 b1 b2 <;> omega

/-! ### Push and pop -/

@[simp] theorem stackPtr_push (s : State) (z : Size) (v : BitVec z.bits) :
    (s.push z v).stackPtr = s.spDown z.bytes :=
  (stackPtr_congr (t := s.push z v) (s := s.setStackPtr _) rfl rfl).trans (stackPtr_setStackPtr s _)

@[simp] theorem stackPtr_popped (s : State) (z : Size) : (s.popped z).stackPtr = s.spUp z.bytes :=
  stackPtr_setStackPtr s _

theorem onlyView_setStackPtr (s : State) (v : BitVec 32) :
    OnlyView s.stksz.width .esp s (s.setStackPtr v) :=
  onlyView_writeReg s _ _ _

theorem onlyView_popped (s : State) (z : Size) : OnlyView s.stksz.width .esp s (s.popped z) :=
  onlyView_setStackPtr s _

theorem onlyView_push (s : State) (z : Size) (v : BitVec z.bits) :
    OnlyView s.stksz.width .esp s (s.push z v) :=
  onlyView_congr (onlyView_setStackPtr s _) rfl rfl

/-- A register other than the stack pointer is not changed by a push. -/
theorem readReg_push (s : State) (z y : Size) (v : BitVec z.bits) {r : Reg} (h : r ≠ .esp) :
    (s.push z v).readReg y.width r = s.readReg y.width r :=
  (readReg_congr (t := s.push z v) (s := s.setStackPtr _) rfl _ _).trans
    (readReg_writeReg_of_ne s y s.stksz _ h)

theorem readReg_popped (s : State) (z y : Size) {r : Reg} (h : r ≠ .esp) :
    (s.popped z).readReg y.width r = s.readReg y.width r :=
  readReg_writeReg_of_ne s y s.stksz _ h

theorem slot_push_zero (s : State) (z : Size) (v : BitVec z.bits) :
    (s.push z v).slot z 0 = s.lin .ss (s.spDown z.bytes) := by
  simp only [State.slot, Nat.zero_mul, spUp_zero, stackPtr_push, lin_congr (State.push_seg s z v)]

theorem slot_push_succ (s : State) (z : Size) (v : BitVec z.bits) (i : Nat) :
    (s.push z v).slot z (i + 1) = s.slot z i := by
  simp only [State.slot, lin_congr (State.push_seg s z v)]
  rw [spUp_of_down (State.push_ssB s z v) (stackPtr_push s z v) (by rw [Nat.succ_mul]; omega)]
  congr 2
  rw [Nat.succ_mul]
  omega

theorem mem_push (s : State) (z : Size) (v : BitVec z.bits) :
    (s.push z v).mem = (s.memWrite z.width ((s.push z v).slot z 0) v).mem := by
  rw [slot_push_zero]
  have h : (s.setStackPtr (s.stackPtr - BitVec.ofNat 32 z.bytes)).stackPtr = s.spDown z.bytes :=
    stackPtr_setStackPtr s _
  simp only [State.push, State.segWrite, h, lin_congr (State.setStackPtr_seg s _)]
  rfl

/-- The pushed word reads back. -/
@[simp] theorem memRead_push (s : State) (z : Size) (v : BitVec z.bits) :
    (s.push z v).memRead z.width ((s.push z v).slot z 0) = v := by
  rw [memRead_congr (mem_push s z v), memRead_memWrite]

@[simp] theorem popValue_push (s : State) (z : Size) (v : BitVec z.bits) : (s.push z v).popValue z = v := by
  have h := memRead_push s z v
  simp only [State.slot, Nat.zero_mul, spUp_zero] at h
  exact h

theorem get_push (s : State) (z : Size) (v : BitVec z.bits) {p : Nat}
    (h : ¬ InSpan ((s.push z v).slot z 0) z.bytes p) : (s.push z v).mem.get p = s.mem.get p := by
  rw [mem_push]
  exact (get_memWrite s z.width _ v p).2 fun k hk he => h ⟨k, hk, he⟩

/-- The words above the stack pointer are not changed by a push. -/
theorem memRead_push_slot (s : State) (z : Size) (v : BitVec z.bits) {i : Nat} (hi : i < 64) :
    (s.push z v).memRead z.width (s.slot z i) = s.memRead z.width (s.slot z i) := by
  rw [memRead_congr (mem_push s z v), ← slot_push_succ s z v i]
  apply memRead_memWrite_of_disjoint
  intro a b ha hb
  simp only [State.slot]
  refine spUp_disjoint _ ?_ ?_ (Width.bytes_le _) (Width.bytes_le _) (Or.inr ?_) a b ha hb <;>
    rcases (show z.bytes = 2 ∨ z.bytes = 4 by cases z <;> simp) with e | e <;>
      simp only [Size.bytes] at e <;> simp only [Size.bytes, e] <;> omega

theorem pushedSpace_zero (s t : State) (z : Size) (h1 : t.gpr = s.gpr) (h2 : t.ssB = s.ssB)
    (h3 : t.mem = s.mem) : PushedSpace s t z 0 := by
  refine ⟨by simp [stackPtr_congr h1 h2], fun _ _ _ => by rw [h1], fun p _ => by rw [h3]⟩

/-- One more word pushed. -/
theorem PushedSpace.push {s t : State} {z : Size} {n : Nat} (h : PushedSpace s t z n) (hb : t.ssB = s.ssB)
    (v : BitVec z.bits) : PushedSpace s (t.push z v) z (n + 1) := by
  obtain ⟨h1, h2, h3⟩ := h
  refine ⟨?_, ?_, fun p hp => ?_⟩
  · rw [stackPtr_push, spDown_of_down hb _ h1, Nat.succ_mul]
  · have := onlyView_push t z v
    rw [stksz_congr hb] at this
    exact h2.trans this
  · rw [get_push t z v (hp 0 (by omega))]
    exact h3 p fun i hi => by
      have := hp (i + 1) (by omega)
      rwa [slot_push_succ] at this

/-- What pushing one word does. -/
theorem pushed_push (s : State) (z : Size) (v : BitVec z.bits) : Pushed s (s.push z v) z v :=
  ⟨(pushedSpace_zero s s z rfl rfl rfl).push rfl v, memRead_push s z v⟩

/-- Only the stack pointer, the memory and SS matter. -/
theorem pushedSpace_congr {s t t' : State} {z : Size} {n : Nat} (h : PushedSpace s t z n)
    (h1 : t'.gpr = t.gpr) (h2 : t'.ssB = t.ssB) (h3 : t'.seg.get .ss = t.seg.get .ss) (h4 : t'.mem = t.mem) :
    PushedSpace s t' z n := by
  obtain ⟨ha, hb, hc⟩ := h
  refine ⟨by rw [stackPtr_congr h1 h2, ha], onlyView_congr hb rfl h1, fun p hp => ?_⟩
  rw [h4]
  refine hc p fun i hi => ?_
  have := hp i hi
  simpa only [State.slot, State.lin, h3, spUp_congr h1 h2] using this

theorem memRead_slot_congr {t t' : State} (h1 : t'.gpr = t.gpr) (h2 : t'.ssB = t.ssB)
    (h3 : t'.seg.get .ss = t.seg.get .ss) (h4 : t'.mem = t.mem) (z : Size) (i : Nat) :
    t'.memRead z.width (t'.slot z i) = t.memRead z.width (t.slot z i) := by
  simp only [memRead_congr h4, State.slot, State.lin, h3, spUp_congr h1 h2]

/-- The value a pop gives is the word at the stack pointer. -/
theorem popValue_eq (s : State) (z : Size) : s.popValue z = s.memRead z.width (s.slot z 0) := by
  simp [State.popValue, State.segRead, State.slot]

/-- After a pop the words are one slot nearer. -/
theorem slot_popped (s : State) (z : Size) (i : Nat) : (s.popped z).slot z i = s.slot z (i + 1) := by
  simp only [State.slot, lin_congr (State.popped_seg s z)]
  rw [spUp_of_up (State.popped_ssB s z) _ (stackPtr_popped s z)]
  congr 2
  rw [Nat.succ_mul]
  omega

/-! ### Exceptions -/

theorem deliver_protected {s : State} (h : s.protectedMode = true) (v : BitVec 8) (ip : BitVec 32) :
    deliver v ip s = .refused .protectedInterrupt := by
  simp [deliver, h]

/-- In real mode a delivery completes: the frame pushed, CS:EIP from the vector's entry. -/
theorem deliver_real {s : State} (h : s.protectedMode = false) (v : BitVec 8) (ip : BitVec 32) :
    deliver v ip s =
      .next (((s.pushFrame ip).setSeg .cs ((s.pushFrame ip).memRead .w16 (vectorAddr v + 2))
        (BitVec.ofNat 32 (16 * ((s.pushFrame ip).memRead .w16 (vectorAddr v + 2)).toNat)) false).jumpTo
          (((s.pushFrame ip).memRead .w16 (vectorAddr v)).setWidth 32)) := by
  have h' : (s.pushFrame ip).protectedMode = false := by
    rw [protectedMode_congr (State.pushFrame_ctl s ip), h]
  simp [deliver, h, loadSeg_real h']

theorem deliver_ne_fault (v : BitVec 8) (ip : BitVec 32) (s : State) (f : Fault) :
    deliver v ip s ≠ .fault f := by
  cases h : s.protectedMode
  · rw [deliver_real h]; simp
  · rw [deliver_protected h]; simp

theorem raiseVector_eq (v : BitVec 8) (ip : BitVec 32) (s : State) :
    raiseVector v ip s = thenDo (deliver v ip s) fun t => .next { t with result := some (.delivered v) } :=
  rfl

theorem raiseVector_ne_fault (v : BitVec 8) (ip : BitVec 32) (s : State) (f : Fault) :
    raiseVector v ip s ≠ .fault f := by
  rw [raiseVector_eq, Ne, thenDo_eq_fault]
  rintro (h | ⟨u, -, h⟩)
  · exact deliver_ne_fault v ip s f h
  · simp at h

/-- Delivery moves the stack pointer down by three 16-bit words. -/
theorem pushedSpace_pushFrame (s : State) (ip : BitVec 32) : PushedSpace s (s.pushFrame ip) .s16 3 :=
  (((pushedSpace_congr ((pushedSpace_zero s s .s16 rfl rfl rfl).push rfl (s.flagsWord .s16))
    (t' := { s.push .s16 (s.flagsWord .s16) with
      flags := (s.push .s16 (s.flagsWord .s16)).flags.masked }) rfl rfl rfl rfl).push rfl _).push rfl _)

theorem flags_pushFrame (s : State) (ip : BitVec 32) : (s.pushFrame ip).flags = s.flags.masked := rfl

/-- The frame: the saved pointer lowest, CS and the flags above it. -/
theorem frame_pushFrame (s : State) (ip : BitVec 32) :
    (s.pushFrame ip).memRead .w16 ((s.pushFrame ip).slot .s16 0) = ip.setWidth 16 ∧
    (s.pushFrame ip).memRead .w16 ((s.pushFrame ip).slot .s16 1) = s.sel .cs ∧
    (s.pushFrame ip).memRead .w16 ((s.pushFrame ip).slot .s16 2) = s.flags.image.setWidth 16 := by
  have h1 (u : State) (v : BitVec 16) (i : Nat) (hi : i < 64) :
      (u.push .s16 v).memRead .w16 ((u.push .s16 v).slot .s16 (i + 1)) =
        u.memRead .w16 (u.slot .s16 i) := by
    rw [slot_push_succ]
    exact memRead_push_slot u .s16 v hi
  refine ⟨memRead_push _ .s16 _, ?_, ?_⟩
  · exact (h1 _ _ 0 (by omega)).trans (memRead_push _ .s16 _)
  · refine (h1 _ _ 1 (by omega)).trans ((h1 _ _ 0 (by omega)).trans ?_)
    exact memRead_push s .s16 _

/-! ### Ports -/

/-- A port read changes the port history only. -/
theorem portReadBytes_state (s : State) (p : BitVec 16) (n : Nat) :
    ∃ h, (s.portReadBytes p n).2 = { s with ports := h } := by
  induction n generalizing s p with
  | zero => exact ⟨s.ports, rfl⟩
  | succ n ih =>
    obtain ⟨h, e⟩ := ih (s.portReadByte p).2 (p + 1)
    exact ⟨h, e⟩

theorem portRead_state (s : State) (w : Width) (p : BitVec 16) :
    ∃ h, (s.portRead w p).2 = { s with ports := h } := portReadBytes_state s p w.bytes

/-- A port write changes the port history only. -/
theorem portWriteBytes_state (s : State) (p : BitVec 16) (bs : List Byte) :
    ∃ h, s.portWriteBytes p bs = { s with ports := h } := by
  induction bs generalizing s p with
  | nil => exact ⟨s.ports, rfl⟩
  | cons b bs ih => exact ih (s.portWriteByte p b) (p + 1)

theorem portWrite_state (s : State) (w : Width) (p : BitVec 16) (v : BitVec w.bits) :
    ∃ h, s.portWrite w p v = { s with ports := h } := portWriteBytes_state s p _

/-! ### The repeat wrapper -/

theorem stringStep_once {s : State} (h : s.pfx.rep = .none) (prim : State → State) (compares : Bool) :
    stringStep prim compares s = done (prim s) := by
  simp [stringStep, h]

theorem stringStep_zero {s : State} (h : s.pfx.rep ≠ .none) (hc : s.count = 0) (prim : State → State)
    (compares : Bool) : stringStep prim compares s = done s := by
  unfold stringStep
  split
  · exact absurd ‹_› h
  · rw [if_pos hc]

/-- One element under a repeat prefix: back to the instruction, or on to the next. -/
theorem stringStep_some {s : State} (h : s.pfx.rep ≠ .none) (hc : s.count ≠ 0) (prim : State → State)
    (compares : Bool) :
    stringStep prim compares s =
      (let t := (prim s).countDown
       if t.count ≠ 0 ∧ (compares = true → t.flags.ZF = decide (s.pfx.rep = .rep)) then .next t
       else done t) := by
  unfold stringStep
  split
  · exact absurd ‹_› h
  · rename_i mode hm
    rw [if_neg hc]
    have hz : (!compares || (if s.pfx.rep = .rep then (prim s).countDown.flags.ZF
          else !(prim s).countDown.flags.ZF)) = true ↔
        (compares = true → (prim s).countDown.flags.ZF = decide (s.pfx.rep = .rep)) := by
      cases compares <;> by_cases h : s.pfx.rep = .rep <;> simp [h]
    simp only [bne_iff_ne, Bool.and_eq_true, hz]

end Sys2Proof.Machine
end

