-- ==== Sys2Proof/Tests/Slice0.lean ====
section
/-! SUPPORT. Tests: the well-formedness checks refuse ill-formed terms, words written out from the
spec's encodings decode to their instructions, single steps leave the values the spec states, and for
every obligation with hypotheses a concrete input meets them. Expected values come from
`95_test_vectors.md` or from hand calculation by the rule each test cites. -/

set_option maxRecDepth 20000

namespace Sys2Proof.Tests

open Sys2Proof Sys2Proof.Machine

/-! ### Helpers -/

/-- Every row decodes, at operand and address size 16, to its instruction with no byte left. -/
def decodesTo (rows : List (List Byte × Instr)) : Bool :=
  rows.all fun r => decode .s16 .s16 r.1 == some (r.2, [])

/-- The starting state of the step tests: CS and the data segments at selector 1000h, EIP 100h. -/
def loaded : State :=
  let g : Seg := ⟨0x1000, 0x10000⟩
  { State.reset with seg := ⟨g, g, g, g, g, g⟩, eip := 0x100 }

/-- The state with a 32-bit register set. -/
def reg (r : Reg) (v : BitVec 32) (s : State) : State := s.writeReg .w32 r v

/-- The state with bytes at a physical address. -/
def bytes (a : BitVec 32) (l : List Byte) (s : State) : State := s.memWriteSpan a l

/-- The state with EIP moved. -/
def at' (ip : BitVec 32) (s : State) : State := { s with eip := ip }

/-- The state with the flags of an image. -/
def flags (v : BitVec 32) (s : State) : State := { s with flags := .ofImage v }

/-- The state with a segment register loaded as real mode loads it. -/
def seg (r : SegReg) (sel : BitVec 16) (s : State) : State :=
  { s with seg := s.seg.set r ⟨sel, BitVec.ofNat 32 (16 * sel.toNat)⟩ }

/-- The state with values on the FPU stack, the first on top. -/
def fpu (l : List F64) (s : State) : State :=
  { s with fpu := l.reverse.foldl (fun f v => f.push v) s.fpu }

/-- The state with C0 set and another control word. -/
def words (s : State) : State := { s with fpu := { s.fpu with C0 := true, FCW := 0xF40 } }

/-- The state in protected mode. -/
def protect (s : State) : State := { s with ctl := { s.ctl with cr0 := 1 } }

/-- The state with code at CS:EIP. -/
def code (l : List Byte) (s : State) : State := s.placeBytes l

/-- The result is a next state of which `p` holds. -/
def holds (r : Result) (p : State → Bool) : Bool :=
  match r with
  | .next t => p t
  | .fault _ => false
  | .refused _ => false

/-- The result is a fault. -/
def faults (r : Result) : Bool :=
  match r with
  | .next _ => false
  | .fault _ => true
  | .refused _ => false

/-- The result is this refusal. -/
def refuses (r : Result) (x : Refusal) : Bool :=
  match r with
  | .next _ => false
  | .fault _ => false
  | .refused y => y == x

/-- One step over the code ends in a next state of which `p` holds. -/
def after (l : List Byte) (s : State) (p : State → Bool) : Bool := holds (step (code l s)) p

theorem next_of_holds {r : Result} {p : State → Bool} (h : holds r p = true) :
    ∃ t, r = .next t ∧ p t = true := by
  cases r <;> simp_all [holds]

/-! ### The well-formedness checks refuse ill-formed terms -/

/-- Rules R136, R185, R186: the wrong address size, a base BP or EBP or a SIB base EBP
without a displacement, and ESP as a base without a SIB byte. -/
theorem test_illFormed_memory :
    [WellFormed.memOk .s32 (.direct16 0),
      WellFormed.memOk .s16 (.direct32 0),
      WellFormed.memOk .s16 (.based16 .bp .none),
      WellFormed.memOk .s32 (.based32 .esp .none),
      WellFormed.memOk .s32 (.based32 .ebp .none),
      WellFormed.memOk .s32 (.sib .x1 .eax .ebp .none),
      WellFormed.rmOk .s16 (.mem (.based32 .eax .none))].all (fun b => b == false) = true := by
  decide

/-- Rules R139, R140: an immediate or an offset above 16 bits, a
displacement that is no sign extension. -/
theorem test_illFormed_fields :
    [WellFormed.immOk .s16 0x10000,
      WellFormed.relOk .s16 0x8000,
      WellFormed.relOk .s16 0xFFFF7FFF,
      WellFormed.instrOk .s16 .s16 (.mov (.alMoffs 0x10000))].all (fun b => b == false) = true := by
  decide

/-- Rules R266, R269, R276: MOV to CS, POP CS, and the exchange of AX with itself that is NOP. -/
theorem test_illFormed_codes :
    [WellFormed.instrOk .s16 .s16 (.mov (.sregRmw .cs (.reg .eax))),
      WellFormed.instrOk .s16 .s16 (.pop (.sreg .cs)),
      WellFormed.instrOk .s16 .s16 (.xchg (.axRw .eax))].all (fun b => b == false) = true := by
  decide

/-- The check of each integer form refuses an ill-formed operand. -/
theorem test_illFormed_alu :
    [WellFormed.instrOk .s16 .s16 (.add (.rmbRb (.mem (.based16 .bp .none)) .eax)),
      WellFormed.instrOk .s16 .s16 (.cmp (.axIw 0x10000)),
      WellFormed.instrOk .s16 .s16 (.or (.rmwIw (.reg .eax) 0x10000)),
      WellFormed.instrOk .s16 .s16 (.test (.rmbIb (.mem (.based16 .bp .none)) 1)),
      WellFormed.instrOk .s16 .s16 (.test (.axIw 0x10000)),
      WellFormed.instrOk .s16 .s16 (.test (.rmwIw (.reg .eax) 0x10000)),
      WellFormed.instrOk .s16 .s16 (.inc (.rmb (.mem (.based16 .bp .none)))),
      WellFormed.instrOk .s16 .s16 (.neg (.rmw (.mem (.based16 .bp .none)))),
      WellFormed.instrOk .s16 .s16 (.imul (.rwRmw .eax (.mem (.based16 .bp .none)))),
      WellFormed.instrOk .s16 .s16 (.imul (.rwRmwIw .eax (.reg .eax) 0x10000)),
      WellFormed.instrOk .s16 .s16 (.shl (.rmbOne (.mem (.based16 .bp .none)))),
      WellFormed.instrOk .s16 .s16 (.shld (.cl (.mem (.based16 .bp .none)) .eax)),
      WellFormed.instrOk .s16 .s16 (.bt (.rmwIb (.mem (.based16 .bp .none)) 1)),
      WellFormed.instrOk .s16 .s16 (.bsf .eax (.mem (.based16 .bp .none))),
      WellFormed.instrOk .s16 .s16 (.seto (.mem (.based16 .bp .none)))].all (fun b => b == false) = true := by
  decide

/-- The check of each transfer and control form refuses an ill-formed operand. -/
theorem test_illFormed_transfer :
    [WellFormed.instrOk .s16 .s16 (.push (.iw 0x10000)),
      WellFormed.instrOk .s16 .s16 (.push (.rmw (.mem (.based16 .bp .none)))),
      WellFormed.instrOk .s16 .s16 (.pop (.rmw (.mem (.based16 .bp .none)))),
      WellFormed.instrOk .s16 .s16 (.xchg (.rmwRw (.mem (.based16 .bp .none)) .eax)),
      WellFormed.instrOk .s16 .s16 (.mov (.rmbRb (.mem (.based16 .bp .none)) .eax)),
      WellFormed.instrOk .s16 .s16 (.mov (.rwIw .eax 0x10000)),
      WellFormed.instrOk .s16 .s16 (.mov (.rmwIw (.reg .eax) 0x10000)),
      WellFormed.instrOk .s16 .s16 (.movzx (.rmb .eax (.mem (.based16 .bp .none)))),
      WellFormed.instrOk .s16 .s16 (.lea .eax (.based16 .bp .none)),
      WellFormed.instrOk .s16 .s16 (.jo (.jw 0x8000)),
      WellFormed.instrOk .s16 .s16 (.jmp (.jw 0x8000)),
      WellFormed.instrOk .s16 .s16 (.jmp (.pw 0x10000 0)),
      WellFormed.instrOk .s16 .s16 (.jmp (.rmw (.mem (.based16 .bp .none)))),
      WellFormed.instrOk .s16 .s16 (.jmp (.mp (.based16 .bp .none))),
      WellFormed.instrOk .s16 .s16 (.call (.jw 0x8000)),
      WellFormed.instrOk .s16 .s16 (.call (.pw 0x10000 0)),
      WellFormed.instrOk .s16 .s16 (.call (.rmw (.mem (.based16 .bp .none)))),
      WellFormed.instrOk .s16 .s16 (.call (.mp (.based16 .bp .none)))].all (fun b => b == false) = true := by
  decide

/-- The check of each FPU form refuses an ill-formed operand. -/
theorem test_illFormed_fpu :
    [WellFormed.instrOk .s16 .s16 (.fadd (.mf32 (.based16 .bp .none))),
      WellFormed.instrOk .s16 .s16 (.fiadd (.m16 (.based16 .bp .none))),
      WellFormed.instrOk .s16 .s16 (.fcom (.mf64 (.based16 .bp .none))),
      WellFormed.instrOk .s16 .s16 (.fld (.mf80 (.based16 .bp .none))),
      WellFormed.instrOk .s16 .s16 (.fst (.mf32 (.based16 .bp .none))),
      WellFormed.instrOk .s16 .s16 (.fild (.m64 (.based16 .bp .none))),
      WellFormed.instrOk .s16 .s16 (.fist (.m16 (.based16 .bp .none))),
      WellFormed.instrOk .s16 .s16 (.fnstsw (.m16 (.based16 .bp .none))),
      WellFormed.instrOk .s16 .s16 (.fldcw (.based16 .bp .none))].all (fun b => b == false) = true := by
  decide

/-- The same terms with their operands put right are well formed. -/
theorem test_wellFormed :
    [WellFormed.memOk .s16 (.based16 .bp (.d8 0)), WellFormed.memOk .s32 (.sib .x1 .eax .esp .none),
      WellFormed.relOk .s16 0xFFFF8000, WellFormed.instrOk .s32 .s16 (.cmp (.axIw 0x10000)),
      WellFormed.instrOk .s16 .s16 (.pop (.sreg .ds)), WellFormed.instrOk .s16 .s16 (.xchg (.axRw .edi)),
      WellFormed.instrOk .s16 .s16 (.mov (.sregRmw .ss (.reg .eax)))].all (fun b => b) = true := by
  decide

/-! ### Words written out from the spec's encodings -/

/-- Words of `30_encoding.md` and rules R122. -/
theorem test_decode_prefixes : decodesTo [
    ([0x26], .pfxEs),
    ([0x2E], .pfxCs),
    ([0x36], .pfxSs),
    ([0x3E], .pfxDs),
    ([0x64], .pfxFs),
    ([0x65], .pfxGs),
    ([0x66], .pfxOpsize),
    ([0x67], .pfxAdsize),
    ([0xF0], .pfxLock),
    ([0xF2], .pfxRepne),
    ([0xF3], .pfxRep)] = true := by decide

/-- Words of `30_encoding.md` and rules R331 to R339. -/
theorem test_decode_alu : decodesTo [
    ([0x00, 0xD8], .add (.rmbRb (.reg .eax) .ebx)),
    ([0x09, 0xCA], .or (.rmwRw (.reg .edx) .ecx)),
    ([0x12, 0xE3], .adc (.rbRmb .esp (.reg .ebx))),
    ([0x1B, 0x2E, 0x00, 0x10], .sbb (.rwRmw .ebp (.mem (.direct16 0x1000)))),
    ([0x24, 0x80], .and (.alIb 0x80)),
    ([0x2D, 0x34, 0x12], .sub (.axIw 0x1234)),
    ([0x80, 0xF7, 0xFF], .xor (.rmbIb (.reg .edi) 0xFF)),
    ([0x81, 0x3E, 0x00, 0x10, 0x34, 0x12], .cmp (.rmwIw (.mem (.direct16 0x1000)) 0x1234)),
    ([0x83, 0xC1, 0xFF], .add (.rmwIb (.reg .ecx) 0xFF)),
    ([0x84, 0xD6], .test (.rmbRb (.reg .esi) .edx)),
    ([0xF7, 0xC3, 0x01, 0x80], .test (.rmwIw (.reg .ebx) 0x8001))] = true := by decide

/-- Words of `30_encoding.md` and rules R340 to R355. -/
theorem test_decode_oneOperand : decodesTo [
    ([0x40], .inc (.rw .eax)),
    ([0x4F], .dec (.rw .edi)),
    ([0xFE, 0xCC], .dec (.rmb (.reg .esp))),
    ([0xF6, 0x16, 0x00, 0x10], .not (.rmb (.mem (.direct16 0x1000)))),
    ([0xF7, 0xDA], .neg (.rmw (.reg .edx))),
    ([0xF6, 0xE3], .mul (.rmb (.reg .ebx))),
    ([0xF7, 0xEB], .imul (.rmw (.reg .ebx))),
    ([0xF6, 0xF3], .div (.rmb (.reg .ebx))),
    ([0xF7, 0xFB], .idiv (.rmw (.reg .ebx))),
    ([0x0F, 0xAF, 0xC3], .imul (.rwRmw .eax (.reg .ebx))),
    ([0x6B, 0xCA, 0x80], .imul (.rwRmwIb .ecx (.reg .edx) 0x80)),
    ([0x27], .daa),
    ([0x2F], .das),
    ([0x37], .aaa),
    ([0x3F], .aas),
    ([0xD4, 0x0A], .aam 10),
    ([0xD5, 0x0A], .aad 10)] = true := by decide

/-- Words of `30_encoding.md` and rules R380 to R398. -/
theorem test_decode_shifts : decodesTo [
    ([0xD0, 0xC0], .rol (.rmbOne (.reg .eax))),
    ([0xD1, 0xC9], .ror (.rmwOne (.reg .ecx))),
    ([0xD2, 0xD2], .rcl (.rmbCl (.reg .edx))),
    ([0xD3, 0xDB], .rcr (.rmwCl (.reg .ebx))),
    ([0xC0, 0xE0, 0x02], .shl (.rmbIb (.reg .eax) 2)),
    ([0xC1, 0x2E, 0x00, 0x10, 0x1F], .shr (.rmwIb (.mem (.direct16 0x1000)) 31)),
    ([0xD1, 0xFF], .sar (.rmwOne (.reg .edi))),
    ([0x0F, 0xA4, 0xD8, 0x08], .shld (.ib (.reg .eax) .ebx 8)),
    ([0x0F, 0xAD, 0xD8], .shrd (.cl (.reg .eax) .ebx)),
    ([0x0F, 0xA3, 0x1E, 0x00, 0x10], .bt (.rmwRw (.mem (.direct16 0x1000)) .ebx)),
    ([0x0F, 0xAB, 0xC1], .bts (.rmwRw (.reg .ecx) .eax)),
    ([0x0F, 0xBA, 0xF2, 0x05], .btr (.rmwIb (.reg .edx) 5)),
    ([0x0F, 0xBB, 0xC1], .btc (.rmwRw (.reg .ecx) .eax)),
    ([0x0F, 0xBC, 0xC3], .bsf .eax (.reg .ebx)),
    ([0x0F, 0xBD, 0xC3], .bsr .eax (.reg .ebx))] = true := by decide

/-- Words of `30_encoding.md` and rules R261 to R269, R318 to R321. -/
theorem test_decode_moves : decodesTo [
    ([0x88, 0xE7], .mov (.rmbRb (.reg .edi) .esp)),
    ([0x89, 0xC3], .mov (.rmwRw (.reg .ebx) .eax)),
    ([0x8B, 0x46, 0xFE], .mov (.rwRmw .eax (.mem (.based16 .bp (.d8 0xFE))))),
    ([0x8C, 0xD8], .mov (.rmwSreg (.reg .eax) .ds)),
    ([0x8E, 0xC1], .mov (.sregRmw .es (.reg .ecx))),
    ([0xA0, 0x00, 0x10], .mov (.alMoffs 0x1000)),
    ([0xA3, 0x00, 0x10], .mov (.moffsAx 0x1000)),
    ([0xB4, 0x12], .mov (.rbIb .esp 0x12)),
    ([0xBF, 0x34, 0x12], .mov (.rwIw .edi 0x1234)),
    ([0xC6, 0x06, 0x00, 0x10, 0x7F], .mov (.rmbIb (.mem (.direct16 0x1000)) 0x7F)),
    ([0x0F, 0x20, 0xD9], .mov (.r32Crn .ecx .cr3)),
    ([0x0F, 0x22, 0xC0], .mov (.crnR32 .cr0 .eax)),
    ([0x0F, 0x21, 0xFA], .mov (.r32Drn .edx .dr7)),
    ([0x0F, 0x23, 0xF3], .mov (.drnR32 .dr6 .ebx)),
    ([0x86, 0xC4], .xchg (.rmbRb (.reg .esp) .eax)),
    ([0x93], .xchg (.axRw .ebx)),
    ([0x90], .nop)] = true := by decide

/-- Words of `30_encoding.md` and rules R283 to R293. -/
theorem test_decode_loads : decodesTo [
    ([0x8D, 0x00], .lea .eax (.based16 .bxsi .none)),
    ([0xC4, 0x3E, 0x00, 0x10], .les .edi (.direct16 0x1000)),
    ([0xC5, 0x36, 0x00, 0x10], .lds .esi (.direct16 0x1000)),
    ([0x0F, 0xB2, 0x26, 0x00, 0x10], .lss .esp (.direct16 0x1000)),
    ([0x0F, 0xB4, 0x06, 0x00, 0x10], .lfs .eax (.direct16 0x1000)),
    ([0x0F, 0xB5, 0x0E, 0x00, 0x10], .lgs .ecx (.direct16 0x1000)),
    ([0x0F, 0xB6, 0xC3], .movzx (.rmb .eax (.reg .ebx))),
    ([0x0F, 0xB7, 0xC3], .movzx (.rmw16 .eax (.reg .ebx))),
    ([0x0F, 0xBE, 0xC3], .movsx (.rmb .eax (.reg .ebx))),
    ([0x0F, 0xBF, 0xC3], .movsx (.rmw16 .eax (.reg .ebx))),
    ([0x98], .cbw),
    ([0x99], .cwd),
    ([0xD7], .xlat),
    ([0xE4, 0x60], .inp (.alIb 0x60)),
    ([0xED], .inp .axDx),
    ([0xE7, 0x61], .out (.ibAx 0x61)),
    ([0xEE], .out .dxAl)] = true := by decide

/-- Words of `30_encoding.md` and rules R298. -/
theorem test_decode_setcc : decodesTo [
    ([0x0F, 0x90, 0xC0], .seto (.reg .eax)),
    ([0x0F, 0x91, 0xC1], .setno (.reg .ecx)),
    ([0x0F, 0x92, 0xC2], .setb (.reg .edx)),
    ([0x0F, 0x93, 0xC3], .setnb (.reg .ebx)),
    ([0x0F, 0x94, 0xC4], .setz (.reg .esp)),
    ([0x0F, 0x95, 0xC5], .setnz (.reg .ebp)),
    ([0x0F, 0x96, 0xC6], .setbe (.reg .esi)),
    ([0x0F, 0x97, 0xC7], .setnbe (.reg .edi)),
    ([0x0F, 0x98, 0xC0], .sets (.reg .eax)),
    ([0x0F, 0x99, 0xC1], .setns (.reg .ecx)),
    ([0x0F, 0x9A, 0xC2], .setp (.reg .edx)),
    ([0x0F, 0x9B, 0xC3], .setnp (.reg .ebx)),
    ([0x0F, 0x9C, 0xC4], .setl (.reg .esp)),
    ([0x0F, 0x9D, 0xC5], .setnl (.reg .ebp)),
    ([0x0F, 0x9E, 0xC6], .setle (.reg .esi)),
    ([0x0F, 0x9F, 0xC7], .setnle (.reg .edi))] = true := by decide

/-- Words of `30_encoding.md` and rules R426. -/
theorem test_decode_jccShort : decodesTo [
    ([0x70, 0x10], .jo (.jb 0x10)),
    ([0x71, 0x11], .jno (.jb 0x11)),
    ([0x72, 0x12], .jb (.jb 0x12)),
    ([0x73, 0x13], .jnb (.jb 0x13)),
    ([0x74, 0x14], .jz (.jb 0x14)),
    ([0x75, 0x15], .jnz (.jb 0x15)),
    ([0x76, 0x16], .jbe (.jb 0x16)),
    ([0x77, 0x17], .jnbe (.jb 0x17)),
    ([0x78, 0x18], .js (.jb 0x18)),
    ([0x79, 0x19], .jns (.jb 0x19)),
    ([0x7A, 0x1A], .jp (.jb 0x1A)),
    ([0x7B, 0x1B], .jnp (.jb 0x1B)),
    ([0x7C, 0x1C], .jl (.jb 0x1C)),
    ([0x7D, 0x1D], .jnl (.jb 0x1D)),
    ([0x7E, 0x1E], .jle (.jb 0x1E)),
    ([0x7F, 0x1F], .jnle (.jb 0x1F))] = true := by decide

/-- Words of `30_encoding.md` and rules R427. -/
theorem test_decode_jccNear : decodesTo [
    ([0x0F, 0x80, 0xFE, 0xFF], .jo (.jw 0xFFFFFFFE)),
    ([0x0F, 0x81, 0xFE, 0xFF], .jno (.jw 0xFFFFFFFE)),
    ([0x0F, 0x82, 0xFE, 0xFF], .jb (.jw 0xFFFFFFFE)),
    ([0x0F, 0x83, 0xFE, 0xFF], .jnb (.jw 0xFFFFFFFE)),
    ([0x0F, 0x84, 0xFE, 0xFF], .jz (.jw 0xFFFFFFFE)),
    ([0x0F, 0x85, 0xFE, 0xFF], .jnz (.jw 0xFFFFFFFE)),
    ([0x0F, 0x86, 0xFE, 0xFF], .jbe (.jw 0xFFFFFFFE)),
    ([0x0F, 0x87, 0xFE, 0xFF], .jnbe (.jw 0xFFFFFFFE)),
    ([0x0F, 0x88, 0xFE, 0xFF], .js (.jw 0xFFFFFFFE)),
    ([0x0F, 0x89, 0xFE, 0xFF], .jns (.jw 0xFFFFFFFE)),
    ([0x0F, 0x8A, 0xFE, 0xFF], .jp (.jw 0xFFFFFFFE)),
    ([0x0F, 0x8B, 0xFE, 0xFF], .jnp (.jw 0xFFFFFFFE)),
    ([0x0F, 0x8C, 0xFE, 0xFF], .jl (.jw 0xFFFFFFFE)),
    ([0x0F, 0x8D, 0xFE, 0xFF], .jnl (.jw 0xFFFFFFFE)),
    ([0x0F, 0x8E, 0xFE, 0xFF], .jle (.jw 0xFFFFFFFE)),
    ([0x0F, 0x8F, 0xFE, 0xFF], .jnle (.jw 0xFFFFFFFE))] = true := by decide

/-- Words of `30_encoding.md` and rules R270 to R282, R444, R445. -/
theorem test_decode_stack : decodesTo [
    ([0x06], .push (.sreg .es)),
    ([0x1F], .pop (.sreg .ds)),
    ([0x0F, 0xA0], .push (.sreg .fs)),
    ([0x0F, 0xA9], .pop (.sreg .gs)),
    ([0x54], .push (.rw .esp)),
    ([0x5D], .pop (.rw .ebp)),
    ([0x68, 0x34, 0x12], .push (.iw 0x1234)),
    ([0x6A, 0x80], .push (.ib 0x80)),
    ([0xFF, 0x36, 0x00, 0x10], .push (.rmw (.mem (.direct16 0x1000)))),
    ([0x8F, 0x06, 0x00, 0x10], .pop (.rmw (.mem (.direct16 0x1000)))),
    ([0x60], .pusha),
    ([0x61], .popa),
    ([0x9C], .pushf),
    ([0x9D], .popf),
    ([0x9E], .sahf),
    ([0x9F], .lahf),
    ([0xC8, 0x10, 0x00, 0x01], .enter 0x0010 1),
    ([0xC9], .leave)] = true := by decide

/-- Words of `30_encoding.md` and rules R421 to R446. -/
theorem test_decode_control : decodesTo [
    ([0xEB, 0x80], .jmp (.jb 0x80)),
    ([0xE9, 0xFE, 0xFE], .jmp (.jw 0xFFFFFEFE)),
    ([0xEA, 0x00, 0x01, 0x00, 0x20], .jmp (.pw 0x0100 0x2000)),
    ([0xFF, 0xE0], .jmp (.rmw (.reg .eax))),
    ([0xFF, 0x2E, 0x00, 0x10], .jmp (.mp (.direct16 0x1000))),
    ([0xE3, 0x02], .jcxz 2),
    ([0xE2, 0xFE], .loop 0xFE),
    ([0xE1, 0xFE], .loope 0xFE),
    ([0xE0, 0xFE], .loopne 0xFE),
    ([0xE8, 0xFD, 0xFF], .call (.jw 0xFFFFFFFD)),
    ([0x9A, 0x00, 0x01, 0x00, 0x20], .call (.pw 0x0100 0x2000)),
    ([0xFF, 0x16, 0x00, 0x10], .call (.rmw (.mem (.direct16 0x1000)))),
    ([0xFF, 0x1E, 0x00, 0x10], .call (.mp (.direct16 0x1000))),
    ([0xC3], .ret .plain),
    ([0xC2, 0x04, 0x00], .ret (.iw 4)),
    ([0xCB], .retf .plain),
    ([0xCA, 0x04, 0x00], .retf (.iw 4)),
    ([0xCC], .int3),
    ([0xCD, 0x21], .int 0x21),
    ([0xCE], .into),
    ([0xCF], .iret),
    ([0x62, 0x06, 0x00, 0x10], .bound .eax (.direct16 0x1000))] = true := by decide

/-- Words of `30_encoding.md` and rules R474 to R480. -/
theorem test_decode_strings : decodesTo [
    ([0xA4], .movs .b),
    ([0xA5], .movs .w),
    ([0xA6], .cmps .b),
    ([0xA7], .cmps .w),
    ([0xAA], .stos .b),
    ([0xAB], .stos .w),
    ([0xAC], .lods .b),
    ([0xAD], .lods .w),
    ([0xAE], .scas .b),
    ([0xAF], .scas .w),
    ([0x6C], .ins .b),
    ([0x6D], .ins .w),
    ([0x6E], .outs .b),
    ([0x6F], .outs .w)] = true := by decide

/-- Words of `30_encoding.md` and rules R500 to R508. -/
theorem test_decode_processor : decodesTo [
    ([0xF8], .clc),
    ([0xF9], .stc),
    ([0xF5], .cmc),
    ([0xFC], .cld),
    ([0xFD], .std),
    ([0xFA], .cli),
    ([0xFB], .sti),
    ([0xF4], .hlt),
    ([0x9B], .wait)] = true := by decide

/-- Words of `30_encoding.md` and rules R601 to R625. -/
theorem test_decode_fpuMem32 : decodesTo [
    ([0xD8, 0x06, 0x00, 0x10], .fadd (.mf32 (.direct16 0x1000))),
    ([0xD8, 0x0E, 0x00, 0x10], .fmul (.mf32 (.direct16 0x1000))),
    ([0xD8, 0x16, 0x00, 0x10], .fcom (.mf32 (.direct16 0x1000))),
    ([0xD8, 0x1E, 0x00, 0x10], .fcomp (.mf32 (.direct16 0x1000))),
    ([0xD8, 0x26, 0x00, 0x10], .fsub (.mf32 (.direct16 0x1000))),
    ([0xD8, 0x2E, 0x00, 0x10], .fsubr (.mf32 (.direct16 0x1000))),
    ([0xD8, 0x36, 0x00, 0x10], .fdiv (.mf32 (.direct16 0x1000))),
    ([0xD8, 0x3E, 0x00, 0x10], .fdivr (.mf32 (.direct16 0x1000))),
    ([0xDA, 0x06, 0x00, 0x10], .fiadd (.m32 (.direct16 0x1000))),
    ([0xDA, 0x0E, 0x00, 0x10], .fimul (.m32 (.direct16 0x1000))),
    ([0xDA, 0x16, 0x00, 0x10], .ficom (.m32 (.direct16 0x1000))),
    ([0xDA, 0x1E, 0x00, 0x10], .ficomp (.m32 (.direct16 0x1000))),
    ([0xDA, 0x26, 0x00, 0x10], .fisub (.m32 (.direct16 0x1000))),
    ([0xDA, 0x2E, 0x00, 0x10], .fisubr (.m32 (.direct16 0x1000))),
    ([0xDA, 0x36, 0x00, 0x10], .fidiv (.m32 (.direct16 0x1000))),
    ([0xDA, 0x3E, 0x00, 0x10], .fidivr (.m32 (.direct16 0x1000)))] = true := by decide

/-- Words of `30_encoding.md` and rules R601 to R625. -/
theorem test_decode_fpuMem64 : decodesTo [
    ([0xDC, 0x06, 0x00, 0x10], .fadd (.mf64 (.direct16 0x1000))),
    ([0xDC, 0x0E, 0x00, 0x10], .fmul (.mf64 (.direct16 0x1000))),
    ([0xDC, 0x16, 0x00, 0x10], .fcom (.mf64 (.direct16 0x1000))),
    ([0xDC, 0x1E, 0x00, 0x10], .fcomp (.mf64 (.direct16 0x1000))),
    ([0xDC, 0x26, 0x00, 0x10], .fsub (.mf64 (.direct16 0x1000))),
    ([0xDC, 0x2E, 0x00, 0x10], .fsubr (.mf64 (.direct16 0x1000))),
    ([0xDC, 0x36, 0x00, 0x10], .fdiv (.mf64 (.direct16 0x1000))),
    ([0xDC, 0x3E, 0x00, 0x10], .fdivr (.mf64 (.direct16 0x1000))),
    ([0xDE, 0x06, 0x00, 0x10], .fiadd (.m16 (.direct16 0x1000))),
    ([0xDE, 0x0E, 0x00, 0x10], .fimul (.m16 (.direct16 0x1000))),
    ([0xDE, 0x16, 0x00, 0x10], .ficom (.m16 (.direct16 0x1000))),
    ([0xDE, 0x1E, 0x00, 0x10], .ficomp (.m16 (.direct16 0x1000))),
    ([0xDE, 0x26, 0x00, 0x10], .fisub (.m16 (.direct16 0x1000))),
    ([0xDE, 0x2E, 0x00, 0x10], .fisubr (.m16 (.direct16 0x1000))),
    ([0xDE, 0x36, 0x00, 0x10], .fidiv (.m16 (.direct16 0x1000))),
    ([0xDE, 0x3E, 0x00, 0x10], .fidivr (.m16 (.direct16 0x1000)))] = true := by decide

/-- Words of `30_encoding.md` and rules R540 to R580. -/
theorem test_decode_fpuMemory : decodesTo [
    ([0xD9, 0x06, 0x00, 0x10], .fld (.mf32 (.direct16 0x1000))),
    ([0xD9, 0x16, 0x00, 0x10], .fst (.mf32 (.direct16 0x1000))),
    ([0xD9, 0x1E, 0x00, 0x10], .fstp (.mf32 (.direct16 0x1000))),
    ([0xD9, 0x26, 0x00, 0x10], .fldenv (.direct16 0x1000)),
    ([0xD9, 0x2E, 0x00, 0x10], .fldcw (.direct16 0x1000)),
    ([0xD9, 0x36, 0x00, 0x10], .fnstenv (.direct16 0x1000)),
    ([0xD9, 0x3E, 0x00, 0x10], .fnstcw (.direct16 0x1000)),
    ([0xDB, 0x2E, 0x00, 0x10], .fld (.mf80 (.direct16 0x1000))),
    ([0xDD, 0x1E, 0x00, 0x10], .fstp (.mf64 (.direct16 0x1000))),
    ([0xDD, 0x26, 0x00, 0x10], .frstor (.direct16 0x1000)),
    ([0xDD, 0x36, 0x00, 0x10], .fnsave (.direct16 0x1000)),
    ([0xDD, 0x3E, 0x00, 0x10], .fnstsw (.m16 (.direct16 0x1000))),
    ([0xDB, 0x06, 0x00, 0x10], .fild (.m32 (.direct16 0x1000))),
    ([0xDF, 0x16, 0x00, 0x10], .fist (.m16 (.direct16 0x1000))),
    ([0xDF, 0x3E, 0x00, 0x10], .fistp (.m64 (.direct16 0x1000))),
    ([0xDF, 0x26, 0x00, 0x10], .fbld (.direct16 0x1000)),
    ([0xDF, 0x36, 0x00, 0x10], .fbstp (.direct16 0x1000))] = true := by decide

/-- Words of `30_encoding.md` and rules R602 to R628. -/
theorem test_decode_fpuRegs : decodesTo [
    ([0xD8, 0xC3], .fadd (.st0St 3)),
    ([0xD8, 0xCB], .fmul (.st0St 3)),
    ([0xD8, 0xD3], .fcom (.st 3)),
    ([0xD8, 0xDB], .fcomp (.st 3)),
    ([0xD8, 0xE3], .fsub (.st0St 3)),
    ([0xD8, 0xEB], .fsubr (.st0St 3)),
    ([0xD8, 0xF3], .fdiv (.st0St 3)),
    ([0xD8, 0xFB], .fdivr (.st0St 3)),
    ([0xDC, 0xC1], .fadd (.stSt0 1)),
    ([0xDC, 0xC9], .fmul (.stSt0 1)),
    ([0xDC, 0xE1], .fsubr (.stSt0 1)),
    ([0xDC, 0xE9], .fsub (.stSt0 1)),
    ([0xDC, 0xF1], .fdivr (.stSt0 1)),
    ([0xDC, 0xF9], .fdiv (.stSt0 1))] = true := by decide

/-- Words of `30_encoding.md` and rules R602 to R628. -/
theorem test_decode_fpuPop : decodesTo [
    ([0xDE, 0xC1], .faddp 1),
    ([0xDE, 0xC9], .fmulp 1),
    ([0xDE, 0xE1], .fsubrp 1),
    ([0xDE, 0xE9], .fsubp 1),
    ([0xDE, 0xF1], .fdivrp 1),
    ([0xDE, 0xF9], .fdivp 1),
    ([0xDE, 0xD9], .fcompp),
    ([0xDA, 0xE9], .fucompp),
    ([0xDD, 0xE2], .fucom 2),
    ([0xDD, 0xEA], .fucomp 2),
    ([0xDD, 0xC2], .ffree 2),
    ([0xDD, 0xD2], .fst (.st 2)),
    ([0xDD, 0xDA], .fstp (.st 2)),
    ([0xD9, 0xC2], .fld (.st 2)),
    ([0xD9, 0xCA], .fxch 2),
    ([0xDF, 0xE0], .fnstsw .ax)] = true := by decide

/-- Words of `30_encoding.md` and rules R555 to R572, R640 to R642. -/
theorem test_decode_fpuConstants : decodesTo [
    ([0xD9, 0xD0], .fnop),
    ([0xD9, 0xE0], .fchs),
    ([0xD9, 0xE1], .fabs),
    ([0xD9, 0xE4], .ftst),
    ([0xD9, 0xE5], .fxam),
    ([0xD9, 0xE8], .fld1),
    ([0xD9, 0xE9], .fldl2t),
    ([0xD9, 0xEA], .fldl2e),
    ([0xD9, 0xEB], .fldpi),
    ([0xD9, 0xEC], .fldlg2),
    ([0xD9, 0xED], .fldln2),
    ([0xD9, 0xEE], .fldz),
    ([0xDB, 0xE0], .feni),
    ([0xDB, 0xE1], .fdisi),
    ([0xDB, 0xE2], .fnclex),
    ([0xDB, 0xE3], .fninit),
    ([0xDB, 0xE4], .fsetpm)] = true := by decide

/-- Words of `30_encoding.md` and rules R643 to R657. -/
theorem test_decode_fpuFunctions : decodesTo [
    ([0xD9, 0xF0], .f2xm1),
    ([0xD9, 0xF1], .fyl2x),
    ([0xD9, 0xF2], .fptan),
    ([0xD9, 0xF3], .fpatan),
    ([0xD9, 0xF4], .fxtract),
    ([0xD9, 0xF5], .fprem1),
    ([0xD9, 0xF6], .fdecstp),
    ([0xD9, 0xF7], .fincstp),
    ([0xD9, 0xF8], .fprem),
    ([0xD9, 0xF9], .fyl2xp1),
    ([0xD9, 0xFA], .fsqrt),
    ([0xD9, 0xFB], .fsincos),
    ([0xD9, 0xFC], .frndint),
    ([0xD9, 0xFD], .fscale),
    ([0xD9, 0xFE], .fsin),
    ([0xD9, 0xFF], .fcos)] = true := by decide

/-- Rules R134, R142, R143, R172, R173: rows the table lacks are undecodable. -/
theorem test_decode_refuses :
    [[0x63, 0xC0], [0x82, 0xC0, 0x01], [0xD6], [0xF1], [0x0F, 0x0B], [0xD9, 0xD1], [0xFE, 0xD0],
      [0x8D, 0xC0], [0xD0, 0xF0], [0x8E, 0xC8], [0xDB, 0xE5], [0x0F, 0x20, 0x08], [0x8B], []].all
      (fun (l : List Byte) => decode .s16 .s16 l == none) = true := by
  decide

/-- A 32-bit address size selects the 32-bit table (R185 to R187, R205). -/
theorem test_decode_address32 :
    decode .s16 .s32 [0x8B, 0x44, 0x8B, 0x10] =
        some (.mov (.rwRmw .eax (.mem (.sib .x4 .ecx .ebx (.d8 0x10)))), []) ∧
      decode .s16 .s32 [0x8B, 0x04, 0x2D, 0x00, 0x01, 0x00, 0x00] =
        some (.mov (.rwRmw .eax (.mem (.sibNoBase .x1 .ebp 0x100))), []) := by
  decide

/-- A 32-bit operand size widens the immediate (R139). -/
theorem test_decode_operand32 :
    decode .s32 .s16 [0xB8, 0x78, 0x56, 0x34, 0x12] = some (.mov (.rwIw .eax 0x12345678), []) := by
  decide

/-- Rules R126, R173: the stop on undecodable bytes; fifteen prefixes and an opcode are too long. -/
theorem test_step_undecodable :
    faults (step (code [0xD6] loaded)) = true ∧
      faults (step (code (List.replicate 15 0x66 ++ [0x90]) loaded)) = true := by
  decide

/-- Rule R678: no delivery in protected mode. -/
theorem test_step_refused :
    refuses (step (protect (code [0xCC] loaded))) .protectedInterrupt = true := by
  decide

/-- The host's word, numbered as the opcode table numbers it, is fetched and run (BSF, R397). -/
theorem test_withFetchWord :
    decodeTableWord 24 0xC3BC0F = some (.bsf .eax (.reg .ebx)) ∧
      holds (step (State.reset.withFetchWord 24 0xC3BC0F)) (fun t => t.eip == 3 && t.flags.ZF) =
        true := by
  decide

/-! ### Single steps -/

/-- Rule R380. -/
theorem test_shl_count_0_writes_nothing :
    after [0xC0, 0xE0, 0] (loaded |> reg .eax 0x80 |> flags 0x8D5)
      (fun t => t.readReg .w8 .eax == 0x80 && t.flags.image == 0x8D7 && t.eip == 0x103) = true := by
  decide

/-- Rule R383. -/
theorem test_rcl_count_9_writes_nothing :
    after [0xC0, 0xD0, 9] (loaded |> reg .eax 0x80 |> flags 0x8D5)
      (fun t => t.readReg .w8 .eax == 0x80 && t.flags.image == 0x8D7) = true := by
  decide

/-- Rule R482. -/
theorem test_rep_movs_count_0_only_moves_on :
    after [0xF3, 0xA4] loaded
      (fun t => t == { loaded.endStep with
          mem := t.mem, eip := 0x102, bus := t.bus, result := some .retired } &&
        t.bus.length == 2) = true := by
  decide

/-- Rule R472. -/
theorem test_rep_movs_first_step :
    after [0xF3, 0xA4] (loaded |> reg .ecx 5 |> reg .esi 0x140 |> reg .edi 0x150 |>
      bytes 0x10140 [0x48, 0x45, 0x4C, 0x4C, 0x4F])
      (fun t => t.eip == 0x100 && t.readReg .w16 .ecx == 4 && t.readReg .w16 .esi == 0x141 &&
        t.mem.readBytes 0x10150 1 == [0x48]) = true := by
  decide

/-- Rule R283. -/
theorem test_lea_bx_si_wraps :
    after [0x8D, 0] (loaded |> reg .ebx 719 |> reg .esi 0xFFF4)
      (fun t => t.readReg .w16 .eax == 707 && t.eip == 0x102) = true := by
  decide

/-- Rule R338. -/
theorem test_cmp_al_cl :
    after [0x38, 0xC8] (loaded |> reg .ecx 1)
      (fun t => t.flags.image == 0x97 && t.readReg .w8 .eax == 0) = true := by
  decide

/-- Rule R381. -/
theorem test_rol_by_1 :
    after [0xD0, 0xC0] (loaded |> reg .eax 0x81)
      (fun t => t.readReg .w8 .eax == 3 && t.flags.CF && t.flags.OF) = true := by
  decide

/-- Rule R385. -/
theorem test_shl_by_1 :
    after [0xD0, 0xE0] (loaded |> reg .eax 0xC0)
      (fun t => t.readReg .w8 .eax == 0x80 && t.flags.image == 0x83) = true := by
  decide

/-- Rule R22. -/
theorem test_mov_ah_keeps_the_rest :
    after [0xB4, 0x12] (loaded |> reg .eax 0xAABBCCDD)
      (fun t => t.readReg .w32 .eax == 0xAABB12DD) = true := by
  decide

/-- Rule R263. -/
theorem test_mov_eax_under_66 :
    after [0x66, 0xB8, 0x78, 0x56, 0x34, 0x12] (loaded |> reg .eax 0xAABBCCDD)
      (fun t => t.readReg .w32 .eax == 0x12345678 && t.eip == 0x106) = true := by
  decide

/-- Rule R340. -/
theorem test_inc_eax_under_66 :
    after [0x66, 0x40] (loaded |> reg .eax 0x1FFFF)
      (fun t => t.readReg .w32 .eax == 0x20000) = true := by
  decide

/-- Rule R183. -/
theorem test_mov_load_wraps_offset :
    after [0x8B, 0] (loaded |> reg .ebx 0xFFFF |> reg .esi 2 |> bytes 0x10001 [0x34, 0x12])
      (fun t => t.readReg .w16 .eax == 0x1234) = true := by
  decide

/-- Rule R189. -/
theorem test_override_wins_over_ss :
    after [0x3E, 0x8B, 0x46, 0] (loaded |> seg .ss 0x2000 |> reg .ebp 0x40 |>
      bytes 0x10040 [0x34, 0x12])
      (fun t => t.readReg .w16 .eax == 0x1234) = true := by
  decide

/-- Rule R186. -/
theorem test_sib_scaled_index :
    after [0x67, 0x8B, 4, 0x48] (loaded |> reg .eax 0x100 |> reg .ecx 0x10 |>
      bytes 0x10120 [0x34, 0x12])
      (fun t => t.readReg .w16 .eax == 0x1234) = true := by
  decide

/-- Rule R186. -/
theorem test_sib_no_index :
    after [0x67, 0x8B, 4, 0x20] (loaded |> reg .eax 0x500 |> bytes 0x10500 [0x34, 0x12])
      (fun t => t.readReg .w16 .eax == 0x1234) = true := by
  decide

/-- Rule R187. -/
theorem test_sib_ebp_index_esp_base :
    after [0x67, 0x8B, 4, 0x6C] (loaded |> seg .ss 0x2000 |> reg .ebp 8 |> reg .esp 0x100 |>
      bytes 0x20110 [0x34, 0x12])
      (fun t => t.readReg .w16 .eax == 0x1234) = true := by
  decide

/-- Rule R88. -/
theorem test_address_above_64k :
    after [0x67, 0x8B, 0x80, 0, 0, 1, 0] (loaded |> reg .eax 0x10 |> bytes 0x20010 [0x34, 0x12])
      (fun t => t.readReg .w16 .eax == 0x1234) = true := by
  decide

/-- Rule R283. -/
theorem test_lea_32_bit_operand_16_bit_address :
    after [0x66, 0x8D, 0x40, 1] (loaded |> reg .ebx 0xFFFF |> reg .eax 0x55555555)
      (fun t => t.readReg .w32 .eax == 0) = true := by
  decide

/-- Rule R283. -/
theorem test_lea_16_bit_operand_32_bit_address :
    after [0x67, 0x8D, 0] (loaded |> reg .eax 0x12345678)
      (fun t => t.readReg .w32 .eax == 0x12345678) = true := by
  decide

/-- Rule R226. -/
theorem test_inc_keeps_cf :
    after [0xFE, 0xC0] (loaded |> reg .eax 0x7F |> flags 1)
      (fun t => t.flags.image == 0x893 && t.readReg .w8 .eax == 0x80) = true := by
  decide

/-- Rule R227. -/
theorem test_neg_of_minimum :
    after [0xF6, 0xD8] (loaded |> reg .eax 0x80)
      (fun t => t.flags.image == 0x883 && t.readReg .w8 .eax == 0x80) = true := by
  decide

/-- Rule R228. -/
theorem test_and_keeps_af :
    after [0x20, 0xD8] (loaded |> reg .eax 0xFF |> reg .ebx 0x80 |> flags 0x8D5)
      (fun t => t.flags.image == 0x92 && t.readReg .w8 .eax == 0x80) = true := by
  decide

/-- Rule R331. -/
theorem test_add_sign_extended_immediate :
    after [0x83, 0xC0, 0xFF] (loaded |> reg .eax 1)
      (fun t => t.flags.image == 0x57 && t.readReg .w32 .eax == 0) = true := by
  decide

/-- Rule R336. -/
theorem test_sub_under_66 :
    after [0x66, 0x83, 0xE8, 1] loaded
      (fun t => t.flags.image == 0x97 && t.readReg .w32 .eax == 0xFFFFFFFF) = true := by
  decide

/-- Rule R338. -/
theorem test_cmp_memory_immediate :
    after [0x81, 0x3E, 0, 0x10, 0x34, 0x12] (loaded |> bytes 0x11000 [0x34, 0x12])
      (fun t => t.flags.ZF && !t.flags.CF && t.eip == 0x106) = true := by
  decide

/-- Rule R331. -/
theorem test_add_to_memory :
    after [0, 6, 0, 0x10] (loaded |> reg .eax 2 |> bytes 0x11000 [0xFF])
      (fun t => t.memReadSpan 1 0x11000 == 1 && t.flags.CF && t.flags.AF) = true := by
  decide

/-- Rule R344. -/
theorem test_mul_word :
    after [0xF7, 0xE3] (loaded |> reg .eax 0xFFFF |> reg .ebx 0xFFFF)
      (fun t => t.readReg .w16 .edx == 0xFFFE && t.readReg .w16 .eax == 1 &&
        t.flags.image == 0x803) = true := by
  decide

/-- Rule R345. -/
theorem test_imul_word :
    after [0xF7, 0xEB] (loaded |> reg .eax 0xFFFF |> reg .ebx 0xFFFF)
      (fun t => t.readReg .w16 .edx == 0 && t.readReg .w16 .eax == 1 &&
        t.flags.image == 2) = true := by
  decide

/-- Rule R345. -/
theorem test_imul_byte_significant :
    after [0xF6, 0xEB] (loaded |> reg .eax 0x80 |> reg .ebx 0xFF)
      (fun t => t.readReg .w16 .eax == 0x80 && t.flags.image == 0x803) = true := by
  decide

/-- Rule R347. -/
theorem test_imul_three_operands :
    after [0x6B, 0xC3, 0x80] (loaded |> reg .ebx 0x101)
      (fun t => t.readReg .w16 .eax == 0x7F80 && t.flags.image == 0x803) = true := by
  decide

/-- Rule R348. -/
theorem test_div_word :
    after [0xF7, 0xF3] (loaded |> reg .edx 1 |> reg .ebx 2)
      (fun t => t.readReg .w16 .eax == 0x8000 && t.readReg .w16 .edx == 0) = true := by
  decide

/-- Rule R348. -/
theorem test_div_overflow_raises :
    after [0xF7, 0xF3] (loaded |> reg .edx 2 |> reg .ebx 2)
      (fun t => t.result == some (.delivered 0)) = true := by
  decide

/-- Rule R349. -/
theorem test_idiv_byte :
    after [0xF6, 0xFB] (loaded |> reg .eax 0x80 |> reg .ebx 0xFF)
      (fun t => t.readReg .w16 .eax == 0x80) = true := by
  decide

/-- Rule R349. -/
theorem test_idiv_negative :
    after [0xF7, 0xFB] (loaded |> reg .edx 0xFFFF |> reg .eax 0xFFF9 |> reg .ebx 2)
      (fun t => t.readReg .w16 .eax == 0xFFFD && t.readReg .w16 .edx == 0xFFFF) = true := by
  decide

/-- Rule R350. -/
theorem test_daa :
    after [0x27] (loaded |> reg .eax 0xFF)
      (fun t => t.readReg .w8 .eax == 0x65 && t.flags.image == 0x17) = true := by
  decide

/-- Rule R351. -/
theorem test_das :
    after [0x2F] (loaded |> reg .eax 0x0F |> flags 0x10)
      (fun t => t.readReg .w8 .eax == 9 && t.flags.image == 0x16) = true := by
  decide

/-- Rule R352. -/
theorem test_aaa :
    after [0x37] (loaded |> reg .eax 0xFB)
      (fun t => t.readReg .w16 .eax == 0x101 && t.flags.image == 0x13) = true := by
  decide

/-- Rule R353. -/
theorem test_aas :
    after [0x3F] (loaded |> reg .eax 0x200 |> flags 0x10)
      (fun t => t.readReg .w16 .eax == 0x10A && t.flags.image == 0x13) = true := by
  decide

/-- Rule R354. -/
theorem test_aam :
    after [0xD4, 0x10] (loaded |> reg .eax 0x3F)
      (fun t => t.readReg .w16 .eax == 0x30F && t.flags.image == 6) = true := by
  decide

/-- Rule R355. -/
theorem test_aad :
    after [0xD5, 0x0A] (loaded |> reg .eax 0xFFFF)
      (fun t => t.readReg .w16 .eax == 0xF5 && t.flags.image == 0x86) = true := by
  decide

/-- Rule R390. -/
theorem test_shld_32 :
    after [0x66, 0x0F, 0xA4, 0xD8, 8] (loaded |> reg .eax 0x12345678 |> reg .ebx 0x9ABCDEF0)
      (fun t => t.readReg .w32 .eax == 0x3456789A && t.flags.image == 6) = true := by
  decide

/-- Rule R391. -/
theorem test_shrd_by_1 :
    after [0x0F, 0xAC, 0xD8, 1] (loaded |> reg .eax 1 |> reg .ebx 1)
      (fun t => t.readReg .w32 .eax == 0x8000 && t.flags.image == 0x887) = true := by
  decide

/-- Rule R390. -/
theorem test_shld_above_width :
    after [0x0F, 0xA4, 0xD8, 0x14] (loaded |> reg .eax 0x1234 |> reg .ebx 0xABCD)
      (fun t => t.readReg .w32 .eax == 0xBCD1 && !t.flags.CF) = true := by
  decide

/-- Rule R392. -/
theorem test_bt_register :
    after [0x0F, 0xA3, 0xD8] (loaded |> reg .eax 0x8000 |> reg .ebx 0x1F)
      (fun t => t.flags.image == 3) = true := by
  decide

/-- Rule R396. -/
theorem test_bts_memory_next_word :
    after [0x0F, 0xAB, 0x1E, 0, 0x10] (loaded |> reg .ebx 0x11)
      (fun t => t.memReadSpan 2 0x11002 == 2 && t.flags.image == 2) = true := by
  decide

/-- Rule R396. -/
theorem test_btr_memory_word_before :
    after [0x0F, 0xB3, 0x1E, 0, 0x10] (loaded |> reg .ebx 0xFFF0 |> bytes 0x10FFE [0xFF, 0xFF])
      (fun t => t.memReadSpan 2 0x10FFE == 0xFFFE && t.flags.image == 3) = true := by
  decide

/-- Rule R395. -/
theorem test_btc_memory_immediate :
    after [0x0F, 0xBA, 0x3E, 0, 0x10, 0x13] (loaded |> bytes 0x11000 [8, 0])
      (fun t => t.memReadSpan 2 0x11000 == 0 && t.flags.image == 3) = true := by
  decide

/-- Rule R397. -/
theorem test_bsf_32 :
    after [0x66, 0x0F, 0xBC, 0xC3] (loaded |> reg .ebx 0x80000000)
      (fun t => t.readReg .w32 .eax == 31 && t.flags.image == 2) = true := by
  decide

/-- Rule R397. -/
theorem test_bsf_zero_source :
    after [0x0F, 0xBC, 0xC3] (loaded |> reg .eax 0x5555)
      (fun t => t.readReg .w32 .eax == 0x5555 && t.flags.image == 0x42) = true := by
  decide

/-- Rule R398. -/
theorem test_bsr :
    after [0x0F, 0xBD, 0xC3] (loaded |> reg .ebx 0x18 |> reg .eax 0x5555)
      (fun t => t.readReg .w32 .eax == 4 && t.flags.image == 2) = true := by
  decide

/-- Rule R271. -/
theorem test_push_sp_old_value :
    after [0x54] (loaded |> reg .esp 0x100)
      (fun t => t.readReg .w16 .esp == 0xFE && t.memReadSpan 2 0x100FE == 0x100) = true := by
  decide

/-- Rule R274. -/
theorem test_pop_sp :
    after [0x5C] (loaded |> reg .esp 0xFE |> bytes 0x100FE [0x34, 0x12])
      (fun t => t.readReg .w16 .esp == 0x1234) = true := by
  decide

/-- Rule R272. -/
theorem test_push_immediate_sign_extends :
    after [0x6A, 0x80] (loaded |> reg .esp 0x100)
      (fun t => t.memReadSpan 2 0x100FE == 0xFF80) = true := by
  decide

/-- Rule R201. -/
theorem test_push_wraps_sp :
    after [0x50] (loaded |> reg .esp 1 |> reg .eax 0xBEEF)
      (fun t => t.readReg .w16 .esp == 0xFFFF && t.memReadSpan 2 0x1FFFF == 0xBEEF) = true := by
  decide

/-- Rule R277. -/
theorem test_pusha :
    after [0x60] (loaded |> reg .eax 1 |> reg .ecx 2 |> reg .edx 3 |> reg .ebx 4 |> reg .esp 0x100 |>
      reg .ebp 6 |> reg .esi 7 |> reg .edi 8)
      (fun t => t.readReg .w16 .esp == 0xF0 &&
        t.mem.readBytes 0x100F0 16 == [8, 0, 7, 0, 6, 0, 0, 1, 4, 0, 3, 0, 2, 0, 1, 0]) = true := by
  decide

/-- Rule R278. -/
theorem test_popa :
    after [0x61] (loaded |> reg .esp 0xF0 |>
      bytes 0x100F0 [8, 0, 7, 0, 6, 0, 0, 1, 4, 0, 3, 0, 2, 0, 1, 0])
      (fun t => t.readReg .w16 .esp == 0x100 && t.readReg .w16 .eax == 1 &&
        t.readReg .w16 .ecx == 2 && t.readReg .w16 .edx == 3 && t.readReg .w16 .ebx == 4 &&
        t.readReg .w16 .ebp == 6 && t.readReg .w16 .esi == 7 &&
        t.readReg .w16 .edi == 8) = true := by
  decide

/-- Rule R279. -/
theorem test_pushf :
    after [0x9C] (loaded |> reg .esp 0x100 |> flags 0x241)
      (fun t => t.memReadSpan 2 0x100FE == 0x243) = true := by
  decide

/-- Rule R280. -/
theorem test_popf :
    after [0x9D] (loaded |> reg .esp 0xFE |> bytes 0x100FE [0xFF, 0xFF])
      (fun t => t.flags.image == 0x7FD7) = true := by
  decide

/-- Rule R281. -/
theorem test_lahf :
    after [0x9F] (loaded |> flags 0x84)
      (fun t => t.readReg .w8 .esp == 0x86) = true := by
  decide

/-- Rule R282. -/
theorem test_sahf :
    after [0x9E] (loaded |> reg .eax 0xD500 |> flags 0x800)
      (fun t => t.flags.image == 0x8D7) = true := by
  decide

/-- Rule R267. -/
theorem test_xchg_al_ah :
    after [0x86, 0xC4] (loaded |> reg .eax 0x1234)
      (fun t => t.readReg .w16 .eax == 0x3412) = true := by
  decide

/-- Rule R197. -/
theorem test_xchg_memory_old_address :
    after [0x87, 0x1F] (loaded |> reg .ebx 0x200 |> bytes 0x10200 [0, 3])
      (fun t => t.readReg .w16 .ebx == 0x300 && t.memReadSpan 2 0x10200 == 0x200) = true := by
  decide

/-- Rule R289. -/
theorem test_movzx :
    after [0x66, 0x0F, 0xB6, 0xC3] (loaded |> reg .ebx 0xFF |> reg .eax 0xFFFFFFFF)
      (fun t => t.readReg .w32 .eax == 0xFF) = true := by
  decide

/-- Rule R290. -/
theorem test_movsx :
    after [0x66, 0x0F, 0xBF, 0xC3] (loaded |> reg .ebx 0x8000)
      (fun t => t.readReg .w32 .eax == 0xFFFF8000) = true := by
  decide

/-- Rule R291. -/
theorem test_cbw :
    after [0x98] (loaded |> reg .eax 0xFF7F)
      (fun t => t.readReg .w32 .eax == 0x7F) = true := by
  decide

/-- Rule R292. -/
theorem test_cdq :
    after [0x66, 0x99] (loaded |> reg .eax 0x7FFFFFFF |> reg .edx 5)
      (fun t => t.readReg .w32 .edx == 0) = true := by
  decide

/-- Rule R293. -/
theorem test_xlat :
    after [0xD7] (loaded |> reg .eax 0x20 |> reg .ebx 0xFFF0 |> bytes 0x10010 [0x77])
      (fun t => t.readReg .w32 .eax == 0x77) = true := by
  decide

/-- Rule R285. -/
theorem test_les :
    after [0xC4, 0x3E, 0, 0x10] (loaded |> bytes 0x11000 [0x34, 0x12, 0, 0x20])
      (fun t => t.readReg .w16 .edi == 0x1234 && t.seg.es == ⟨0x2000,0x20000⟩) = true := by
  decide

/-- Rule R27. -/
theorem test_mov_to_ds_base :
    after [0x8E, 0xD8] (loaded |> reg .eax 0xFFFF)
      (fun t => t.seg.ds == ⟨0xFFFF,0xFFFF0⟩) = true := by
  decide

/-- Rule R265. -/
theorem test_mov_from_segment_zero_extends :
    after [0x66, 0x8C, 0xD8] (loaded |> seg .ds 0x1234 |> reg .eax 0xFFFFFFFF)
      (fun t => t.readReg .w32 .eax == 0x1234) = true := by
  decide

/-- Rule R298. -/
theorem test_setnz :
    after [0x0F, 0x95, 0xC0] (loaded |> reg .eax 0x55)
      (fun t => t.readReg .w32 .eax == 1) = true := by
  decide

/-- Rule R199. -/
theorem test_mov_moffs_override :
    after [0x26, 0xA0, 0, 0x10] (loaded |> seg .es 0x2000 |> bytes 0x21000 [0x66])
      (fun t => t.readReg .w32 .eax == 0x66) = true := by
  decide

/-- Rule R297. -/
theorem test_out_word_two_bytes :
    after [0xEF] (loaded |> reg .edx 0x3C4 |> reg .eax 0xF02)
      (fun t => t.ports == [.write 0x3C5 0xF, .write 0x3C4 2]) = true := by
  decide

/-- Rule R421. -/
theorem test_jmp_short_forward :
    after [0xEB, 0x7F] loaded
      (fun t => t.eip == 0x181) = true := by
  decide

/-- Rule R420. -/
theorem test_jmp_near_wraps :
    after [0xE9, 0xFE, 0xFE] (loaded |> at' 0)
      (fun t => t.eip == 0xFF01) = true := by
  decide

/-- Rule R422. -/
theorem test_jmp_near_32 :
    after [0x66, 0xE9, 0, 0, 1, 0] loaded
      (fun t => t.eip == 0x10106) = true := by
  decide

/-- Rule R426. -/
theorem test_jl_taken :
    after [0x7C, 0x10] (loaded |> flags 0x80)
      (fun t => t.eip == 0x112) = true := by
  decide

/-- Rule R428. -/
theorem test_jcxz_looks_at_cx :
    after [0xE3, 0x10] (loaded |> reg .ecx 0x10000)
      (fun t => t.eip == 0x112) = true := by
  decide

/-- Rule R429. -/
theorem test_loop_from_zero :
    after [0xE2, 0xFE] loaded
      (fun t => t.eip == 0x100 && t.readReg .w32 .ecx == 0xFFFF) = true := by
  decide

/-- Rule R430. -/
theorem test_loope_needs_zf :
    after [0xE1, 0xFE] (loaded |> reg .ecx 3)
      (fun t => t.eip == 0x102 && t.readReg .w32 .ecx == 2) = true := by
  decide

/-- Rule R432. -/
theorem test_call_near :
    after [0xE8, 0xFD, 0xFF] (loaded |> reg .esp 0x200)
      (fun t => t.eip == 0x100 && t.memReadSpan 2 0x101FE == 0x103) = true := by
  decide

/-- Rule R433. -/
theorem test_call_indirect :
    after [0xFF, 0x16, 0, 0x10] (loaded |> reg .esp 0x200 |> bytes 0x11000 [0, 3])
      (fun t => t.eip == 0x300 && t.memReadSpan 2 0x101FE == 0x104) = true := by
  decide

/-- Rule R434. -/
theorem test_call_far :
    after [0x9A, 0, 1, 0, 0x20] (loaded |> reg .esp 0x200)
      (fun t => t.eip == 0x100 && t.memReadSpan 4 0x101FC == 0x10000105 &&
        t.seg.cs == ⟨0x2000, 0x20000⟩) = true := by
  decide

/-- Rule R438. -/
theorem test_retf :
    after [0xCB] (loaded |> reg .esp 0x1FC |> bytes 0x101FC [5, 1, 0, 0x10])
      (fun t => t.eip == 0x105 && t.readReg .w16 .esp == 0x200) = true := by
  decide

/-- Rule R437. -/
theorem test_ret_releases :
    after [0xC2, 4, 0] (loaded |> reg .esp 0x1FC |> bytes 0x101FC [0x50, 1])
      (fun t => t.eip == 0x150 && t.readReg .w16 .esp == 0x202) = true := by
  decide

/-- Rule R441. -/
theorem test_int_21 :
    after [0xCD, 0x21] (loaded |> reg .esp 0x100 |> bytes 0x84 [0x34, 0x12, 0, 0xF0] |> flags 0x202)
      (fun t => t.eip == 0x1234 && t.seg.cs == ⟨0xF000, 0xF0000⟩ &&
        t.mem.readBytes 0x100FA 6 == [2, 1, 0, 0x10, 2, 2] && t.readReg .w16 .esp == 0xFA &&
        t.flags.image == 2) = true := by
  decide

/-- Rule R440. -/
theorem test_int3 :
    after [0xCC] (loaded |> reg .esp 0x100 |> bytes 0xC [0, 4, 0, 0x10])
      (fun t => t.eip == 0x400 && t.memReadSpan 2 0x100FA == 0x101) = true := by
  decide

/-- Rule R442. -/
theorem test_into_not_taken :
    after [0xCE] loaded
      (fun t => t.eip == 0x101 && t.result == some .retired) = true := by
  decide

/-- Rule R443. -/
theorem test_iret :
    after [0xCF] (loaded |> reg .esp 0x120 |> bytes 0x10120 [2, 1, 0, 0x10, 0xD7, 0xA])
      (fun t => t.eip == 0x102 && t.seg.cs == ⟨0x1000, 0x10000⟩ && t.flags.image == 0xAD7 &&
        t.readReg .w16 .esp == 0x126) = true := by
  decide

/-- Rule R444. -/
theorem test_enter_level_1 :
    after [0xC8, 8, 0, 1] (loaded |> reg .esp 0x100 |> reg .ebp 0x200)
      (fun t => t.readReg .w16 .ebp == 0xFE && t.readReg .w16 .esp == 0xF4 &&
        t.mem.readBytes 0x100FC 4 == [0xFE, 0, 0, 2]) = true := by
  decide

/-- Rule R445. -/
theorem test_leave :
    after [0xC9] (loaded |> reg .ebp 0xFE |> bytes 0x100FE [0, 2])
      (fun t => t.readReg .w16 .ebp == 0x200 && t.readReg .w16 .esp == 0x100) = true := by
  decide

/-- Rule R446. -/
theorem test_bound_inside :
    after [0x62, 6, 0, 0x10] (loaded |> reg .eax 0xFFFF |> bytes 0x11000 [0xFE, 0xFF, 5, 0])
      (fun t => t.eip == 0x104) = true := by
  decide

/-- Rule R446. -/
theorem test_bound_outside :
    after [0x62, 6, 0, 0x10] (loaded |> reg .eax 6 |> bytes 0x11000 [0xFE, 0xFF, 5, 0])
      (fun t => t.result == some (.delivered 5)) = true := by
  decide

/-- Rule R474. -/
theorem test_movsw_down :
    after [0xA5] (loaded |> reg .esi 0x140 |> reg .edi 0x150 |> bytes 0x10140 [0xEF, 0xBE] |>
      flags 0x400)
      (fun t => t.memReadSpan 2 0x10150 == 0xBEEF && t.readReg .w16 .esi == 0x13E &&
        t.readReg .w16 .edi == 0x14E) = true := by
  decide

/-- Rule R470. -/
theorem test_movs_source_override :
    after [0x2E, 0xA4] (loaded |> seg .cs 0x3000 |> reg .esi 0x140 |> reg .edi 0x150 |>
      bytes 0x30140 [0xEF])
      (fun t => t.memReadSpan 1 0x10150 == 0xEF) = true := by
  decide

/-- Rule R475. -/
theorem test_cmpsw :
    after [0xA7] (loaded |> reg .esi 0x140 |> reg .edi 0x150 |> bytes 0x10140 [1, 0] |>
      bytes 0x10150 [0xFF, 0xFF])
      (fun t => t.flags.image == 0x13 && t.readReg .w16 .esi == 0x142) = true := by
  decide

/-- Rule R476. -/
theorem test_scasw :
    after [0xAF] (loaded |> reg .eax 0x8000 |> reg .edi 0x150 |> bytes 0x10150 [1, 0])
      (fun t => t.flags.image == 0x816) = true := by
  decide

/-- Rule R478. -/
theorem test_lodsw_wraps :
    after [0xAD] (loaded |> reg .esi 0xFFFF |> bytes 0x1FFFF [1, 2])
      (fun t => t.readReg .w16 .eax == 0x201 && t.readReg .w32 .esi == 1) = true := by
  decide

/-- Rule R507. -/
theorem test_hlt :
    after [0xF4] loaded
      (fun t => t.result == some .halted && t.eip == 0x101) = true := by
  decide

/-- Rule R269. -/
theorem test_prefixes_on_nop :
    after [0x66, 0x67, 0x26, 0x90] loaded
      (fun t => t.eip == 0x104) = true := by
  decide

/-- Rule R123. -/
theorem test_repeated_66_does_not_toggle :
    after [0x66, 0x66, 0x40] (loaded |> reg .eax 0xFFFF)
      (fun t => t.eip == 0x103 && t.readReg .w32 .eax == 0x10000) = true := by
  decide

/-- Rule R126. -/
theorem test_fifteen_bytes :
    after (List.replicate 14 0x66 ++ [0x90]) loaded
      (fun t => t.eip == 0x10F) = true := by
  decide

/-- Rule R534. -/
theorem test_fld_f32_nan :
    after [0xD9, 6, 0, 0x10] (loaded |> bytes 0x11000 [1, 0, 0x80, 0x7F])
      (fun t => t.fpu.st 0 == 0x7FF0000020000000) = true := by
  decide

/-- Rule R540. -/
theorem test_fld_f32 :
    after [0xD9, 6, 0, 0x10] (loaded |> bytes 0x11000 [0xCD, 0xCC, 0xCC, 0x3D])
      (fun t => t.fpu.st 0 == 0x3FB99999A0000000) = true := by
  decide

/-- Rule R545. -/
theorem test_fstp_f32 :
    after [0xD9, 0x1E, 0, 0x10] (loaded |> fpu [0x3FB999999999999A])
      (fun t => t.mem.readBytes 0x11000 4 == [0xCD, 0xCC, 0xCC, 0x3D] &&
        t.fpu.FTOP == 0) = true := by
  decide

/-- Rule R546. -/
theorem test_fstp_f80 :
    after [0xDB, 0x3E, 0, 0x10] (loaded |> fpu [0x3FB999999999999A])
      (fun t => t.mem.readBytes 0x11000 10 == [0, 0xD0, 0xCC, 0xCC, 0xCC, 0xCC, 0xCC, 0xCC, 0xFB,
        0x3F]) = true := by
  decide

/-- Rule R534. -/
theorem test_fld_f80_rounds :
    after [0xDB, 0x2E, 0, 0x10] (loaded |>
      bytes 0x11000 [0xFF, 0xFF, 0xFF, 0xFF, 0xFF, 0xFF, 0xFF, 0xFF, 0xFE, 0x3F])
      (fun t => t.fpu.st 0 == 0x3FF0000000000000) = true := by
  decide

/-- Rule R548. -/
theorem test_fild_64_rounds :
    after [0xDF, 0x2E, 0, 0x10] (loaded |> bytes 0x11000 [1, 0, 0, 0, 0, 0, 0x20, 0])
      (fun t => t.fpu.st 0 == 0x4340000000000000) = true := by
  decide

/-- Rule R549. -/
theorem test_fist_half_to_even :
    after [0xDB, 0x16, 0, 0x10] (loaded |> fpu [0xC004000000000000])
      (fun t => t.mem.readBytes 0x11000 4 == [0xFE, 0xFF, 0xFF, 0xFF]) = true := by
  decide

/-- Rule R536. -/
theorem test_fistp_indefinite :
    after [0xDF, 0x1E, 0, 0x10] (loaded |> fpu [0x40DFFFE000000000])
      (fun t => t.mem.readBytes 0x11000 2 == [0, 0x80]) = true := by
  decide

/-- Rule R553. -/
theorem test_fbstp :
    after [0xDF, 0x36, 0, 0x10] (loaded |> fpu [0x40C81C8000000000])
      (fun t => t.mem.readBytes 0x11000 10 == [0x45, 0x23, 1, 0, 0, 0, 0, 0, 0, 0] &&
        t.fpu.FTOP == 0) = true := by
  decide

/-- Rule R553. -/
theorem test_fbstp_indefinite :
    after [0xDF, 0x36, 0, 0x10] (loaded |> fpu [0x43ABC16D674EC800])
      (fun t => t.mem.readBytes 0x11000 10 == [0, 0, 0, 0, 0, 0, 0, 0xC0, 0xFF, 0xFF]) = true := by
  decide

/-- Rule R552. -/
theorem test_fbld :
    after [0xDF, 0x26, 0, 0x10] (loaded |>
      bytes 0x11000 [0x99, 0x99, 0x99, 0x99, 0x99, 0x99, 0x99, 0x99, 0x99, 0])
      (fun t => t.fpu.st 0 == 0x43ABC16D674EC800) = true := by
  decide

/-- Rule R554. -/
theorem test_fxch :
    after [0xD9, 0xC9] (loaded |> fpu [0x3FF0000000000000, 0x4000000000000000])
      (fun t => t.fpu.st 0 == 0x4000000000000000 && t.fpu.st 1 == 0x3FF0000000000000) = true := by
  decide

/-- Rule R541. -/
theorem test_fld_st0 :
    after [0xD9, 0xC0] (loaded |> fpu [0x4008000000000000])
      (fun t => t.fpu.st 0 == 0x4008000000000000 && t.fpu.st 1 == 0x4008000000000000 &&
        t.fpu.FTOP == 6) = true := by
  decide

/-- Rule R547. -/
theorem test_fstp_st0_pops :
    after [0xDD, 0xD8] (loaded |> fpu [0x4008000000000000, 0x4010000000000000])
      (fun t => t.fpu.st 0 == 0x4010000000000000 && t.fpu.FTOP == 7) = true := by
  decide

/-- Rule R640. -/
theorem test_fxam_empty :
    after [0xD9, 0xE5] loaded
      (fun t => [t.fpu.C3, t.fpu.C2, t.fpu.C1, t.fpu.C0] == [true, false, false, true]) = true := by
  decide

/-- Rule R640. -/
theorem test_fxam_subnormal :
    after [0xD9, 0xE5] (loaded |> fpu [1])
      (fun t => [t.fpu.C3, t.fpu.C2, t.fpu.C1, t.fpu.C0] == [true, true, false, false]) = true := by
  decide

/-- Rule R623. -/
theorem test_fcompp :
    after [0xDE, 0xD9] (loaded |> fpu [0x3FF0000000000000, 0x4000000000000000])
      (fun t => t.fpu.C0 && t.fpu.FTOP == 0) = true := by
  decide

/-- Rule R602. -/
theorem test_faddp :
    after [0xDE, 0xC1] (loaded |> fpu [0x3FB999999999999A, 0x3FC999999999999A])
      (fun t => t.fpu.st 0 == 0x3FD3333333333334) = true := by
  decide

/-- Rule R607. -/
theorem test_fsub_st0_st1 :
    after [0xD8, 0xE1] (loaded |> fpu [0x4014000000000000, 0x4008000000000000])
      (fun t => t.fpu.st 0 == 0x4000000000000000) = true := by
  decide

/-- Rule R610. -/
theorem test_fsubr_st0_st1 :
    after [0xD8, 0xE9] (loaded |> fpu [0x4014000000000000, 0x4008000000000000])
      (fun t => t.fpu.st 0 == 0xC000000000000000) = true := by
  decide

/-- Rule R607. -/
theorem test_fsub_st1_st0 :
    after [0xDC, 0xE9] (loaded |> fpu [0x4014000000000000, 0x4008000000000000])
      (fun t => t.fpu.st 1 == 0xC000000000000000) = true := by
  decide

/-- Rule R611. -/
theorem test_fsubrp :
    after [0xDE, 0xE1] (loaded |> fpu [0x4014000000000000, 0x4008000000000000])
      (fun t => t.fpu.st 0 == 0x4000000000000000) = true := by
  decide

/-- Rule R613. -/
theorem test_fdiv_zero_by_zero :
    after [0xD8, 0xF1] (loaded |> fpu [0x0000000000000000, 0x0000000000000000])
      (fun t => t.fpu.st 0 == 0xFFF8000000000000) = true := by
  decide

/-- Rule R606. -/
theorem test_fimul_m16 :
    after [0xDE, 0x0E, 0, 0x10] (loaded |> fpu [0x3FF8000000000000] |> bytes 0x11000 [0xFE, 0xFF])
      (fun t => t.fpu.st 0 == 0xC008000000000000) = true := by
  decide

/-- Rule R643. -/
theorem test_fsqrt :
    after [0xD9, 0xFA] (loaded |> fpu [0x4000000000000000])
      (fun t => t.fpu.st 0 == 0x3FF6A09E667F3BCD) = true := by
  decide

/-- Rule R644. -/
theorem test_frndint_negative_zero :
    after [0xD9, 0xFC] (loaded |> fpu [0xBFD3333333333333])
      (fun t => t.fpu.st 0 == 0x8000000000000000) = true := by
  decide

/-- Rule R645. -/
theorem test_fscale_to_subnormal :
    after [0xD9, 0xFD] (loaded |> fpu [0x3FF0000000000000, 0xC090C80000000000])
      (fun t => t.fpu.st 0 == 1) = true := by
  decide

/-- Rule R646. -/
theorem test_fxtract :
    after [0xD9, 0xF4] (loaded |> fpu [0x3FE8000000000000])
      (fun t => t.fpu.st 0 == 0x3FF8000000000000 && t.fpu.st 1 == 0xBFF0000000000000) = true := by
  decide

/-- Rule R647. -/
theorem test_fprem :
    after [0xD9, 0xF8] (loaded |> fpu [0xC01C000000000000, 0x4000000000000000])
      (fun t => t.fpu.st 0 == 0xBFF0000000000000 &&
        [t.fpu.C3, t.fpu.C2, t.fpu.C1, t.fpu.C0] == [true, false, true, false]) = true := by
  decide

/-- Rule R648. -/
theorem test_fprem1 :
    after [0xD9, 0xF5] (loaded |> fpu [0x4014000000000000, 0x4000000000000000])
      (fun t => t.fpu.st 0 == 0x3FF0000000000000 &&
        [t.fpu.C3, t.fpu.C2, t.fpu.C1, t.fpu.C0] == [true, false, false, false]) = true := by
  decide

/-- Rule R576. -/
theorem test_fnstenv :
    after [0xD9, 0x36, 0, 0x10] (loaded |> words |> fpu [0x3FF0000000000000, 0x0000000000000000])
      (fun t => t.mem.readBytes 0x11000 14 == [0x40, 0xF, 0, 0x31, 0xFF, 0x4F, 0, 0, 0, 0, 0, 0, 0,
        0] && t.fpu.FCW == 0xF7F) = true := by
  decide

/-- Rule R579. -/
theorem test_fnsave :
    after [0xDD, 0x36, 0, 0x10] (loaded |> bytes 0x11000 (List.replicate 100 0xAA))
      (fun t => t.mem.readBytes 0x11000 95 == [0x7F,3,0,0,255,255] ++ List.replicate 88 0 ++ [0xAA]) = true := by
  decide

/-! ### The hypotheses of the obligations are met -/

/-- A test on the next state of an instruction's meaning, as a statement about that state. -/
theorem exec_next {i : Instr} {s : State} (p : State → Bool) (h : holds (exec i s) p = true) :
    ∃ t, exec i s = .next t ∧ p t = true := next_of_holds h

theorem witness_DecodeEncode :
    WellFormed.instrOk .s16 .s16 (.add (.rmwIw (.mem (.based16 .bp (.d16 0xFFFF))) 0xFFFF)) = true ∧
      WellFormed.instrOk .s32 .s32 (.jo (.jw 0x80000000)) = true := by
  decide

theorem witness_DecodedIsWellFormed :
    decode .s16 .s16 [0xE9, 0x00, 0x80, 0x90] = some (.jmp (.jw 0xFFFF8000), [0x90]) := by decide

/-- `StepRunsInstruction`: NOP, and a two-byte jump whose second byte lies at offset 0, after the wrap at
0xFFFF. -/
theorem witness_StepRunsInstruction :
    (let s := code [0x90] loaded
     decode .s16 .s16 ((List.range 15).map fun k =>
       s.mem.get (s.seg.cs.base + BitVec.ofNat 32 ((s.eip.toNat + k) % 2 ^ 16)).toNat) =
         some (.nop, List.replicate 14 0)) ∧
      (let s := loaded |> at' 0xFFFF |> bytes 0x1FFFF [0xEB] |> bytes 0x10000 [0x05]
       s.csD = false ∧
       decode .s16 .s16 ((List.range 15).map fun k =>
         s.mem.get (s.seg.cs.base + BitVec.ofNat 32 ((s.eip.toNat + k) % 2 ^ 16)).toNat) =
           some (.jmp (.jb 5), List.replicate 13 0)) ∧
      isPrefix .nop = false ∧ isPrefix (.jmp (.jb 5)) = false := by
  decide

/-- Clauses of `OnlyStops`: a state whose bytes are undecodable, and one outside protected mode. -/
theorem witness_OnlyStops :
    (let s := code [0xD6] loaded
     decodeAt s.csD s.window = none ∧ faults (step s) = true) ∧
      State.reset.protectedMode = false := by
  decide

/-- `OnlyStops`, the end of a run: a run over NOP and HLT that halts at its second step. -/
theorem witness_OnlyStops_run :
    ∃ t, Reaches (code [0x90, 0xF4] loaded) t ∧ t.result = some .halted := by
  obtain ⟨t, ht, hp⟩ := next_of_holds (r := step (code [0x90, 0xF4] loaded))
    (p := fun t => t.result == some .retired && holds (step t) fun u => u.result == some .halted) (by decide)
  rw [Bool.and_eq_true] at hp
  obtain ⟨u, hu, hq⟩ := next_of_holds hp.2
  have ht' : t.result = some .retired := by simpa using hp.1
  exact ⟨u, .next (.first ht) (by rw [ht']; decide) hu, by simpa using hq⟩

theorem witness_PrefixesRecord :
    ∃ t, step (code [0x66, 0x90] loaded) = .next t ∧ (t.pfx == .empty) = true :=
  next_of_holds (by decide)

theorem reset_inv : State.reset.Inv := by simp [State.Inv]; decide

theorem loaded_inv : State.Inv (code [0xF9] loaded) := by simp [State.Inv]; decide

theorem witness_InvKept :
    State.Inv (code [0xF9] loaded) ∧
      ∃ t, step (code [0xF9] loaded) = .next t ∧ t.flags.CF = true :=
  ⟨loaded_inv, next_of_holds (by decide)⟩

theorem loaded_realMode (l : List Byte) : (code l loaded).RealMode :=
  ⟨show loaded.protectedMode = false by decide, rfl, rfl,
    fun r => show (loaded.seg.get r).Real by cases r <;> rfl⟩

theorem witness_RealModeKept :
    (code [0xF9] loaded).RealMode ∧ ∃ t, step (code [0xF9] loaded) = .next t ∧
      (t.protectedMode == false) = true :=
  ⟨loaded_realMode _, next_of_holds (by decide)⟩

/-- `WhoChangesWhat`, its clauses on control and debug registers, selectors, ports and the FPU: an
instruction that is none of those named. -/
theorem witness_WhoChangesWhat :
    (∃ t, exec .stc loaded = .next t ∧ (t.flags.CF) = true) ∧ isFpu .stc = false ∧
      loadsSelector .stc = false ∧
      (∀ c r, Instr.stc ≠ .mov (.crnR32 c r)) ∧ (∀ d r, Instr.stc ≠ .mov (.drnR32 d r)) ∧
      (∀ f, Instr.stc ≠ .inp f) ∧ (∀ f, Instr.stc ≠ .out f) ∧ (∀ f, Instr.stc ≠ .ins f) ∧
      (∀ f, Instr.stc ≠ .outs f) := by
  refine ⟨exec_next _ (by decide), by decide, by decide, ?_, ?_, ?_, ?_, ?_, ?_⟩ <;> intros <;>
    intro h <;> cases h

/-- `WhoChangesWhat`, its clauses on the flags. -/
theorem witness_WhoChangesWhat_flags :
    isFpu .fld1 = true ∧ (∃ t, exec .fld1 loaded = .next t ∧ (t.flags == loaded.flags) = true) ∧
      changesFlags (.lahf) = false ∧
      ∃ t, exec .lahf loaded = .next t ∧ (t.flags == loaded.flags) = true :=
  ⟨by decide, exec_next _ (by decide), by decide, exec_next _ (by decide)⟩

/-- `WhoChangesWhat`, its clause on memory: the byte after the one a store writes. -/
theorem witness_WhoChangesWhat_memory :
    ∃ t, exec (.mov (.moffsAl 0x10)) loaded = .next t ∧
      ¬ WritesByte (loaded.accessesTo (.mov (.moffsAl 0x10)) t) 0x10011 := by
  obtain ⟨t, ht, hp⟩ := exec_next (i := .mov (.moffsAl 0x10)) (s := loaded)
    (fun t => loaded.accessesTo (.mov (.moffsAl 0x10)) t == [.write 0x10010 1]) (by decide)
  refine ⟨t, ht, ?_⟩
  rw [beq_iff_eq] at hp
  rw [hp]
  rintro ⟨a, n, h, j, hj, he⟩
  simp only [List.mem_singleton, BusAccess.write.injEq] at h
  obtain ⟨rfl, rfl⟩ := h
  obtain rfl : j = 0 := by omega
  revert he
  decide

/-- `OnlyStatedReads`: a load, and a memory that differs in the byte after the one it reads. -/
theorem witness_OnlyStatedReads :
    loaded.beginStep.result = some .retired ∧
      ∃ t, exec (.mov (.alMoffs 0x10)) loaded.beginStep = .next t ∧
        ∀ p, ReadsByte (loaded.beginStep.accessesTo (.mov (.alMoffs 0x10)) t) p →
          Memory.get [(0x10011, 0xFF)] p = loaded.beginStep.mem.get p := by
  obtain ⟨t, ht, hp⟩ := exec_next (i := .mov (.alMoffs 0x10)) (s := loaded.beginStep)
    (fun t => loaded.beginStep.accessesTo (.mov (.alMoffs 0x10)) t == [.read 0x10010 1]) (by decide)
  refine ⟨rfl, t, ht, ?_⟩
  rw [beq_iff_eq] at hp
  rw [hp]
  rintro p ⟨a, n, h, j, hj, rfl⟩
  simp only [List.mem_singleton, BusAccess.read.injEq] at h
  obtain ⟨rfl, rfl⟩ := h
  obtain rfl : j = 0 := by omega
  decide

/-- `OnlyStatedReads`, its forms: an instruction of each of its lists, a bit test at a word of memory. -/
theorem witness_OnlyStatedReads_forms :
    Instr.xor ∈ [Instr.add, .or, .adc, .sbb, .and, .sub, .xor] ∧ Instr.dec ∈ [Instr.inc, .dec] ∧
      Instr.not ∈ [Instr.neg, .not] ∧ Instr.shrd ∈ [Instr.shld, .shrd] ∧
      Instr.btc ∈ [Instr.bts, .btr, .btc] ∧
      (loaded.bitTarget (.rmwIb (.mem (.direct16 0x10)) 0xFF)).1 = .phys 0x10010 := by
  refine ⟨by simp, by simp, by simp, by simp, by simp, by decide⟩

/-- `StoppedSteps`: a step that faults, one that is refused, and the hypotheses of its other clauses. -/
theorem witness_StoppedSteps :
    faults (step (code [0xC6, 0x8E, 0x34, 0x12] loaded)) = true ∧
      refuses (step (code [0xF6, 0x36, 0x10, 0x00] (protect loaded))) .protectedInterrupt = true ∧
      holds (step (code [0x90] loaded)) (fun t => t.result == some .retired) = true ∧
      decodeAt false [0x66, 0x90] = some ⟨{ PrefixState.empty with opsize := true, count := 1 }, .nop, 2⟩ ∧
      (0xF1 : Byte) ∈ [(0x63 : Byte), 0x82, 0xD6, 0xF1] ∧ (0x62 : Byte) ∈ [(0x8D : Byte), 0x62, 0xC4, 0xC5] ∧
      0xC0 ≤ (0xC0 : Byte).toNat ∧ farLoadInstr .ss = some .lss ∧ Instr.idiv ∈ [Instr.div, .idiv] := by
  refine ⟨by decide, by decide, by decide, by decide, by decide, by decide, by decide, rfl, by simp⟩

/-- Rules R121, R173, R671: group value 1 of C6 has no row, and the displacement of mod 2 has been fetched. -/
theorem test_afterStep_undecodable :
    (code [0xC6, 0x8E, 0x34, 0x12] loaded).afterStep.bus =
      [.read 0x10103 1, .read 0x10102 1, .read 0x10101 1, .read 0x10100 1] := by
  decide

/-- Rules R348, R671, R678: a divide error in protected mode has read its operand; EIP stays. -/
theorem test_afterStep_refused :
    (let t := (code [0xF6, 0x36, 0x10, 0x00] (protect loaded)).afterStep
     t.bus = [.read 0x10010 1, .read 0x10103 1, .read 0x10102 1, .read 0x10101 1, .read 0x10100 1] ∧
       t.eip = 0x100 ∧ t.result = none) := by
  decide

/-- Rule R126: fifteen prefixes and no opcode are fifteen fetches. -/
theorem test_bytesFetched_limit : bytesFetched false (List.replicate 15 0x66) = 15 := by decide

/-- `Multiply`: both one-operand forms and the three register forms, at the 16-bit size. -/
theorem witness_Multiply :
    (ImulForm.rmb (.reg .ebx) = .rmb (.reg .ebx) ∧ Width.w8 = .w8) ∧
      (ImulForm.rmw (.reg .ebx) = .rmw (.reg .ebx) ∧ Width.w16 = loaded.opw) ∧
      (∃ rm, ImulForm.rwRmw .ecx (.reg .ebx) = .rwRmw .ecx rm ∧
        loaded.readReg loaded.opw .ecx = loaded.readReg loaded.opw .ecx ∧
        loaded.readReg loaded.opw .ebx = loaded.readRM loaded.opw rm) ∧
      (∃ rm imm, ImulForm.rwRmwIw .ecx (.reg .ebx) 0x8000 = .rwRmwIw .ecx rm imm ∧
        loaded.readReg loaded.opw .ebx = loaded.readRM loaded.opw rm ∧
        (0x8000 : BitVec 16) = imm.setWidth loaded.opw.bits) ∧
      ∃ rm imm, ImulForm.rwRmwIb .ecx (.reg .ebx) 0x80 = .rwRmwIb .ecx rm imm ∧
        loaded.readReg loaded.opw .ebx = loaded.readRM loaded.opw rm ∧
        (0xFF80 : BitVec 16) = imm.signExtend loaded.opw.bits :=
  ⟨⟨rfl, rfl⟩, ⟨rfl, rfl⟩, ⟨_, rfl, rfl, rfl⟩, ⟨_, _, rfl, rfl, rfl⟩,
    ⟨_, _, rfl, rfl, rfl⟩⟩

/-- `Divide`, DIV: the greatest quotient that fits, the least that does not, and the divisor 0. -/
theorem witness_Divide_unsigned :
    (let s := loaded |> reg .eax 0xFF |> reg .ebx 1
     (s.readReg .w8 .ebx).toNat ≠ 0 ∧
       (s.dividend .w8).toNat / (s.readReg .w8 .ebx).toNat < 2 ^ 8) ∧
      (let s := loaded |> reg .eax 0x100 |> reg .ebx 1
       2 ^ 8 ≤ (s.dividend .w8).toNat / (s.readReg .w8 .ebx).toNat) ∧
      (loaded.readReg .w8 .ebx).toNat = 0 := by
  decide

/-- `Divide`, IDIV: the quotients -128 and 127 fit, -129 and 128 do not, and the divisor 0. -/
theorem witness_Divide_signed :
    let fits (n : Int) : Bool := decide (-(2 ^ 7) ≤ n.tdiv 1 ∧ n.tdiv 1 < 2 ^ 7)
    let n (v : BitVec 32) : Int := ((loaded |> reg .eax v |> reg .ebx 1).dividend .w8).toInt
    fits (n 0xFF80) = true ∧ fits (n 0x7F) = true ∧ fits (n 0xFF7F) = false ∧
      fits (n 0x80) = false ∧ (loaded.readReg .w8 .ebx).toInt = 0 := by
  decide

theorem witness_BcdAdjust : (1 : BitVec 8) ≠ 0 ∧ (0xFF : BitVec 8) ≠ 0 := by decide

/-- `DecimalAdjust`, addition: 99 + 99 with a carry. -/
theorem witness_DecimalAdjust_add :
    let o := flagsAdd (n := 8) .reset 0x99 0x99 true
    let s : State := { loaded.writeReg .w8 .eax o.1 with flags := o.2 }
    (0x99 : BitVec 8).toNat % 16 ≤ 9 ∧ (0x99 : BitVec 8).toNat / 16 ≤ 9 ∧
      s.readReg .w8 .eax = o.1 ∧ s.flags = o.2 ∧
      ∃ t, exec .daa s = .next t ∧ (t.readReg .w8 .eax == 0x99 && t.flags.CF) = true :=
  ⟨by decide, by decide, by decide, rfl, exec_next _ (by decide)⟩

/-- `DecimalAdjust`, subtraction: 0 - 99 with a borrow. -/
theorem witness_DecimalAdjust_sub :
    let o := flagsSub (n := 8) .reset 0 0x99 true
    let s : State := { loaded.writeReg .w8 .eax o.1 with flags := o.2 }
    (0 : BitVec 8).toNat % 16 ≤ 9 ∧ (0 : BitVec 8).toNat / 16 ≤ 9 ∧
      s.readReg .w8 .eax = o.1 ∧ s.flags = o.2 ∧
      ∃ t, exec .das s = .next t ∧ (t.readReg .w8 .eax == 0 && t.flags.CF) = true :=
  ⟨by decide, by decide, by decide, rfl, exec_next _ (by decide)⟩

theorem witness_ShiftClosedForms : 1 ≤ (1 : Nat) ∧ 1 ≤ (31 : Nat) := by decide

/-- `ShiftsExecute`: counts that leave no step (32, and 9 for RCL at width 8), and one that does. -/
theorem witness_ShiftsExecute :
    (loaded.shiftArgs (.rmbIb (.reg .eax) 32)).2.2.toNat % 32 = 0 ∧
      (loaded.shiftArgs (.rmbIb (.reg .eax) 9)).2.2.toNat % 32 % (Width.w8.bits + 1) = 0 ∧
      (loaded.shiftArgs (.rmbIb (.reg .eax) 31)).2.2.toNat % 32 ≠ 0 := by
  decide

/-- `DoubleShifts` at width 16: the masked counts 0, 1, 16 (the width) and 17. -/
theorem witness_DoubleShifts :
    let c (imm : BitVec 8) : Nat :=
      (loaded.doubleShiftArgs (.ib (.reg .eax) .ebx imm)).2.2.toNat % 32
    c 32 = 0 ∧ (c 1 ≠ 0 ∧ c 1 ≤ loaded.opw.bits) ∧ (c 16 ≠ 0 ∧ c 16 ≤ loaded.opw.bits) ∧
      loaded.opw.bits < c 17 := by
  decide

theorem witness_BitTests_scans :
    loaded.readRM loaded.opw (.reg .ebx) = 0 ∧
      (loaded |> reg .ebx 0x8000).readRM (loaded |> reg .ebx 0x8000).opw (.reg .ebx) ≠ 0 := by
  decide

theorem witness_SegmentLoads :
    farLoadInstr .es = some .les ∧ farLoadInstr .ss = some .lss ∧ farLoadInstr .ds = some .lds ∧
      farLoadInstr .fs = some .lfs ∧ farLoadInstr .gs = some .lgs ∧
      segmentFor loaded .es 0xFFFF = some ⟨0xFFFF0, false⟩ ∧ SegReg.cs ≠ .es := by
  refine ⟨rfl, rfl, rfl, rfl, rfl, by decide, by decide⟩

/-- `Exchange`: each of the three forms. -/
theorem witness_Exchange :
    (XchgForm.rmbRb (.reg .esp) .eax = .rmbRb (.reg .esp) .eax ∧ Width.w8 = .w8) ∧
      (XchgForm.rmwRw (.mem (.direct16 0)) .eax = .rmwRw (.mem (.direct16 0)) .eax ∧
        Width.w16 = loaded.opw) ∧
      (XchgForm.axRw .ebx = .axRw .ebx ∧ RM.reg .eax = .reg .eax ∧ Width.w16 = loaded.opw) :=
  ⟨⟨rfl, rfl⟩, ⟨rfl, rfl⟩, ⟨rfl, rfl, rfl⟩⟩

/-- `RegisterLoads`: both operand sizes. -/
theorem witness_RegisterLoads :
    loaded.opsz = .s16 ∧
      State.opsz { loaded with pfx := { loaded.pfx with opsize := true } } = .s32 := by
  decide

/-- `PushPop`: a register other than the stack pointer, and a selector that is loaded. -/
theorem witness_PushPop :
    Reg.edi ≠ .esp ∧ segmentFor loaded .ss 0xFFFF = some ⟨0xFFFF0, false⟩ := by decide

/-- `EnterLeave`: the operand size and the stack size agree; the depths 0, 1, and 31, which copies. -/
theorem witness_EnterLeave :
    loaded.opsz = loaded.stksz ∧ (0x20 : BitVec 8).toNat % 32 = 0 ∧ (1 : BitVec 8).toNat % 32 ≠ 0 ∧
      29 + 1 < (0xFF : BitVec 8).toNat % 32 := by
  decide

/-- `CallsReturns`: a selector in real mode. -/
theorem witness_CallsReturns : segmentFor loaded .cs 0x1234 = some ⟨0x12340, false⟩ := by decide

theorem witness_Delivery :
    loaded.protectedMode = false ∧ (protect loaded).protectedMode = true := by decide

/-- `SoftwareInterrupts`: INTO with OF both ways; BOUND at both bounds and one outside each. -/
theorem witness_SoftwareInterrupts :
    (flags 0x800 loaded).flags.OF = true ∧ loaded.flags.OF = false ∧
      (let s := bytes 0x11000 [0xFE, 0xFF, 0x02, 0x00] loaded
       let lo := (s.memRead s.opw (s.memAddr (.direct16 0x1000))).toInt
       let hi := (s.memRead s.opw (s.memAddr (.direct16 0x1000) + 2)).toInt
       lo = -2 ∧ hi = 2 ∧
         (let i := ((reg .eax 0xFFFE s).readReg .w16 .eax).toInt
          lo ≤ i ∧ i ≤ hi) ∧
         (let i := ((reg .eax 2 s).readReg .w16 .eax).toInt
          lo ≤ i ∧ i ≤ hi) ∧
         ((reg .eax 0xFFFD s).readReg .w16 .eax).toInt < lo ∧
         hi < ((reg .eax 3 s).readReg .w16 .eax).toInt) := by
  decide

theorem witness_InterruptReturn :
    segmentFor loaded .cs 0x1234 = some ⟨0x12340, false⟩ ∧ (code [] loaded).RealMode ∧
      ∃ t, exec (.int 0x21) (code [] loaded) = .next t ∧ (t.eip == 0) = true :=
  ⟨by decide, loaded_realMode _, exec_next _ (by decide)⟩

theorem witness_StringElements : loaded.pfx.rep = .none := by decide

/-- The starting state of the repeated string instructions: REP in force and a count. -/
def repeating (count : BitVec 32) : State :=
  { reg .ecx count loaded with pfx := { loaded.pfx with rep := .rep } }

/-- `RepeatStep`: the counts 0 and 1. -/
theorem witness_RepeatStep :
    (repeating 0).pfx.rep ≠ .none ∧ (repeating 0).count = 0 ∧ (repeating 1).count ≠ 0 ∧
      ∃ t, exec (.cmps .b) { repeating 1 with pfx := { (repeating 1).pfx with rep := .none } } =
        .next t ∧ t.flags.ZF = true :=
  ⟨by decide, by decide, by decide, exec_next _ (by decide)⟩

/-- `RepeatRuns`: a count of 2, the first execution goes back, the second is the last. -/
theorem witness_RepeatRuns :
    (repeating 2).pfx.rep ≠ .none ∧ (repeating 2).count ≠ 0 ∧
      (1 ≤ 1 ∧ 1 < (repeating 2).count.toNat) := by
  decide

theorem witness_ProcessorAndHost :
    loaded.flags.IF = false ∧ (flags 0x200 loaded).flags.IF = true ∧
      (∃ t, deliver 8 0x100 (flags 0x200 loaded) = .next t ∧ (t.flags.IF == false) = true) ∧
      (∃ t, deliver 2 0x100 loaded = .next t ∧ (t.eip == 0) = true) ∧
      (protect loaded).protectedMode = true ∧
      segmentFor loaded .ss 0xFFFF = some ⟨0xFFFF0, false⟩ ∧ SegReg.cs ≠ .ss :=
  ⟨by decide, by decide, next_of_holds (by decide), next_of_holds (by decide), by decide, by decide,
    by decide⟩

/-- `FpuCompletes`: a form that stores nothing, one that stores, and FNSTSW AX. -/
theorem witness_FpuCompletes :
    isFpu .fld1 = true ∧ fpuStore .s16 .fld1 = none ∧ isFpu (.fstp (.mf80 (.direct16 0))) = true ∧
      fpuStore .s16 (.fstp (.mf80 (.direct16 0))) = some (.direct16 0, 10) ∧
      isFpu (.fnstsw .ax) = true := by
  decide

theorem witness_FpuPop : (1 : BitVec 3) ≠ Fpu.reset.FTOP ∧ (7 : BitVec 3) ≠ Fpu.reset.FTOP := by decide

/-- `FpuLoads`: a slot beside the new top, and a position whose value moves down. -/
theorem witness_FpuLoads : (0 : BitVec 3) ≠ Fpu.reset.FTOP - 1 ∧ (6 : BitVec 3) ≠ 7 := by decide

/-- `RoundsToNearest`: the greatest binary64 number is what it rounds to, and it is below infinity. -/
theorem witness_RoundsToNearest :
    FFormat.f64.round (2 ^ 53 - 1) 971 = 0x7FEFFFFFFFFFFFFF ∧
      FFormat.f64.round (2 ^ 53 - 1) 971 < FFormat.f64.infinity ∧ 0 < FFormat.f64.infinity ∧
      (F64.val 0x7FEFFFFFFFFFFFFF).isFinite = true ∧ (F64.val 0x8000000000000001).isFinite = true := by
  decide

/-- `RoundsToNearest`, the cases of a quotient and of the infinities: a divisor that is no zero, a zero
divisor, an infinity and a NaN. -/
theorem witness_RoundsToNearest_cases :
    F64.finite 0x3FF0000000000000 = true ∧ F64.toRat 0x3FF0000000000000 = 1 ∧
      F64.finite 0x8000000000000000 = true ∧ F64.toRat 0x8000000000000000 = 0 ∧
      F64.val 0x7FF0000000000000 = .inf false ∧ F64.val 0xFFF0000000000000 = .inf true ∧
      F64.cls 0x7FF0000000000001 = .nan := by
  refine ⟨by decide, ?_, by decide, ?_, by decide, by decide, by decide⟩
  · have h : F64.val 0x3FF0000000000000 = .fin false (2 ^ 52) (-52) := by decide
    rw [F64.toRat, h]
    norm_num [FVal.toRat]
  · have h : F64.val 0x8000000000000000 = .fin true 0 (-1074) := by decide
    rw [F64.toRat, h]
    simp [FVal.toRat]

/-- `IntRounds`: 5/2 to nearest, down, up and toward zero, and -5/2 to nearest and toward zero. -/
theorem witness_IntRounds :
    IntRounds 0 (5 / 2) 2 ∧ IntRounds 1 (5 / 2) 2 ∧ IntRounds 2 (5 / 2) 3 ∧ IntRounds 3 (5 / 2) 2 ∧
      IntRounds 0 (-5 / 2) (-2) ∧ IntRounds 3 (-5 / 2) (-2) := by
  refine ⟨?_, ?_, ?_, ?_, ?_, ?_⟩ <;> refine ⟨?_, ?_, ?_, ?_⟩ <;> intro h <;>
    first
    | exact absurd h (by decide)
    | norm_num [abs_of_pos, abs_of_neg]

/-- `Conversions`: patterns on both sides of every test, and the three sizes. -/
theorem witness_Conversions :
    F64.cls 0x7FF0000000000000 ≠ .nan ∧ F64.cls 0x8000000000000001 ≠ .nan ∧
      (-(2 ^ 53) ≤ (2 ^ 53 : Int) ∧ (2 ^ 53 : Int) ≤ 2 ^ 53) ∧
      (0x7F7FFFFF : BitVec 32).extractLsb' 23 8 ≠ 0xFF ∧
      (0x7F800000 : BitVec 32).extractLsb' 23 8 = 0xFF ∧
      F64.finite 0x7FEFFFFFFFFFFFFF = true ∧ F64.finite 0x7FF0000000000000 = false ∧
      F64.cls 0x7FF0000000000000 = .infinity ∧ F64.cls 0x7FF0000000000001 = .nan ∧
      (0x7FFEFFFFFFFFFFFFFFFF : BitVec 80).extractLsb' 64 15 ≠ 0x7FFF ∧
      (0x7FFF0000000000000000 : BitVec 80).extractLsb' 64 15 = 0x7FFF ∧
      (10 ^ 18 - 1 : Int).natAbs < 10 ^ 18 ∧ 10 ^ 18 ≤ (10 ^ 18 : Int).natAbs := by
  decide

/-- `Conversions`, the threshold of binary32: 1 lies below it, 2^128 does not. -/
theorem witness_Conversions_threshold :
    |F64.toRat 0x3FF0000000000000| < 2 ^ 128 - 2 ^ 103 ∧
      2 ^ 128 - 2 ^ 103 ≤ |F64.toRat 0x47F0000000000000| := by
  have h : F64.val 0x47F0000000000000 = .fin false (2 ^ 52) 76 := by decide
  rw [witness_RoundsToNearest_cases.2.1, F64.toRat, h]
  norm_num [FVal.toRat]

/-- `FpuFunctions`: numbers of both signs and zero, an integer rounded both ways, infinities and a NaN. -/
theorem witness_FpuFunctions :
    F64.finite 0x3FF0000000000000 = true ∧ (0 : ℚ) ≤ F64.toRat 0x3FF0000000000000 ∧
      F64.finite 0xBFF0000000000000 = true ∧ F64.toRat 0xBFF0000000000000 < 0 ∧
      IntRounds 0 (F64.toRat 0x3FF0000000000000 / F64.toRat 0x3FF0000000000000) 1 ∧
      IntRounds 3 (F64.toRat 0xBFF0000000000000) (-1) ∧
      F64.toRat 0x8000000000000000 = 0 ∧ F64.cls 0xFFF0000000000000 = .infinity ∧
      F64.cls 0xFFF8000000000000 = .nan := by
  have h : F64.val 0xBFF0000000000000 = .fin true (2 ^ 52) (-52) := by decide
  have hn : F64.toRat 0xBFF0000000000000 = -1 := by
    rw [F64.toRat, h]
    norm_num [FVal.toRat]
  rw [witness_RoundsToNearest_cases.2.1, hn]
  refine ⟨by decide, by norm_num, by decide, by norm_num, ?_, ?_,
    witness_RoundsToNearest_cases.2.2.2.1, by decide, by decide⟩ <;>
    refine ⟨?_, ?_, ?_, ?_⟩ <;> intro h <;>
    first
    | exact absurd h (by decide)
    | norm_num [abs_of_pos, abs_of_neg]

/-- `FpuCompare`: a NaN on either side, two finite values, and the infinities. -/
theorem witness_FpuCompare :
    F64.cls 0x7FF0000000000001 = .nan ∧ F64.cls 0x7FF0000000000000 ≠ .nan ∧
      (F64.val 0x8000000000000000).isFinite = true ∧
      F64.val 0x7FF0000000000000 = .inf false ∧ F64.val 0xFFF0000000000000 = .inf true := by
  decide

/-- `FpuUnary`, FXAM: an unused top, and a used top of each class at the edges of the classes. -/
theorem witness_FpuUnary_classes :
    loaded.fpu.used loaded.fpu.FTOP = false ∧
      (fpu [0] loaded).fpu.used (fpu [0] loaded).fpu.FTOP = true ∧
      F64.cls 0xFFF0000000000001 = .nan ∧ F64.cls 0x0010000000000000 = .normal ∧
      F64.cls 0x7FEFFFFFFFFFFFFF = .normal ∧ F64.cls 0xFFF0000000000000 = .infinity ∧
      F64.cls 0x8000000000000000 = .zero ∧ F64.cls 0x000FFFFFFFFFFFFF = .subnormal ∧
      F64.cls 1 = .subnormal := by
  decide

/-- `FpuUnary`, FPREM and FPREM1: a quotient (7 by 2), and none (a divisor 0). -/
theorem witness_FpuUnary_remainders :
    (fremainder64 false 0x401C000000000000 0x4000000000000000).2 = some 3 ∧
      (fremainder64 true 0x401C000000000000 0x4000000000000000).2 = some 4 ∧
      (fremainder64 false 0x401C000000000000 0).2 = none := by
  decide

theorem witness_FpuControl :
    (2 : BitVec 3) ≠ loaded.fpu.FTOP ∧ (2 : BitVec 3) ≠ loaded.fpu.FTOP + 1 ∧
      envSize .s16 = 14 ∧ envSize .s32 = 28 := by
  decide

/-- `FpuControl`: a byte of the environment image outside its three words. -/
theorem witness_FpuControl_span :
    InSpan 0x100 14 0x10D ∧ ¬ InSpan 0x100 2 0x10D ∧ ¬ InSpan 0x102 2 0x10D ∧
      ¬ InSpan 0x104 2 0x10D := by
  refine ⟨⟨13, by decide, by decide⟩, ?_, ?_, ?_⟩ <;>
    · rintro ⟨j, hj, h⟩
      have : j = 0 ∨ j = 1 := by omega
      rcases this with rfl | rfl <;> revert h <;> decide

/-- `SaveRestore`: a byte of the image outside its three words, in the 28-byte format. -/
theorem witness_SaveRestore_span :
    InSpan 0x100 28 0x102 ∧ ¬ InSpan 0x100 2 0x102 ∧ ¬ InSpan 0x104 2 0x102 ∧
      ¬ InSpan 0x108 2 0x102 := by
  refine ⟨⟨2, by decide, by decide⟩, ?_, ?_, ?_⟩ <;>
    · rintro ⟨j, hj, h⟩
      have : j = 0 ∨ j = 1 := by omega
      rcases this with rfl | rfl <;> revert h <;> decide

/-! ### The record of the interface calls (R98, R100, R107) -/

/-- Rule R98: `ADD [BX], AX` fetches its two bytes, then makes one read and one write of the same word. -/
theorem test_record_add : after [0x01, 0x07] loaded (fun t =>
    t.bus.reverse == [.read 0x10100 1, .read 0x10101 1, .read 0x10000 2, .write 0x10000 2]) = true := by
  decide

/-- Rule R278: POPA reads eight words, the discarded one among them. -/
theorem test_record_popa : after [0x61] (loaded |> reg .esp 0x20) (fun t =>
    t.bus.length == 9 && t.bus.contains (.read 0x10026 2)) = true := by
  decide

/-- Rule R676: INT 21h writes three words, then reads the two of its vector. -/
theorem test_record_int : after [0xCD, 0x21] (loaded |> reg .esp 0x100) (fun t =>
    t.bus.reverse == [.read 0x10100 1, .read 0x10101 1, .write 0x100FE 2, .write 0x100FC 2,
      .write 0x100FA 2, .read 0x84 2, .read 0x86 2]) = true := by
  decide

/-- `opcode_table.json`, the rows of R320 and R321 ("mod ignored"): `0F 21` and `0F 23` with mod 0, 1 and 2
name the register rm and read no displacement. -/
theorem test_decode_debugMod : decodesTo [
    ([0x0F, 0x21, 0x06], .mov (.r32Drn .esi .dr0)),
    ([0x0F, 0x21, 0x7C], .mov (.r32Drn .esp .dr7)),
    ([0x0F, 0x23, 0x47], .mov (.drnR32 .dr0 .edi)),
    ([0x0F, 0x23, 0xB5], .mov (.drnR32 .dr6 .ebp))] = true := by
  decide

end Sys2Proof.Tests
end

section
/-! The fetch of an instruction in the numbers of R107 and R144, and a step over an instruction without
prefixes. -/

namespace Sys2Proof.Machine

/-! ### Code offsets as remainders (R107, R144) -/

theorem codeOffset_toNat (csD : Bool) (off : BitVec 32) :
    (codeOffset csD off).toNat = off.toNat % if csD then 2 ^ 32 else 2 ^ 16 := by
  cases csD
  · exact Nat.and_two_pow_sub_one_eq_mod off.toNat 16
  · exact (Nat.mod_eq_of_lt off.isLt).symm

/-- The sum wraps at 2^32 first, which 2^16 and 2^32 both divide. -/
theorem codeOffset_add (csD : Bool) (off : BitVec 32) (k : Nat) :
    codeOffset csD (off + BitVec.ofNat 32 k) =
      BitVec.ofNat 32 ((off.toNat + k) % if csD then 2 ^ 32 else 2 ^ 16) := by
  apply BitVec.eq_of_toNat_eq
  rw [codeOffset_toNat, BitVec.toNat_add, BitVec.toNat_ofNat, BitVec.toNat_ofNat]
  split <;> omega

theorem fetchAddr_eq (s : State) (k : Nat) :
    s.fetchAddr k = s.seg.cs.base +
      BitVec.ofNat 32 ((s.eip.toNat + k) % if s.csD then 2 ^ 32 else 2 ^ 16) :=
  congrArg (s.seg.cs.base + ·) (codeOffset_add s.csD s.eip k)

theorem window_eq (s : State) :
    s.window = (List.range 15).map fun k => s.mem.get (s.seg.cs.base +
      BitVec.ofNat 32 ((s.eip.toNat + k) % if s.csD then 2 ^ 32 else 2 ^ 16)).toNat := by
  simp only [State.window, maxLength, fetchAddr_eq]

theorem fetches_eq (s : State) (n : Nat) :
    s.fetches n = (List.range n).map fun k => .read (s.seg.cs.base +
      BitVec.ofNat 32 ((s.eip.toNat + k) % if s.csD then 2 ^ 32 else 2 ^ 16)) 1 := by
  simp only [State.fetches, fetchAddr_eq]

theorem withLength_eq (s : State) (n : Nat) :
    s.withLength n = { s with
      nextEip := BitVec.ofNat 32 ((s.eip.toNat + n) % if s.csD then 2 ^ 32 else 2 ^ 16) } := by
  simp only [State.withLength, codeOffset_add]

/-! ### An instruction at the front of the window (R3, R41) -/

/-- `runInstr` with what it records and empties written out (R41, R100, R107, R144). -/
theorem runInstr_eq (i : Instr) (n : Nat) (s : State) :
    runInstr i n s = thenDo (exec i (s.withLength n)) fun t => .next { t with
      pfx := .empty
      nextEip := 0
      bus := (s.fetches n ++ (s.withLength n).accessesTo i t).reverse ++ t.bus } := rfl

theorem runFrom_of_not_prefix {fuel : Nat} {bytes rest : List Byte} {s : State} {i : Instr}
    (hd : decode s.opsz s.adsz bytes = some (i, rest)) (hp : isPrefix i = false) :
    runFrom (fuel + 1) bytes s = runInstr i (maxLength - rest.length) s := by
  simp [runFrom, hd, hp]

/-- With PrefixState empty the default bit alone selects both sizes (R128, R129). -/
theorem step_of_not_prefix {s : State} {i : Instr} {rest : List Byte}
    (hd : decode (if s.csD then .s32 else .s16) (if s.csD then .s32 else .s16) s.window = some (i, rest))
    (hp : isPrefix i = false) :
    step s = runInstr i (maxLength - rest.length) s.beginStep := by
  have size : sizeFor s.csD false = if s.csD then .s32 else .s16 := by simp [sizeFor]
  rw [← size] at hd
  exact runFrom_of_not_prefix (s := s.beginStep) hd hp

/-- Settles O4: the window decodes without a prefix, so the step is `runInstr`, whose length, fetches and
record are those of R100, R107 and R144. -/
theorem stepRunsInstruction : Obligations.StepRunsInstruction := by
  intro s i rest z M fetch window hd hp n u
  have hw : s.window = window := window_eq s
  have hu : s.beginStep.withLength n = u := withLength_eq s.beginStep n
  have hf : s.beginStep.fetches n = (List.range n).map fun k => .read (fetch k) 1 :=
    fetches_eq s.beginStep n
  have hstep : step s = runInstr i n s.beginStep := step_of_not_prefix (hw ▸ hd) hp
  rw [hstep, runInstr_eq, hu, hf]

end Sys2Proof.Machine
end

section
/-! A write of a word: the bytes it puts, and what it leaves alone. -/

namespace Sys2Proof.Machine

/-- A word write leaves every byte outside its span alone, the wrap at the top of memory included. -/
theorem sameMemExcept_memWrite (s : State) (w : Width) (a : BitVec 32) (v : BitVec w.bits) :
    SameMemExcept a w.bytes s (s.memWrite w a v) := fun p hp =>
  (get_memWrite s w a v p).2 fun k hk he => hp ⟨k, hk, he⟩

theorem sameRest_memWrite (s : State) (w : Width) (a : BitVec 32) (v : BitVec w.bits) :
    SameRest s (s.memWrite w a v) :=
  ⟨⟨rfl, rfl, rfl⟩, rfl, ⟨rfl, rfl, rfl, rfl, rfl, rfl, rfl⟩⟩

/-- Settles O9: the laws of a word write, at any address of the 32-bit space. -/
theorem memoryLittleEndian : Obligations.MemoryLittleEndian := fun s w a v =>
  ⟨memRead_memWrite s w a v, fun j hj => (get_memWrite s w a v _).1 j hj rfl,
    sameMemExcept_memWrite s w a v, rfl, rfl, rfl, sameRest_memWrite s w a v⟩

end Sys2Proof.Machine
end

section
/-! Effective addresses as numbers: the sums of the 16- and 32-bit forms, and their default segments. -/

namespace Sys2Proof.Machine

/-! ### Words as residues -/

theorem toNat_modEq_toInt {n : Nat} (x : BitVec n) : (x.toNat : ℤ) ≡ x.toInt [ZMOD 2 ^ n] := by
  rw [BitVec.toInt_eq_toNat_bmod]
  exact_mod_cast (Int.bmod_emod).symm

theorem add_modEq {n : Nat} {x y : BitVec n} {p q : ℤ} (hx : (x.toNat : ℤ) ≡ p [ZMOD 2 ^ n])
    (hy : (y.toNat : ℤ) ≡ q [ZMOD 2 ^ n]) : ((x + y).toNat : ℤ) ≡ p + q [ZMOD 2 ^ n] := by
  have h : ((x + y).toNat : ℤ) = (x.toNat + y.toNat) % 2 ^ n := by simp [BitVec.toNat_add]
  rw [h]
  exact (Int.mod_modEq _ _).trans (hx.add hy)

theorem toNat_eq_emod {n : Nat} {x : BitVec n} {p : ℤ} (h : (x.toNat : ℤ) ≡ p [ZMOD 2 ^ n]) :
    (x.toNat : ℤ) = p % 2 ^ n := by
  rw [← h.eq, Int.emod_eq_of_lt (by positivity) (by exact_mod_cast x.isLt)]

/-! ### 16-bit forms (R181 to R183) -/

/-- The sum of two base registers as a number. -/
theorem readReg_add_modEq (s : State) (r q : Reg) :
    ((s.readReg .w16 r + s.readReg .w16 q).toNat : ℤ) ≡
      ((s.readReg .w16 r).toNat + (s.readReg .w16 q).toNat : Nat) [ZMOD 2 ^ 16] :=
  add_modEq (Int.ModEq.refl _) (Int.ModEq.refl _)

/-- The base may be given by any number with its residue: one register, or the sum of two. -/
theorem memOffset_based16 (s : State) (b : Base16) (d : Disp16) {p : ℤ}
    (h : ((s.base16 b).toNat : ℤ) ≡ p [ZMOD 2 ^ 16]) :
    ((s.memOffset (.based16 b d)).toNat : ℤ) = (p + (disp16 d).toInt) % 2 ^ 16 := by
  rw [← toNat_eq_emod (add_modEq h (toNat_modEq_toInt (disp16 d)))]
  exact congrArg Nat.cast (BitVec.toNat_setWidth_of_le (by decide))

theorem defaultSeg_based16 (b : Base16) (d : Disp16) :
    defaultSeg (.based16 b d) = if b = .bpsi ∨ b = .bpdi ∨ b = .bp then .ss else .ds := by
  cases b <;> rfl

/-! ### 32-bit forms (R185, R186) -/

theorem sibIndex_modEq (s : State) (sc : Scale) (ix : Reg) :
    ((s.sibIndex sc ix).toNat : ℤ) ≡
      ((if ix = .esp then 0 else (s.gpr.get ix).toNat * 2 ^ Scale.shift sc : Nat) : ℤ)
        [ZMOD 2 ^ 32] := by
  unfold State.sibIndex
  split
  · rfl
  · have h : ((s.gpr.get ix <<< Scale.shift sc).toNat : ℤ) =
        ((s.gpr.get ix).toNat * 2 ^ Scale.shift sc : Nat) % 2 ^ 32 := by
      rw [BitVec.toNat_shiftLeft, Nat.shiftLeft_eq]
      norm_cast
    exact (congrArg (· % _) h).trans (Int.mod_modEq _ _)

/-- Settles O31: base, index and displacement are added as residues, modulo 2^16 in the 16-bit forms and
modulo 2^32 in the 32-bit ones. -/
theorem effectiveAddresses : Obligations.EffectiveAddresses := by
  refine ⟨fun s => ⟨fun b d => ?_, fun d => ?_⟩, fun z lo hi rest => rfl, fun s => ?_⟩
  · intro base disp
    have hb : ((s.base16 b).toNat : ℤ) ≡ base [ZMOD 2 ^ 16] := by
      cases b with
      | bxsi | bxdi | bpsi | bpdi => exact readReg_add_modEq s _ _
      | si | di | bp | bx => rfl
    have hd : (disp16 d).toInt = disp := by
      cases d with
      | d8 v => exact BitVec.toInt_signExtend_of_le (by decide)
      | none | d16 v => rfl
    exact ⟨hd ▸ memOffset_based16 s b d hb, congrArg s.overridden (defaultSeg_based16 b d)⟩
  · exact ⟨BitVec.toNat_setWidth_of_le (by decide), rfl⟩
  · intro r32 disp times index
    have hd (d : Disp32) : ((disp32 d).toNat : ℤ) ≡ disp d [ZMOD 2 ^ 32] := by
      have h : (disp32 d).toInt = disp d := by
        cases d with
        | d8 v => exact BitVec.toInt_signExtend_of_le (by decide)
        | none | d32 v => rfl
      exact h ▸ toNat_modEq_toInt (disp32 d)
    have ht (sc : Scale) : times sc = 2 ^ Scale.shift sc := by cases sc <;> rfl
    have hi (sc : Scale) (ix : Reg) :
        ((s.sibIndex sc ix).toNat : ℤ) ≡ index sc ix [ZMOD 2 ^ 32] := by
      simpa only [index, ht] using sibIndex_modEq s sc ix
    have hr (r : Reg) : ((s.readReg .w32 r).toNat : ℤ) ≡ r32 r [ZMOD 2 ^ 32] := .refl _
    exact ⟨fun d => ⟨rfl, rfl⟩,
      fun b d => ⟨toNat_eq_emod (add_modEq (hr b) (hd d)), rfl⟩,
      fun sc ix b d => ⟨toNat_eq_emod (add_modEq (add_modEq (hr b) (hi sc ix)) (hd d)), rfl⟩,
      fun sc ix d => ⟨toNat_eq_emod (add_modEq (hi sc ix) (toNat_modEq_toInt d)), rfl⟩,
      fun r off => BitVec.toNat_add _ _, fun m => rfl, fun w => ⟨fun r => rfl, fun m => rfl⟩⟩

end Sys2Proof.Machine
end

section
/-! Port accesses: the bytes IN reads and OUT writes, at consecutive ports, and the port history they
leave. -/

namespace Sys2Proof.Machine

/-! ### Bytes of a word (R83) -/

theorem extractLsb'_byte {n : Nat} (v : BitVec n) (k : Nat) :
    v.extractLsb' (8 * k) 8 = BitVec.ofNat 8 (v.toNat / 256 ^ k) := by
  apply BitVec.eq_of_toNat_eq
  simp [BitVec.extractLsb'_toNat, Nat.shiftRight_eq_div_pow, Nat.pow_mul]

/-- The bytes written for a word are its bytes, low byte first. -/
theorem leBytes_eq_map_range {n : Nat} (v : BitVec n) (m : Nat) :
    leBytes m v.toNat = (List.range m).map fun k => v.extractLsb' (8 * k) 8 :=
  List.ext_getElem (by simp) fun k h _ => by simp [leBytes_getElem, extractLsb'_byte]

/-- The word read from as many bytes as it has holds them, low byte first. -/
theorem extractLsb'_ofNat_leNat (w : Width) (bs : List Byte) (hl : bs.length = w.bytes) {k : Nat}
    (hk : k < w.bytes) : (BitVec.ofNat w.bits (leNat bs)).extractLsb' (8 * k) 8 = bs.getD k 0 := by
  have hlt : leNat bs < 2 ^ w.bits := by
    rw [← w.pow_bytes, ← hl]
    exact leNat_lt bs
  have hb : (leBytes bs.length (leNat bs))[k]'(by simp [hl, hk]) = BitVec.ofNat 8 (leNat bs / 256 ^ k) :=
    leBytes_getElem _ _ k _
  simp only [leBytes_leNat] at hb
  rw [extractLsb'_byte, BitVec.toNat_ofNat, Nat.mod_eq_of_lt hlt, ← hb, List.getD_eq_getElem _ _ (hl ▸ hk)]

/-! ### Port accesses (R95, R96) -/

theorem port_add_succ (p : BitVec 16) (k : Nat) :
    p + 1#16 + BitVec.ofNat 16 k = p + BitVec.ofNat 16 (k + 1) := by
  rw [BitVec.add_assoc, BitVec.add_comm 1#16, ← BitVec.ofNat_add]

/-- The accesses of reads of consecutive ports from `p` on, with the bytes answered, oldest first. -/
def readEvents (p : BitVec 16) (bytes : List Byte) : List PortEvent :=
  bytes.zipIdx.map fun x => .read (p + BitVec.ofNat 16 x.2) x.1

theorem readEvents_cons (p : BitVec 16) (b : Byte) (bs : List Byte) :
    readEvents p (b :: bs) = .read p b :: readEvents (p + 1) bs := by
  simp [readEvents, List.zipIdx_succ, port_add_succ]

/-- Reads of consecutive ports answer one byte each and add their accesses to the port history. -/
theorem portReadBytes_spec (s : State) (p : BitVec 16) (n : Nat) :
    (s.portReadBytes p n).1.length = n ∧
    (s.portReadBytes p n).2 =
      { s with ports := (readEvents p (s.portReadBytes p n).1).reverse ++ s.ports } ∧
    ∀ k, k < n → (s.portReadBytes p n).1.getD k 0 = Config.readPortByte
      ((readEvents p ((s.portReadBytes p n).1.take k)).reverse ++ s.ports) (p + BitVec.ofNat 16 k) := by
  induction n generalizing s p with
  | zero => exact ⟨rfl, rfl, fun k hk => absurd hk k.not_lt_zero⟩
  | succ n ih =>
    obtain ⟨hl, hs, hb⟩ := ih (s.portReadByte p).2 (p + 1)
    have hr : s.portReadBytes p (n + 1) =
      ((s.portReadByte p).1 :: ((s.portReadByte p).2.portReadBytes (p + 1) n).1,
        ((s.portReadByte p).2.portReadBytes (p + 1) n).2) := rfl
    rw [hr]
    refine ⟨congrArg (· + 1) hl, ?_, fun k hk => ?_⟩
    · rw [hs, readEvents_cons]
      simp [State.portReadByte]
    · cases k with
      | zero => simp [State.portReadByte, readEvents]
      | succ k =>
        rw [List.take_succ_cons, readEvents_cons, List.getD_cons_succ, hb k (by omega), ← port_add_succ]
        simp [State.portReadByte]

/-- Writes of consecutive ports add their accesses to the port history and change nothing else. -/
theorem portWriteBytes_map_range (s : State) (p : BitVec 16) (n : Nat) (f : Nat → Byte) :
    s.portWriteBytes p ((List.range n).map f) = { s with
      ports := ((List.range n).map fun k => .write (p + BitVec.ofNat 16 k) (f k)).reverse ++ s.ports } := by
  induction n generalizing s p f with
  | zero => rfl
  | succ n ih =>
    rw [List.range_succ_eq_map, List.map_cons, List.map_map, State.portWriteBytes, ih]
    simp [State.portWriteByte, port_add_succ, Function.comp_def]

/-- IN retires with the bytes the platform answers in the port history and, as one word, in the
accumulator. -/
theorem portIn_eq (w : Width) (p : BitVec 16) (s : State) :
    portIn w p s = .next (State.writeReg
      { s with
        eip := s.nextEip
        ports := (readEvents p (s.portReadBytes p w.bytes).1).reverse ++ s.ports }
      w .eax (BitVec.ofNat w.bits (leNat (s.portReadBytes p w.bytes).1))) := by
  obtain ⟨-, hs, -⟩ := portReadBytes_spec s p w.bytes
  exact (congrArg (fun t : State => done (t.writeReg w .eax (s.portRead w p).1)) hs :)

/-- OUT retires with the bytes of the accumulator in the port history. -/
theorem portOut_eq (w : Width) (p : BitVec 16) (s : State) :
    portOut w p s = .next { s with
      eip := s.nextEip
      ports := ((List.range w.bytes).map fun k =>
        .write (p + BitVec.ofNat 16 k) ((s.readReg w .eax).extractLsb' (8 * k) 8)).reverse ++
          s.ports } := by
  rw [portOut, State.portWrite, leBytes_eq_map_range, portWriteBytes_map_range]
  rfl

/-- Settles O34: every form is `portIn` or `portOut` at its width and port. -/
theorem portInOut : Obligations.PortInOut := by
  intro s w readIn writeOut
  have hin (f : InForm) (w : Width) (p : BitVec 16) (hf : exec (.inp f) s = portIn w p s) :
      readIn f w p := by
    obtain ⟨hl, -, hb⟩ := portReadBytes_spec s p w.bytes
    refine ⟨_, (s.portReadBytes p w.bytes).1, hf.trans (portIn_eq w p s), rfl, rfl, hl, rfl, hb,
      fun k hk => ?_, onlyView_congr (onlyView_writeReg s w .eax _) rfl rfl, rfl, ⟨rfl, rfl, rfl⟩,
      rfl, rfl, rfl, rfl, rfl, rfl, rfl⟩
    rw [readReg_writeReg, extractLsb'_ofNat_leNat w _ hl hk]
  have hout (f : OutForm) (w : Width) (p : BitVec 16) (hf : exec (.out f) s = portOut w p s) :
      writeOut f w p := hf.trans (portOut_eq w p s)
  exact ⟨fun _ => hin _ _ _ rfl, fun _ => hin _ _ _ rfl, hin _ _ _ rfl, hin _ _ _ rfl,
    fun _ => hout _ _ _ rfl, fun _ => hout _ _ _ rfl, hout _ _ _ rfl, hout _ _ _ rfl⟩

end Sys2Proof.Machine
end

section
/-! What the decoder answers: well-formed instructions only, by the bytes of the instruction alone. -/

namespace Sys2Proof

open WellFormed

/-! ### Memory forms the decoder reads -/

theorem Reg.ofCode_eq_esp {c : BitVec 3} : Reg.ofCode c = .esp ↔ c = 4#3 := by
  rw [← Reg.code_eq_four, Reg.code_ofCode]

theorem Reg.ofCode_eq_ebp {c : BitVec 3} : Reg.ofCode c = .ebp ↔ c = 5#3 := by
  rw [← Reg.code_eq_five, Reg.code_ofCode]

theorem Base16.ofCode_eq_bp {c : BitVec 3} : Base16.ofCode c = .bp ↔ c = 6#3 := by
  revert c; decide

namespace WellFormed

theorem memOk_based16 (b : Base16) (d : Disp16) (h : b = .bp → d ≠ .none) :
    memOk .s16 (.based16 b d) = true := by
  cases b with
  | bp =>
    cases d with
    | none => exact absurd rfl (h rfl)
    | d8 _ | d16 _ => rfl
  | _ => rfl

theorem memOk_based32 (b : Reg) (d : Disp32) (hs : b ≠ .esp) (h : b = .ebp → d ≠ .none) :
    memOk .s32 (.based32 b d) = true := by
  cases b with
  | ebp =>
    cases d with
    | none => exact absurd rfl (h rfl)
    | d8 _ | d32 _ => rfl
  | esp => exact absurd rfl hs
  | _ => rfl

theorem memOk_sib (sc : Scale) (ix b : Reg) (d : Disp32) (h : b = .ebp → d ≠ .none) :
    memOk .s32 (.sib sc ix b d) = true := by
  cases b with
  | ebp =>
    cases d with
    | none => exact absurd rfl (h rfl)
    | d8 _ | d32 _ => rfl
  | _ => rfl

theorem immOk_setWidth (v : BitVec 16) : immOk .s16 (v.setWidth 32) = true := by
  have h := v.isLt
  simp only [immOk, BitVec.toNat_setWidth, decide_eq_true_eq]
  omega

theorem relOk_signExtend (v : BitVec 16) : relOk .s16 (v.signExtend 32) = true := by
  have h : (v.signExtend 32).setWidth 16 = v := by
    apply BitVec.eq_of_getLsbD_eq
    intro k hk
    rw [BitVec.getLsbD_setWidth, BitVec.getLsbD_signExtend]
    simp [hk, show k < 32 by omega]
  simp [relOk, h]

end WellFormed

/-- `x`, an answer read off the front of `bs`, tells `y`, what the same reading answers on `bs'`: where `x`
is an instruction, it is well formed and took the bytes of `bs` before the ones left over, and `y` is that
instruction too where `bs'` begins with the same bytes. Every way of reading fields keeps this, whatever
is read after them. -/
def Answers (z a : Size) (bs bs' : List Byte) (x y : Parse) : Prop :=
  ∀ i rest, x = some (i, rest) → instrOk z a i = true ∧
    ∃ front, bs = front ++ rest ∧ ∀ other, bs' = front ++ other → y = some (i, other)

section
variable {z a : Size} {bs bs' : List Byte}

/-! ### Readings of fields -/

theorem answers_none (y : Parse) : Answers z a bs bs' none y := fun _ _ h => nomatch h

/-- An instruction without further fields. -/
theorem answers_some {i : Instr} (h : instrOk z a i = true) :
    Answers z a bs bs' (some (i, bs)) (some (i, bs')) := by
  rintro _ _ ⟨⟩
  exact ⟨h, [], rfl, fun other ho => by rw [ho]; rfl⟩

/-- One more byte in front of a reading. -/
theorem answers_cons {b : Byte} {f : List Byte → Parse}
    (h : Answers z a bs bs'.tail (f (b :: bs)) (f (b :: bs'.tail))) :
    Answers z a (b :: bs) bs' (f (b :: bs)) (f bs') := by
  intro i rest hx
  obtain ⟨hi, front, rfl, hy⟩ := h i rest hx
  refine ⟨hi, b :: front, rfl, ?_⟩
  rintro other rfl
  exact hy other rfl

theorem answers_bind {α : Type} {o : Option α} {f f' : α → Parse}
    (h : ∀ c, Answers z a bs bs' (f c) (f' c)) :
    Answers z a bs bs' (o.bind f) (o.bind f') := by
  cases o with
  | none => exact answers_none _
  | some c => exact h c

theorem answers_take8 {k : Byte → List Byte → Parse}
    (h : ∀ v bs bs', Answers z a bs bs' (k v bs) (k v bs')) :
    Answers z a bs bs' (take8 bs k) (take8 bs' k) := by
  cases bs with
  | nil => exact answers_none _
  | cons b bs => exact answers_cons (f := (take8 · k)) (h b bs _)

theorem take16_eq_take8 (bs : List Byte) (k : BitVec 16 → List Byte → Parse) :
    take16 bs k = take8 bs fun b0 bs => take8 bs fun b1 bs => k (b1 ++ b0) bs := by
  match bs with
  | [] | [_] | _ :: _ :: _ => rfl

theorem take32_eq_take8 (bs : List Byte) (k : BitVec 32 → List Byte → Parse) :
    take32 bs k = take8 bs fun b0 bs => take8 bs fun b1 bs => take8 bs fun b2 bs =>
      take8 bs fun b3 bs => k (b3 ++ b2 ++ b1 ++ b0) bs := by
  match bs with
  | [] | [_] | [_, _] | [_, _, _] | _ :: _ :: _ :: _ :: _ => rfl

theorem answers_take16 {k : BitVec 16 → List Byte → Parse}
    (h : ∀ v bs bs', Answers z a bs bs' (k v bs) (k v bs')) :
    Answers z a bs bs' (take16 bs k) (take16 bs' k) := by
  simp only [take16_eq_take8]
  exact answers_take8 fun _ _ _ => answers_take8 fun _ _ _ => h _ _ _

theorem answers_take32 {k : BitVec 32 → List Byte → Parse}
    (h : ∀ v bs bs', Answers z a bs bs' (k v bs) (k v bs')) :
    Answers z a bs bs' (take32 bs k) (take32 bs' k) := by
  simp only [take32_eq_take8]
  exact answers_take8 fun _ _ _ => answers_take8 fun _ _ _ => answers_take8 fun _ _ _ =>
    answers_take8 fun _ _ _ => h _ _ _

/-- A zero-extended field fits its size. -/
theorem answers_takeImm {y : Size} {k : BitVec 32 → List Byte → Parse}
    (h : ∀ v bs bs', immOk y v = true → Answers z a bs bs' (k v bs) (k v bs')) :
    Answers z a bs bs' (takeImm y bs k) (takeImm y bs' k) := by
  cases y with
  | s16 => exact answers_take16 fun v _ _ => h (v.setWidth 32) _ _ (immOk_setWidth v)
  | s32 => exact answers_take32 fun v _ _ => h _ _ _ rfl

/-- A sign-extended displacement fits its size. -/
theorem answers_takeRel {y : Size} {k : BitVec 32 → List Byte → Parse}
    (h : ∀ v bs bs', relOk y v = true → Answers z a bs bs' (k v bs) (k v bs')) :
    Answers z a bs bs' (takeRel y bs k) (takeRel y bs' k) := by
  cases y with
  | s16 => exact answers_take16 fun v _ _ => h (v.signExtend 32) _ _ (relOk_signExtend v)
  | s32 => exact answers_take32 fun v _ _ => h _ _ _ rfl

theorem answers_takeSib {md : BitVec 2} {k : MemOp → List Byte → Parse}
    (h : ∀ m bs bs', memOk .s32 m = true → Answers z a bs bs' (k m bs) (k m bs')) :
    Answers z a bs bs' (takeSib md bs k) (takeSib md bs' k) := by
  refine answers_take8 fun s bs bs' => ?_
  split
  · split
    · exact answers_take32 fun d _ _ => h _ _ _ rfl
    · next hs => exact h _ _ _ (memOk_sib _ _ _ _ fun hb => absurd (Reg.ofCode_eq_ebp.1 hb) hs)
  · exact answers_take8 fun d _ _ => h _ _ _ (memOk_sib _ _ _ _ fun _ => nofun)
  · exact answers_take32 fun d _ _ => h _ _ _ (memOk_sib _ _ _ _ fun _ => nofun)

theorem answers_takeMem {md : BitVec 2} {rm : BitVec 3} {k : MemOp → List Byte → Parse}
    (h : ∀ m bs bs', memOk a m = true → Answers z a bs bs' (k m bs) (k m bs')) :
    Answers z a bs bs' (takeMem a md rm bs k) (takeMem a md rm bs' k) := by
  unfold takeMem
  split
  · split
    · split
      · exact answers_take16 fun d _ _ => h _ _ _ rfl
      · next hb => exact h _ _ _ (memOk_based16 _ _ fun e => absurd (Base16.ofCode_eq_bp.1 e) hb)
    · exact answers_take8 fun d _ _ => h _ _ _ (memOk_based16 _ _ fun _ => nofun)
    · exact answers_take16 fun d _ _ => h _ _ _ (memOk_based16 _ _ fun _ => nofun)
  · split
    · exact answers_takeSib h
    · next hs =>
      have hs : Reg.ofCode rm ≠ .esp := fun e => hs (Reg.ofCode_eq_esp.1 e)
      split
      · split
        · exact answers_take32 fun d _ _ => h _ _ _ rfl
        · next hb =>
          exact h _ _ _ (memOk_based32 _ _ hs fun e => absurd (Reg.ofCode_eq_ebp.1 e) hb)
      · exact answers_take8 fun d _ _ => h _ _ _ (memOk_based32 _ _ hs fun _ => nofun)
      · exact answers_take32 fun d _ _ => h _ _ _ (memOk_based32 _ _ hs fun _ => nofun)

theorem answers_takeRM {k : BitVec 3 → RM → List Byte → Parse}
    (h : ∀ g rm bs bs', rmOk a rm = true → Answers z a bs bs' (k g rm bs) (k g rm bs')) :
    Answers z a bs bs' (takeRM a bs k) (takeRM a bs' k) := by
  refine answers_take8 fun m bs bs' => ?_
  split
  · exact h _ _ _ _ rfl
  · exact answers_takeMem fun mem _ _ hm => h _ (.mem mem) _ _ hm

theorem answers_takeM {k : BitVec 3 → MemOp → List Byte → Parse}
    (h : ∀ g m bs bs', memOk a m = true → Answers z a bs bs' (k g m bs) (k g m bs')) :
    Answers z a bs bs' (takeM a bs k) (takeM a bs' k) :=
  answers_takeRM fun g rm bs bs' hrm => by
    cases rm with
    | reg r => exact answers_none _
    | mem m => exact h g m bs bs' hrm

/-! ### The tables of the opcode map

A proof splits into the table's rows and applies to each row the rule of every field it reads; what the
rules say of the fields is the well-formedness of the row's instruction. Group rows split once more, on
the group value. -/

theorem answers_two2 (b : Byte) : Answers z a bs bs' (two2 b bs) (two2 b bs') := by
  unfold two2
  split
  case h_5 => exact answers_none _
  all_goals exact answers_take8 fun _ _ _ => answers_bind fun _ => answers_some rfl

theorem answers_two8 (b : Byte) : Answers z a bs bs' (two8 z b bs) (two8 z b bs') := by
  unfold two8
  split
  case h_17 => exact answers_none _
  all_goals exact answers_takeRel fun _ _ _ h => answers_some h

theorem answers_two9 (b : Byte) : Answers z a bs bs' (two9 a b bs) (two9 a b bs') := by
  unfold two9
  split
  case h_17 => exact answers_none _
  all_goals exact answers_takeRM fun _ _ _ _ h => answers_some h

theorem answers_twoA (b : Byte) : Answers z a bs bs' (twoA a b bs) (twoA a b bs') := by
  unfold twoA
  split <;> first
    | exact answers_none _
    | exact answers_some rfl
    | exact answers_takeRM fun _ _ _ _ h => answers_some h
    | exact answers_takeRM fun _ _ _ _ h => answers_take8 fun _ _ _ => answers_some h

theorem answers_twoB (b : Byte) : Answers z a bs bs' (twoB a b bs) (twoB a b bs') := by
  unfold twoB
  split
  -- BA: a bit operation with a byte immediate
  case h_7 =>
    refine answers_takeRM fun g rm bs bs' h => ?_
    split
    case h_5 => exact answers_none _
    all_goals exact answers_take8 fun _ _ _ => answers_some h
  all_goals first
    | exact answers_none _
    | exact answers_takeM fun _ _ _ _ h => answers_some h
    | exact answers_takeRM fun _ _ _ _ h => answers_some h

/-- The tables of the two-operand ALU operations. -/
theorem answers_one0_one1_one2_one3 (b : Byte) :
    Answers z a bs bs' (one0 z a b bs) (one0 z a b bs') ∧
    Answers z a bs bs' (one1 z a b bs) (one1 z a b bs') ∧
    Answers z a bs bs' (one2 z a b bs) (one2 z a b bs') ∧
    Answers z a bs bs' (one3 z a b bs) (one3 z a b bs') := by
  unfold one0 one1 one2 one3
  refine ⟨?_, ?_, ?_, ?_⟩
  all_goals
    split <;> first
      | exact answers_none _
      | exact answers_some rfl
      | exact answers_take8 fun _ _ _ => answers_some rfl
      | exact answers_takeImm fun _ _ _ h => answers_some h
      | exact answers_takeRM fun _ _ _ _ h => answers_some h

theorem answers_one4 (b : Byte) : Answers z a bs bs' (one4 b bs) (one4 b bs') := by
  unfold one4
  split
  case h_17 => exact answers_none _
  all_goals exact answers_some rfl

theorem answers_one5 (b : Byte) : Answers z a bs bs' (one5 b bs) (one5 b bs') := by
  unfold one5
  split
  case h_17 => exact answers_none _
  all_goals exact answers_some rfl

theorem answers_one6 (b : Byte) : Answers z a bs bs' (one6 z a b bs) (one6 z a b bs') := by
  unfold one6
  split <;> first
    | exact answers_none _
    | exact answers_some rfl
    | exact answers_take8 fun _ _ _ => answers_some rfl
    | exact answers_takeImm fun _ _ _ h => answers_some h
    | exact answers_takeM fun _ _ _ _ h => answers_some h
    | exact answers_takeRM fun _ _ _ _ h => answers_take8 fun _ _ _ => answers_some h
    | exact answers_takeRM fun _ _ _ _ h => answers_takeImm fun _ _ _ hi =>
        answers_some (Bool.and_eq_true_iff.2 ⟨h, hi⟩)

theorem answers_one7 (b : Byte) : Answers z a bs bs' (one7 b bs) (one7 b bs') := by
  unfold one7
  split
  case h_17 => exact answers_none _
  all_goals exact answers_take8 fun _ _ _ => answers_some rfl

theorem answers_one8 (b : Byte) : Answers z a bs bs' (one8 z a b bs) (one8 z a b bs') := by
  unfold one8
  split
  -- 80 and 83: an ALU operation with a byte immediate
  case h_1 | h_3 =>
    refine answers_takeRM fun g rm bs bs' h => ?_
    split
    case h_9 => exact answers_none _
    all_goals exact answers_take8 fun _ _ _ => answers_some h
  -- 81: an ALU operation with an immediate of the operand size
  case h_2 =>
    refine answers_takeRM fun g rm bs bs' h => ?_
    split
    case h_9 => exact answers_none _
    all_goals exact answers_takeImm fun _ _ _ hi => answers_some (Bool.and_eq_true_iff.2 ⟨h, hi⟩)
  -- 8E: CS is refused
  case h_14 =>
    refine answers_takeRM fun g rm bs bs' h => ?_
    split
    case h_3 hsr _ => exact answers_some (Bool.and_eq_true_iff.2 ⟨bne_iff_ne.2 hsr, h⟩)
    all_goals exact answers_none _
  -- 8F: POP
  case h_15 =>
    refine answers_takeRM fun g rm bs bs' h => ?_
    split
    · exact answers_some h
    · exact answers_none _
  all_goals first
    | exact answers_none _
    | exact answers_takeRM fun _ _ _ _ h => answers_some h
    | exact answers_takeRM fun _ _ _ _ h => answers_bind fun _ => answers_some h
    | exact answers_takeM fun _ _ _ _ h => answers_some h

theorem answers_one9 (b : Byte) : Answers z a bs bs' (one9 z b bs) (one9 z b bs') := by
  unfold one9
  split
  -- 91 to 97: the register is not EAX, whose row is NOP
  case h_2 hb | h_3 hb | h_4 hb | h_5 hb | h_6 hb | h_7 hb | h_8 hb =>
    obtain ⟨-, rfl⟩ := BitVec.toNat_eq_nat.1 hb
    exact answers_some rfl
  all_goals first
    | exact answers_none _
    | exact answers_some rfl
    | exact answers_takeImm fun _ _ _ h => answers_take16 fun _ _ _ => answers_some h

theorem answers_oneA (b : Byte) : Answers z a bs bs' (oneA z a b bs) (oneA z a b bs') := by
  unfold oneA
  split <;> first
    | exact answers_none _
    | exact answers_some rfl
    | exact answers_take8 fun _ _ _ => answers_some rfl
    | exact answers_takeImm fun _ _ _ h => answers_some h

theorem answers_oneB (b : Byte) : Answers z a bs bs' (oneB z b bs) (oneB z b bs') := by
  unfold oneB
  split <;> first
    | exact answers_none _
    | exact answers_take8 fun _ _ _ => answers_some rfl
    | exact answers_takeImm fun _ _ _ h => answers_some h

theorem answers_oneC (b : Byte) : Answers z a bs bs' (oneC z a b bs) (oneC z a b bs') := by
  unfold oneC
  split
  -- C0 and C1: a shift with a byte immediate
  case h_1 | h_2 =>
    refine answers_takeRM fun g rm bs bs' h => ?_
    split
    case h_8 => exact answers_none _
    all_goals exact answers_take8 fun _ _ _ => answers_some h
  -- C6 and C7: MOV with an immediate
  case h_7 =>
    refine answers_takeRM fun g rm bs bs' h => ?_
    split
    · exact answers_take8 fun _ _ _ => answers_some h
    · exact answers_none _
  case h_8 =>
    refine answers_takeRM fun g rm bs bs' h => ?_
    split
    · exact answers_takeImm fun _ _ _ hi => answers_some (Bool.and_eq_true_iff.2 ⟨h, hi⟩)
    · exact answers_none _
  all_goals first
    | exact answers_none _
    | exact answers_some rfl
    | exact answers_take8 fun _ _ _ => answers_some rfl
    | exact answers_take16 fun _ _ _ => answers_some rfl
    | exact answers_take16 fun _ _ _ => answers_take8 fun _ _ _ => answers_some rfl
    | exact answers_takeM fun _ _ _ _ h => answers_some h

theorem answers_oneD (b : Byte) : Answers z a bs bs' (oneD a b bs) (oneD a b bs') := by
  unfold oneD
  split
  case h_5 | h_6 => exact answers_take8 fun _ _ _ => answers_some rfl
  case h_7 => exact answers_some rfl
  case h_16 => exact answers_none _
  -- D0 to D3, the shifts, and D8 to DF, the FPU
  all_goals
    refine answers_takeRM fun g rm bs bs' h => ?_
    repeat' split
    all_goals first
      | exact answers_none _
      | exact answers_some h

theorem answers_oneE (b : Byte) : Answers z a bs bs' (oneE z b bs) (oneE z b bs') := by
  unfold oneE
  split <;> first
    | exact answers_none _
    | exact answers_some rfl
    | exact answers_take8 fun _ _ _ => answers_some rfl
    | exact answers_takeRel fun _ _ _ h => answers_some h
    | exact answers_takeImm fun _ _ _ h => answers_take16 fun _ _ _ => answers_some h

theorem answers_oneF (b : Byte) : Answers z a bs bs' (oneF z a b bs) (oneF z a b bs') := by
  unfold oneF
  split
  -- F6, F7, FE and FF
  case h_6 | h_7 | h_14 | h_15 =>
    refine answers_takeRM fun g rm bs bs' h => ?_
    split <;> first
      | exact answers_none _
      | exact answers_some h
      | exact answers_take8 fun _ _ _ => answers_some h
      | exact answers_takeImm fun _ _ _ hi => answers_some (Bool.and_eq_true_iff.2 ⟨h, hi⟩)
  case h_16 => exact answers_none _
  all_goals exact answers_some rfl

theorem answers_decodeTwo (b : Byte) :
    Answers z a bs bs' (decodeTwo z a b bs) (decodeTwo z a b bs') := by
  unfold decodeTwo
  split
  · exact answers_two2 b
  · exact answers_two8 b
  · exact answers_two9 b
  · exact answers_twoA b
  · exact answers_twoB b
  · exact answers_none _

theorem decode_escape (bytes : List Byte) :
    decode z a (0x0F :: bytes) = take8 bytes (decodeTwo z a) := by
  cases bytes <;> rfl

theorem answers_decode_cons (b : Byte) :
    Answers z a bs bs' (decode z a (b :: bs)) (decode z a (b :: bs')) := by
  by_cases hb : b = 0x0F
  · subst hb
    simp only [decode_escape]
    exact answers_take8 fun b _ _ => answers_decodeTwo b
  · obtain ⟨h0, h1, h2, h3⟩ := answers_one0_one1_one2_one3 (z := z) (a := a) (bs := bs) (bs' := bs') b
    simp only [decode, if_neg hb]
    split
    · exact h0
    · exact h1
    · exact h2
    · exact h3
    · exact answers_one4 b
    · exact answers_one5 b
    · exact answers_one6 b
    · exact answers_one7 b
    · exact answers_one8 b
    · exact answers_one9 b
    · exact answers_oneA b
    · exact answers_oneB b
    · exact answers_oneC b
    · exact answers_oneD b
    · exact answers_oneE b
    · exact answers_oneF b

end

/-- Settles O3: `Answers` holds of every table of the opcode map; the bytes taken are the first byte and
those of the reading after it. -/
theorem decodedIsWellFormed : Obligations.DecodedIsWellFormed := by
  intro z a bytes rest i hd
  cases bytes with
  | nil => exact nomatch hd
  | cons b bs =>
    obtain ⟨hi, front, rfl, -⟩ := answers_decode_cons (bs' := []) b i rest hd
    refine ⟨hi, b :: front, List.cons_ne_nil _ _, rfl, fun other => ?_⟩
    obtain ⟨-, front', hf, hy⟩ := answers_decode_cons (bs' := front ++ other) b i rest hd
    exact hy other (by rw [List.append_cancel_right hf])

end Sys2Proof
end

section
/-! The flags of a comparison as orders, the parity flag as a population count, and the one form of an
instruction that writes one operand: CMP, TEST, the conditions and SETcc. -/

namespace Sys2Proof.Machine

/-! ### Parity (R222) -/

theorem length_filter_getLsbD {n : Nat} (r : BitVec n) (k : Nat) :
    ((List.range k).filter fun i => r.getLsbD i).length = r.cpopNatRec k 0 := by
  induction k with
  | zero => rfl
  | succ k ih =>
    rw [List.range_succ, List.filter_append, List.length_append, ih, BitVec.cpopNatRec_succ,
      BitVec.cpopNatRec_eq (0 + _)]
    cases h : r.getLsbD k <;> simp [h]

/-- The parity of a result is that of the number of 1 bits in its low byte. -/
theorem parity_eq_cpop {n : Nat} (r : BitVec n) :
    parity r = decide ((r.extractLsb' 0 8).cpop.toNat % 2 = 0) := by
  have low : ((List.range 8).filter fun i => r.getLsbD i) =
      (List.range 8).filter fun i => (r.extractLsb' 0 8).getLsbD i :=
    List.filter_congr fun i hi => by simp [List.mem_range.1 hi]
  rw [parity, low, length_filter_getLsbD, BitVec.toNat_cpop]
  rfl

theorem flagsLogic_eq {n : Nat} (f : Flags) (r : BitVec n) : flagsLogic f r = { f with
    CF := false
    OF := false
    ZF := decide (r = 0)
    SF := r.msb
    PF := decide ((r.extractLsb' 0 8).cpop.toNat % 2 = 0) } := by
  rw [← parity_eq_cpop]
  rfl

/-! ### The flags of a subtraction without borrow in (R224) -/

theorem flagsSub_fst {n : Nat} (f : Flags) (a b : BitVec n) : (flagsSub f a b false).1 = a - b := by
  have h : (a.toNat : Int) - b.toNat - false.toNat = a.toNat + -b.toNat := by simp [Int.sub_eq_add_neg]
  rw [flagsSub, h, BitVec.ofInt_add, BitVec.ofInt_neg]
  simp [BitVec.sub_eq_add_neg]

theorem flagsSub_CF {n : Nat} (f : Flags) (a b : BitVec n) :
    (flagsSub f a b false).2.CF = decide (a.toNat < b.toNat) := by
  simp only [flagsSub, decide_eq_decide, Bool.toNat_false]
  omega

theorem flagsSub_ZF {n : Nat} (f : Flags) (a b : BitVec n) :
    (flagsSub f a b false).2.ZF = decide (a = b) := by
  have h : (flagsSub f a b false).2.ZF = decide ((flagsSub f a b false).1 = 0) := rfl
  rw [h, flagsSub_fst, decide_eq_decide]
  exact sub_eq_zero

/-- OF is the signed overflow. -/
theorem flagsSub_OF {n : Nat} (f : Flags) (a b : BitVec n) :
    (flagsSub f a b false).2.OF = a.ssubOverflow b := by
  have h : (flagsSub f a b false).2.OF = ((a ^^^ b) &&& (a ^^^ (flagsSub f a b false).1)).msb := rfl
  rw [h, flagsSub_fst, BitVec.ssubOverflow_eq, BitVec.msb_and, BitVec.msb_xor, BitVec.msb_xor]
  cases a.msb <;> cases b.msb <;> cases (a - b).msb <;> rfl

theorem flagsSub_SF {n : Nat} (f : Flags) (a b : BitVec n) :
    (flagsSub f a b false).2.SF = (a - b).msb :=
  congrArg BitVec.msb (flagsSub_fst f a b)

/-- The sign of a difference is that of the exact one, unless it overflows. -/
theorem msb_sub_bne_ssubOverflow {n : Nat} (a b : BitVec n) :
    ((a - b).msb != a.ssubOverflow b) = decide (a.toInt < b.toInt) := by
  cases h : a.ssubOverflow b with
  | false =>
    rw [BitVec.msb_eq_toInt, BitVec.toInt_sub_of_not_ssubOverflow (by simp [h])]
    simp
  | true =>
    simp only [BitVec.ssubOverflow, Bool.or_eq_true, decide_eq_true_eq, ge_iff_le,
      BitVec.twoPow_le_toInt_sub_toInt_iff, BitVec.toInt_sub_toInt_lt_twoPow_iff] at h
    rw [BitVec.msb_eq_toInt, BitVec.toInt_sub, Bool.bne_true, ← decide_not, decide_eq_decide]
    omega

/-! ### Instructions that write one operand -/

/-- An instruction that writes an operand and the flags, and retires, writes nothing else. -/
theorem wrote_writeRM (s : State) (w : Width) (rm : RM) (v : BitVec w.bits) (f : Flags) :
    Wrote s (State.writeRM { s with flags := f } w rm v).retire w rm v f := by
  cases rm with
  | reg r =>
    exact ⟨rfl, readReg_writeReg _ w r v, rfl,
      ⟨onlyView_congr (onlyView_writeReg s w r v) rfl rfl, rfl⟩,
      ⟨rfl, rfl, rfl⟩, rfl, ⟨rfl, rfl, rfl, rfl, rfl, rfl, rfl⟩⟩
  | mem m =>
    exact ⟨rfl, memRead_memWrite _ w _ v, rfl, ⟨rfl, sameMemExcept_memWrite s w _ v⟩,
      ⟨rfl, rfl, rfl⟩, rfl, ⟨rfl, rfl, rfl, rfl, rfl, rfl, rfl⟩⟩

theorem exec_setccInstr (cc : Cond) (rm : RM) (s : State) : exec (setccInstr cc rm) s = setcc cc rm s := by
  cases cc <;> rfl

theorem cond_odd (f : Flags) : f.cond .no = !f.cond .o ∧ f.cond .nb = !f.cond .b ∧
    f.cond .nz = !f.cond .z ∧ f.cond .nbe = !f.cond .be ∧ f.cond .ns = !f.cond .s ∧
    f.cond .np = !f.cond .p ∧ f.cond .nl = !f.cond .l ∧ f.cond .nle = !f.cond .le := by
  simp [Flags.cond, bne]

/-- The orders a comparison leaves in the conditions (R224, R250). -/
theorem cond_flagsSub {n : Nat} (f : Flags) (a b : BitVec n) :
    let g := (flagsSub f a b false).2
    g.cond .b = decide (a.toNat < b.toNat) ∧ g.cond .be = decide (a.toNat ≤ b.toNat) ∧
    g.cond .z = decide (a = b) ∧ g.cond .l = decide (a.toInt < b.toInt) ∧
    g.cond .le = decide (a.toInt ≤ b.toInt) := by
  intro g
  have hl : (g.SF != g.OF) = decide (a.toInt < b.toInt) := by
    rw [flagsSub_SF, flagsSub_OF, msb_sub_bne_ssubOverflow]
  refine ⟨flagsSub_CF f a b, ?_, flagsSub_ZF f a b, hl, ?_⟩
  · simp only [Flags.cond, g, flagsSub_CF, flagsSub_ZF, ← Bool.decide_or, decide_eq_decide,
      ← BitVec.toNat_inj]
    omega
  · simp only [Flags.cond, hl]
    simp only [g, flagsSub_ZF, ← Bool.decide_or, decide_eq_decide, ← BitVec.toInt_inj]
    omega

/-- Settles O16: CMP is `flagsSub`, whose conditions are the orders; TEST is `flagsLogic`; SETcc writes one
byte. -/
theorem compares : Obligations.Compares := by
  refine ⟨fun f => ?_, cond_odd, fun w => cond_flagsSub, fun f s => rfl, fun s rm r ib iw => ?_,
    fun f s => ?_, fun cc rm s => ?_⟩
  · exact ⟨rfl, rfl, rfl, rfl, rfl, rfl, rfl, rfl, rfl, rfl, rfl, rfl, rfl, rfl, rfl, rfl⟩
  · exact ⟨rfl, rfl, rfl, rfl, rfl, rfl⟩
  · intro x r
    rw [← flagsLogic_eq]
    rfl
  · exact ⟨_, exec_setccInstr cc rm s, wrote_writeRM s .w8 rm _ s.flags⟩

end Sys2Proof.Machine
end

section
/-! A step as the meaning of what `decodeAt` answers, and the prefixes a step records. -/

namespace Sys2Proof.Machine

/-! ### The prefixes (R122, R123) -/

/-- The prefixes do what `PrefixState.record` says, and nothing else. -/
theorem exec_of_record {i : Instr} {s : State} {q : PrefixState} (h : s.pfx.record i = some q) :
    exec i s = .next { s with pfx := q } := by
  unfold PrefixState.record at h
  split at h
  case h_12 => exact nomatch h
  all_goals
    cases h
    rfl

/-- Which instructions are prefixes does not depend on the prefixes before them. -/
theorem isPrefix_eq_isSome_record (p : PrefixState) (i : Instr) : isPrefix i = (p.record i).isSome := by
  cases i <;> rfl

/-! ### A step by what `decodeAt` answers (R121, R176) -/

/-- Running the prefixes and then decoding, or decoding them all first: the state enters the decode with
its default bit and PrefixState only, and the prefixes change PrefixState only. -/
theorem runFrom_eq_decodeFrom (fuel : Nat) (bytes : List Byte) (s : State) :
    runFrom fuel bytes s = (decodeFrom s.csD maxLength fuel s.pfx bytes).elim (.fault .undecodable)
      fun d => runInstr d.instr d.length { s with pfx := d.pfx } := by
  induction fuel generalizing bytes s with
  | zero => rfl
  | succ fuel ih =>
    simp only [runFrom, decodeFrom, State.opsz, State.adsz]
    cases decode (sizeFor s.csD s.pfx.opsize) (sizeFor s.csD s.pfx.adsize) bytes with
    | none => rfl
    | some x =>
      obtain ⟨i, rest⟩ := x
      simp only [isPrefix_eq_isSome_record s.pfx i]
      cases hr : s.pfx.record i with
      | none => rfl
      | some q =>
        simp only [Option.isSome_some, if_true, exec_of_record hr, thenDo_next]
        exact ih rest { s with pfx := q }

theorem step_eq_decodeAt (s : State) :
    step s = (decodeAt s.csD s.window).elim (.fault .undecodable)
      fun d => runInstr d.instr d.length { s.beginStep with pfx := d.pfx } := by
  have hl : s.window.length = maxLength := by simp [State.window]
  have ht : s.window.take maxLength = s.window := by rw [← hl, List.take_length]
  rw [decodeAt, ht, hl]
  exact runFrom_eq_decodeFrom (maxLength + 1) s.window s.beginStep

theorem step_undecodable {s : State} (h : decodeAt s.csD s.window = none) :
    step s = .fault .undecodable := by
  rw [step_eq_decodeAt, h]
  rfl

theorem step_decoded {s : State} {d : Decoded} (h : decodeAt s.csD s.window = some d) :
    step s = runInstr d.instr d.length { s.beginStep with pfx := d.pfx } := by
  rw [step_eq_decodeAt, h]
  rfl

/-- A step that completes ran the instruction `decodeAt` answers. -/
theorem step_next {s t : State} (h : step s = .next t) :
    ∃ d, decodeAt s.csD s.window = some d ∧
      runInstr d.instr d.length { s.beginStep with pfx := d.pfx } = .next t := by
  cases hd : decodeAt s.csD s.window with
  | none => exact nomatch (step_undecodable hd).symm.trans h
  | some d => exact ⟨d, rfl, (step_decoded hd).symm.trans h⟩

theorem sizeFor_eq (default override : Bool) :
    sizeFor default override = if default != override then .s32 else .s16 := by
  cases default <;> cases override <;> rfl

/-- Settles O7: the eleven prefixes are `recordPrefix` of their fields, and a step ends in `State.endStep`. -/
theorem prefixesRecord : Obligations.PrefixesRecord := by
  refine fun s => ⟨?_, ⟨sizeFor_eq _ _, sizeFor_eq _ _, rfl⟩, fun z a rest => ?_, fun t ht => ?_⟩
  · exact ⟨rfl, rfl, rfl, rfl, rfl, rfl, rfl, rfl, rfl, rfl, rfl⟩
  · exact ⟨rfl, rfl, rfl, rfl, rfl, rfl, rfl, rfl, rfl, rfl, rfl⟩
  · obtain ⟨d, -, hd⟩ := step_next ht
    obtain ⟨u, -, rfl⟩ := runInstr_next hd
    rfl

end Sys2Proof.Machine
end

section
/-! What can stop the machine: no meaning faults, and outside protected mode none is refused; and the end
of a run. -/

namespace Sys2Proof.Machine

/-! ### Answers that stop in protected mode only -/

/-- An answer of an operation run for a state `s`: a next state, or a refusal where `s` is in protected
mode; never a fault (R27, R671, R678). -/
def Completes (s : State) (o : Result) : Prop :=
  (∃ t, o = .next t) ∨ s.protectedMode = true ∧ ∃ r, o = .refused r

theorem completes_next (s t : State) : Completes s (.next t) := .inl ⟨t, rfl⟩

theorem Completes.thenDo {s : State} {o : Result} (h : Completes s o) (k : State → State) :
    Completes s (thenDo o fun t => .next (k t)) := by
  obtain ⟨t, rfl⟩ | ⟨hp, r, rfl⟩ := h
  · exact completes_next s (k t)
  · exact .inr ⟨hp, r, rfl⟩

theorem Completes.ne_fault {s : State} {o : Result} (h : Completes s o) (r : Fault) : o ≠ .fault r := by
  obtain ⟨t, rfl⟩ | ⟨-, r', rfl⟩ := h <;> nofun

theorem Completes.next {s : State} {o : Result} (h : Completes s o) (hp : s.protectedMode = false) :
    ∃ t, o = .next t :=
  h.resolve_right fun ⟨hp', _⟩ => absurd (hp.symm.trans hp') nofun

theorem completes_ite (s : State) {c : Prop} [Decidable c] {o p : Result} (ho : Completes s o)
    (hp : Completes s p) : Completes s (if c then o else p) := by
  split <;> assumption

/-! ### The operations that can be refused (R27, R678) -/

theorem completes_loadSeg {s t : State} (h : t.ctl = s.ctl) (r : SegReg) (sel : BitVec 16) :
    Completes s (loadSeg r sel t) := by
  cases hp : s.protectedMode with
  | false => exact .inl ⟨_, loadSeg_real ((protectedMode_congr h).trans hp) r sel⟩
  | true =>
    rw [loadSeg_eq]
    split
    · exact completes_next s _
    · exact .inr ⟨hp, _, rfl⟩

theorem completes_raiseVector (s : State) (v : BitVec 8) (ip : BitVec 32) :
    Completes s (raiseVector v ip s) := by
  refine Completes.thenDo ?_ fun t => { t with result := some (.delivered v) }
  cases hp : s.protectedMode with
  | false => exact .inl ⟨_, deliver_real hp v ip⟩
  | true => exact .inr ⟨hp, _, deliver_protected hp v ip⟩

/-! ### The operations with several ends -/

theorem completes_shiftExec (s : State) (k : ShiftKind) (f : ShiftForm) :
    Completes s (shiftExec k f s) :=
  completes_ite s (completes_next s _) (completes_next s _)

theorem completes_doubleShiftExec (s : State)
    (bits : ∀ {n : Nat}, BitVec n → BitVec n → Nat → BitVec n × Bool) (f : DoubleShiftForm) :
    Completes s (doubleShiftExec bits f s) :=
  completes_ite s (completes_next s _) (completes_next s _)

theorem completes_bitScan (s : State) (find : ∀ {n : Nat}, BitVec n → Nat) (r : Reg) (rm : RM) :
    Completes s (bitScan find r rm s) :=
  completes_ite s (completes_next s _) (completes_next s _)

theorem completes_branchIf (s t : State) (c : Bool) (rel : BitVec 32) :
    Completes s (branchIf c rel t) :=
  completes_ite s (completes_next s _) (completes_next s _)

theorem completes_jcc (s : State) (cc : Cond) (f : JccForm) : Completes s (jcc cc f s) := by
  cases f <;> exact completes_branchIf s s _ _

theorem completes_stringStep (s : State) (prim : State → State) (compares : Bool) :
    Completes s (stringStep prim compares s) := by
  unfold stringStep
  split
  · exact completes_next s _
  · exact completes_ite s (completes_next s _) (completes_ite s (completes_next s _) (completes_next s _))

theorem completes_farTransfer {s t : State} (h : t.ctl = s.ctl) (sel : BitVec 16) (off : BitVec 32) :
    Completes s (farTransfer sel off t) :=
  (completes_loadSeg h .cs sel).thenDo fun u => u.jumpTo off

theorem completes_loadFarPointer (s : State) (sr : SegReg) (r : Reg) (m : MemOp) :
    Completes s (loadFarPointer sr r m s) :=
  (completes_loadSeg rfl sr _).thenDo fun t => (t.writeReg s.opw r (s.farOffset m)).retire

/-! ### Every instruction -/

theorem completes_execMov (s : State) (f : MovForm) : Completes s (execMov f s) := by
  cases f with
  | sregRmw sr rm => exact (completes_loadSeg rfl sr _).thenDo State.retire
  | rmwSreg rm sr => cases rm <;> exact completes_next s _
  | _ => exact completes_next s _

theorem completes_execPop (s : State) (f : PopForm) : Completes s (execPop f s) := by
  cases f with
  | sreg sr => exact (completes_loadSeg (State.popped_ctl s _) sr _).thenDo State.retire
  | _ => exact completes_next s _

theorem completes_execJmp (s : State) (f : JmpForm) : Completes s (execJmp f s) := by
  cases f with
  | pw off sel => exact completes_farTransfer rfl sel _
  | mp m => exact completes_farTransfer rfl _ _
  | _ => exact completes_next s _

theorem completes_execCall (s : State) (f : CallForm) : Completes s (execCall f s) := by
  cases f with
  | pw off sel => exact completes_farTransfer rfl sel _
  | mp m => exact completes_farTransfer rfl _ _
  | _ => exact completes_next s _

/-- No meaning faults, and none is refused outside protected mode. The cases are the instructions whose
meaning has more than one end or depends on its form; every other one ends in one next state. -/
theorem completes_exec (i : Instr) (s : State) : Completes s (exec i s) := by
  cases i with
  -- selector loads
  | mov f => exact completes_execMov s f
  | pop f => exact completes_execPop s f
  | jmp f => exact completes_execJmp s f
  | call f => exact completes_execCall s f
  | les r m | lds r m | lss r m | lfs r m | lgs r m => exact completes_loadFarPointer s _ r m
  | retf f =>
    exact (completes_loadSeg rfl .cs _).thenDo fun t =>
      (t.release (releaseCount f)).jumpTo ((s.popValue s.opsz).setWidth 32)
  | iret =>
    exact (completes_loadSeg rfl .cs _).thenDo fun t => { t.jumpTo _ with flags := _ }
  -- deliveries
  | int3 | int imm => exact completes_raiseVector s _ _
  | into | bound r m => exact completes_ite s (completes_raiseVector s _ _) (completes_next s _)
  | div f | idiv f | aam imm => exact completes_ite s (completes_raiseVector s _ _) (completes_next s _)
  -- jumps and loops
  | jo f | jno f | jb f | jnb f | jz f | jnz f | jbe f | jnbe f => exact completes_jcc s _ f
  | js f | jns f | jp f | jnp f | jl f | jnl f | jle f | jnle f => exact completes_jcc s _ f
  | jcxz rel | loop rel | loope rel | loopne rel => exact completes_branchIf s _ _ _
  -- shifts, bit scans and strings
  | rol f | ror f | rcl f | rcr f | shl f | shr f | sar f => exact completes_shiftExec s _ f
  | shld f | shrd f => exact completes_doubleShiftExec s _ f
  | bsf r rm | bsr r rm => exact completes_bitScan s _ r rm
  | movs f | cmps f | stos f | lods f | scas f | ins f | outs f => exact completes_stringStep s _ _
  -- one next state for each form
  | push f | xchg f | imul f | inp f | out f | movzx f | movsx f => cases f <;> exact completes_next s _
  | fld f | fst f | fstp f | fild f | fist f | fistp f | fnstsw f => cases f <;> exact completes_next s _
  | cbw =>
    simp only [exec, execCbw]
    split <;> exact completes_next s _
  | _ => exact completes_next s _

/-! ### The end of a run (R705) -/

/-- A run seen from its first step. -/
theorem Reaches.first_step {s u : State} (h : Reaches s u) :
    ∃ v, step s = .next v ∧ (v = u ∨ v.result ≠ some .halted ∧ Reaches v u) := by
  induction h with
  | first hs => exact ⟨_, hs, .inl rfl⟩
  | next _ hr hs ih =>
    obtain ⟨v, hv, rfl | ⟨hv', hvt⟩⟩ := ih
    · exact ⟨v, hv, .inr ⟨hr, .first hs⟩⟩
    · exact ⟨v, hv, .inr ⟨hv', .next hvt hr hs⟩⟩

/-- The step of a state is one state, from which the rest of the run goes on. -/
theorem Reaches.of_step {s t u : State} (h : Reaches s u) (hs : step s = .next t) :
    t = u ∨ t.result ≠ some .halted ∧ Reaches t u := by
  obtain ⟨v, hv, h⟩ := h.first_step
  obtain rfl : v = t := Host.Outcome.next.inj (hv.symm.trans hs)
  exact h

/-- A state of a run that halts is its end, or the run goes on from there. -/
theorem Reaches.eq_or_reaches {s t u : State} (ht : Reaches s t) (hu : Reaches s u)
    (hr : u.result = some .halted) : t = u ∨ t.result ≠ some .halted ∧ Reaches t u := by
  induction ht with
  | first hs => exact hu.of_step hs
  | next _ hn hs ih =>
    obtain rfl | ⟨-, htu⟩ := ih
    · exact absurd hr hn
    · exact htu.of_step hs

/-! ### Every step -/

theorem completes_runInstr (i : Instr) (n : Nat) (s : State) : Completes s (runInstr i n s) :=
  (completes_exec i (s.withLength n)).thenDo _

/-- Settles O6: a window that decodes runs a meaning, which completes in the sense of `Completes`; two
halting ends of a run are one, as a run is determined by its steps. -/
theorem onlyStops : Obligations.OnlyStops := by
  refine ⟨fun s => ⟨⟨?_, ?_⟩, fun hp r hs => ?_, fun i hp => (completes_exec i s).next hp,
    fun i r => (completes_exec i s).ne_fault r⟩, fun s t u ht hth hu huh => ?_⟩
  · rintro ⟨r, hs⟩
    cases hd : decodeAt s.csD s.window with
    | none => rfl
    | some d => exact absurd ((step_decoded hd).symm.trans hs) ((completes_runInstr _ _ _).ne_fault r)
  · exact fun hd => ⟨_, step_undecodable hd⟩
  · cases hd : decodeAt s.csD s.window with
    | none => exact nomatch (step_undecodable hd).symm.trans hs
    | some d =>
      obtain ⟨t, ht⟩ := (completes_runInstr d.instr d.length { s.beginStep with pfx := d.pfx }).next hp
      exact nomatch (step_decoded hd ▸ ht).symm.trans hs
  · obtain rfl | ⟨hn, -⟩ := ht.eq_or_reaches hu huh
    · rfl
    · exact absurd hth hn

end Sys2Proof.Machine
end

section
/-! XCHG: views of one width are apart unless they are the same, and the two writes of an exchange. -/

namespace Sys2Proof.Machine

/-! ### Views of one width (R21) -/

/-- Codes of the same storage and the same half name the same 8-bit view. -/
theorem eq_of_home8_eq {q r : Reg} (hh : home8 q = home8 r) (hi : isHigh8 q = isHigh8 r) : q = r := by
  cases q <;> cases r <;> simp_all [home8, isHigh8]

/-- No bit of one view belongs to another view of the same width. -/
theorem not_inView_of_ne (w : Width) {q r : Reg} (h : q ≠ r) {k : Nat} (hk : k < w.bits) :
    ¬ InView w r (homeOf w q) (viewLow w q + k) := by
  rintro ⟨hh, hlo, hhi⟩
  cases w with
  | w8 =>
    have half : isHigh8 q = isHigh8 r := by
      simp only [viewLow, Width.bits] at hk hlo hhi
      grind
    exact h (eq_of_home8_eq hh half)
  | w16 => exact h hh
  | w32 => exact h hh

/-- A register reads as before when only bits of another view of the same width may differ. -/
theorem OnlyView.readReg_eq {w : Width} {q r : Reg} {s t : State} (ht : OnlyView w r s t) (h : q ≠ r) :
    t.readReg w q = s.readReg w q := by
  apply BitVec.eq_of_getLsbD_eq
  intro k hk
  simp only [State.readReg, getLsbD_viewOf w q _ k hk]
  exact ht _ _ (not_inView_of_ne w h hk)

/-! ### The exchange (R197, R267, R268) -/

theorem readReg_exchanged (s : State) (w : Width) (q r : Reg) :
    ((s.writeReg w q (s.readReg w r)).writeReg w r (s.readReg w q)).readReg w q = s.readReg w r := by
  by_cases h : q = r
  · subst h
    exact readReg_writeReg _ w q _
  · rw [(onlyView_writeReg _ w r _).readReg_eq h, readReg_writeReg]

/-- The three forms are one exchange; the form without a ModRM byte exchanges with the accumulator. -/
theorem exec_xchg {f : XchgForm} {w : Width} {rm : RM} {r : Reg} {s : State}
    (h : f = .rmbRb rm r ∧ w = .w8 ∨ f = .rmwRw rm r ∧ w = s.opw ∨
      f = .axRw r ∧ rm = .reg .eax ∧ w = s.opw) :
    exec (.xchg f) s = exchange w rm r s := by
  obtain ⟨rfl, rfl⟩ | ⟨rfl, rfl⟩ | ⟨rfl, rfl, rfl⟩ := h <;> rfl

theorem sameRest_writeRM (s : State) (w : Width) (rm : RM) (v : BitVec w.bits) :
    SameRest s (s.writeRM w rm v) := by
  simp [SameRest, SameSegs, SameSystem]

/-- Settles O30: the operand is written first, at its address before the exchange, and the register's
write leaves it alone unless both name one view, whose value then stays. -/
theorem xchgExchange : Obligations.Exchange := by
  intro f w rm r s hf
  have hr : SameRest s ((s.writeRM w rm (s.readReg w r)).writeReg w r (s.readRM w rm)).retire :=
    sameRest_writeRM s w rm _
  refine ⟨_, exec_xchg hf, s.writeRM_nextEip w rm _, s.writeRM_flags w rm _, hr,
    readReg_writeReg _ w r _, ?_⟩
  cases rm with
  | reg q =>
    have hq : OnlyViews w q w r s (s.writeReg w q (s.readReg w r)) := (onlyView_writeReg s w q _).left
    exact ⟨readReg_exchanged s w q r, hq.trans (onlyView_writeReg _ w r _).right, rfl⟩
  | mem m =>
    exact ⟨memRead_memWrite s w (s.memAddr m) _,
      onlyView_congr (onlyView_writeReg (s.memWrite w (s.memAddr m) _) w r _) rfl rfl,
      sameMemExcept_memWrite s w (s.memAddr m) _⟩

end Sys2Proof.Machine
end

section
/-! The flags of a result (R221, R222), and those of an addition and of a subtraction with a carry or borrow
in, as comparisons of numbers (R223, R224). -/

namespace Sys2Proof.Machine

theorem four_lt_bits (w : Width) : 4 < w.bits := by cases w <;> decide

/-! ### ZF, SF and PF (R221, R222) -/

theorem setSZP_eq {n : Nat} (f : Flags) (r : BitVec n) : f.setSZP r = { f with
    ZF := decide (r = 0)
    SF := r.msb
    PF := decide ((r.extractLsb' 0 8).cpop.toNat % 2 = 0) } := by
  rw [← parity_eq_cpop]
  rfl

/-- Settles O27: ZF and SF are the value 0 and the top bit; of the counts a byte can have, those listed are
the even ones. -/
theorem resultFlags : Obligations.ResultFlags := by
  refine ⟨fun w f r => ?_, fun w r => ?_, rfl, rfl, rfl, rfl, rfl⟩
  · have hz : (r == 0) = decide (r.toNat = 0) := by
      rw [Bool.eq_iff_iff]
      simp [← BitVec.toNat_inj]
    rw [Flags.setSZP, hz, BitVec.msb_eq_getLsbD_last]
  · have hle := (r.extractLsb' 0 8).toNat_cpop_le
    rw [parity_eq_cpop, decide_eq_decide]
    simp only [List.mem_cons, List.not_mem_nil, or_false]
    omega

/-! ### Addition with a carry in (R223) -/

theorem flagsAdd_fst {n : Nat} (f : Flags) (a b : BitVec n) (c : Bool) :
    (flagsAdd f a b c).1 = a + b + BitVec.ofNat n c.toNat := by
  simp [flagsAdd, BitVec.ofNat_add]

/-- A word congruent to a number in twice the signed range has that number's sign, unless the number is
out of the range itself. -/
theorem msb_of_toInt_eq_bmod {n : Nat} {r : BitVec n} {i : ℤ} (hn : 0 < n) (hr : r.toInt = i.bmod (2 ^ n))
    (hlo : -(2 * 2 ^ (n - 1)) ≤ i) (hhi : i < 2 * 2 ^ (n - 1)) :
    r.msb = (decide (i < 0) != decide (i < -(2 ^ (n - 1)) ∨ 2 ^ (n - 1) ≤ i)) := by
  have hpow : (2 : ℤ) ^ n = 2 * 2 ^ (n - 1) := (mul_pow_sub_one hn.ne' 2).symm
  have hcast : ((2 ^ n : ℕ) : ℤ) = 2 ^ n := by push_cast; rfl
  have hsign := Int.bmod_neg_iff (m := 2 ^ n) (x := i) (by omega) (by omega)
  rw [BitVec.msb_eq_toInt, hr, Bool.eq_iff_iff, decide_eq_true_iff, hsign]
  grind

theorem flagsAdd_OF {n : Nat} (hn : 0 < n) (f : Flags) (a b : BitVec n) (c : Bool) :
    (flagsAdd f a b c).2.OF = decide (a.toInt + b.toInt + c.toNat < -(2 ^ (n - 1)) ∨
      2 ^ (n - 1) ≤ a.toInt + b.toInt + c.toNat) := by
  have hr : (flagsAdd f a b c).1.toInt = (a.toInt + b.toInt + c.toNat).bmod (2 ^ n) := by
    simp [flagsAdd_fst, BitVec.toInt_add, BitVec.toInt_ofNat']
  have ha := a.le_toInt; have hb := b.le_toInt; have ha' := a.toInt_lt; have hb' := b.toInt_lt
  have hc := c.toNat_le
  have hof : (flagsAdd f a b c).2.OF =
      ((a ^^^ (flagsAdd f a b c).1) &&& (b ^^^ (flagsAdd f a b c).1)).msb := rfl
  rw [hof, BitVec.msb_and, BitVec.msb_xor, BitVec.msb_xor,
    msb_of_toInt_eq_bmod hn hr (by omega) (by omega), BitVec.msb_eq_toInt, BitVec.msb_eq_toInt]
  grind

/-- AF is the carry into bit 4. -/
theorem flagsAdd_AF {n : Nat} (hn : 4 < n) (f : Flags) (a b : BitVec n) (c : Bool) :
    (flagsAdd f a b c).2.AF = decide (16 ≤ a.toNat % 16 + b.toNat % 16 + c.toNat) := by
  have hc : BitVec.ofNat n c.toNat = (BitVec.ofBool c).setWidth n := BitVec.eq_of_toNat_eq (by simp)
  have haf : (flagsAdd f a b c).2.AF = (a ^^^ b ^^^ (flagsAdd f a b c).1).getLsbD 4 := rfl
  have hcarry : BitVec.carry 4 a b c = decide (16 ≤ a.toNat % 16 + b.toNat % 16 + c.toNat) := rfl
  rw [haf, flagsAdd_fst, hc, BitVec.getLsbD_xor, BitVec.getLsbD_xor, BitVec.getLsbD_add_add_bool hn, hcarry]
  cases a.getLsbD 4 <;> cases b.getLsbD 4 <;> simp

theorem flagsAdd_eq {n : Nat} (hn : 4 < n) (f : Flags) (a b : BitVec n) (c : Bool) :
    flagsAdd f a b c = (a + b + BitVec.ofNat n c.toNat, { f.setSZP (a + b + BitVec.ofNat n c.toNat) with
      CF := decide (2 ^ n ≤ a.toNat + b.toNat + c.toNat)
      OF := decide (a.toInt + b.toInt + c.toNat < -(2 ^ (n - 1)) ∨
        2 ^ (n - 1) ≤ a.toInt + b.toInt + c.toNat)
      AF := decide (16 ≤ a.toNat % 16 + b.toNat % 16 + c.toNat) }) := by
  rw [← flagsAdd_OF (by omega) f, ← flagsAdd_AF hn f, ← flagsAdd_fst f]
  rfl

/-! ### Subtraction with a borrow in (R224) -/

theorem flagsSub_borrow_fst {n : Nat} (f : Flags) (a b : BitVec n) (c : Bool) :
    (flagsSub f a b c).1 = a - b - BitVec.ofNat n c.toNat := by
  have h : (a.toNat : ℤ) - b.toNat - c.toNat = a.toNat + -b.toNat + -c.toNat := by omega
  rw [flagsSub, h, BitVec.ofInt_add, BitVec.ofInt_add, BitVec.ofInt_neg, BitVec.ofInt_neg]
  simp [BitVec.sub_eq_add_neg]

/-- A subtraction is the addition of the complement with the borrow inverted. -/
theorem flagsSub_fst_eq_flagsAdd_not {n : Nat} (f : Flags) (a b : BitVec n) (c : Bool) :
    (flagsSub f a b c).1 = (flagsAdd f a (~~~b) (!c)).1 := by
  rw [flagsSub_borrow_fst, flagsAdd_fst, BitVec.sub_eq_add_neg a, BitVec.neg_eq_not_add]
  cases c <;> simp [BitVec.add_assoc, BitVec.sub_eq_add_neg]

theorem flagsSub_borrow_OF {n : Nat} (hn : 0 < n) (f : Flags) (a b : BitVec n) (c : Bool) :
    (flagsSub f a b c).2.OF = decide (a.toInt - b.toInt - c.toNat < -(2 ^ (n - 1)) ∨
      2 ^ (n - 1) ≤ a.toInt - b.toInt - c.toNat) := by
  have hr : (flagsSub f a b c).1.toInt = (a.toInt - b.toInt - c.toNat).bmod (2 ^ n) := by
    simp [flagsSub_borrow_fst, BitVec.toInt_sub, BitVec.toInt_ofNat']
  have ha := a.le_toInt; have hb := b.le_toInt; have ha' := a.toInt_lt; have hb' := b.toInt_lt
  have hc := c.toNat_le
  have hof : (flagsSub f a b c).2.OF = ((a ^^^ b) &&& (a ^^^ (flagsSub f a b c).1)).msb := rfl
  rw [hof, BitVec.msb_and, BitVec.msb_xor, BitVec.msb_xor,
    msb_of_toInt_eq_bmod hn hr (by omega) (by omega), BitVec.msb_eq_toInt, BitVec.msb_eq_toInt]
  grind

/-- AF is the inverted carry into bit 4 of the addition of the complement. -/
theorem flagsSub_borrow_AF {n : Nat} (hn : 4 < n) (f : Flags) (a b : BitVec n) (c : Bool) :
    (flagsSub f a b c).2.AF = decide (a.toNat % 16 < b.toNat % 16 + c.toNat) := by
  have haf : (flagsSub f a b c).2.AF = !(flagsAdd f a (~~~b) (!c)).2.AF := by
    have hsub : (flagsSub f a b c).2.AF = (a ^^^ b ^^^ (flagsSub f a b c).1).getLsbD 4 := rfl
    have hadd : (flagsAdd f a (~~~b) (!c)).2.AF =
        (a ^^^ ~~~b ^^^ (flagsAdd f a (~~~b) (!c)).1).getLsbD 4 := rfl
    simp [hsub, hadd, flagsSub_fst_eq_flagsAdd_not, hn]
  have hnot : (2 ^ n - 1 - b.toNat) % 16 = 15 - b.toNat % 16 := by
    have hb := b.isLt
    obtain ⟨m, hm⟩ : 2 ^ 4 ∣ 2 ^ n := pow_dvd_pow 2 hn.le
    omega
  rw [haf, flagsAdd_AF hn, BitVec.toNat_not, hnot, ← decide_not, decide_eq_decide]
  cases c <;> simp <;> omega

theorem flagsSub_eq {n : Nat} (hn : 4 < n) (f : Flags) (a b : BitVec n) (c : Bool) :
    flagsSub f a b c = (a - b - BitVec.ofNat n c.toNat, { f.setSZP (a - b - BitVec.ofNat n c.toNat) with
      CF := decide (a.toNat < b.toNat + c.toNat)
      OF := decide (a.toInt - b.toInt - c.toNat < -(2 ^ (n - 1)) ∨
        2 ^ (n - 1) ≤ a.toInt - b.toInt - c.toNat)
      AF := decide (a.toNat % 16 < b.toNat % 16 + c.toNat) }) := by
  have hcf : (flagsSub f a b c).2.CF = decide (a.toNat < b.toNat + c.toNat) := by
    simp only [flagsSub, decide_eq_decide]
    omega
  rw [← hcf, ← flagsSub_borrow_OF (by omega) f, ← flagsSub_borrow_AF hn f, ← flagsSub_borrow_fst f]
  rfl

/-- Settles O15: the carries and the overflow are those of the exact sums and differences. -/
theorem flagsAddSub : Obligations.FlagsAddSub := by
  refine fun w f a b c => ⟨?_, ?_, setSZP_eq f⟩
  · intro o i
    refine ⟨flagsAdd_fst f a b c, ?_⟩
    simp only [o, flagsAdd_eq (four_lt_bits w), setSZP_eq, i]
  · intro o i
    refine ⟨flagsSub_borrow_fst f a b c, ?_⟩
    simp only [o, flagsSub_eq (four_lt_bits w), setSZP_eq, i]

end Sys2Proof.Machine
end

section
/-! INC, DEC, NEG and NOT; the products of MUL and IMUL. -/

namespace Sys2Proof.Machine

/-! ### One operand (R226, R227, R340 to R343) -/

/-- An instruction that ends in `finishRM` writes one operand and the flags, and nothing else. -/
theorem finishRM_wrote (s : State) (w : Width) (rm : RM) (out : BitVec w.bits × Flags) :
    ∃ t, s.finishRM w rm out = .next t ∧ Wrote s t w rm out.1 out.2 :=
  ⟨_, rfl, wrote_writeRM s w rm out.1 out.2⟩

/-- An instruction that writes a register and the flags, and retires, writes nothing else. -/
theorem wrote_writeReg (s : State) (w : Width) (r : Reg) (v : BitVec w.bits) (f : Flags) :
    Wrote s (State.retire { s.writeReg w r v with flags := f }) w (.reg r) v f :=
  wrote_writeRM s w (.reg r) v f

theorem flagsInc_fst {n : Nat} (f : Flags) (a : BitVec n) : (flagsInc f a).1 = a + 1 := by
  simp [flagsInc, flagsAdd_fst]

theorem flagsDec_fst {n : Nat} (f : Flags) (a : BitVec n) : (flagsDec f a).1 = a - 1 :=
  flagsSub_fst f a 1

theorem flagsNeg_fst {n : Nat} (f : Flags) (a : BitVec n) : (flagsNeg f a).1 = -a :=
  (flagsSub_fst f 0 a).trans (zero_sub a)

/-- Settles O18: every form ends in one write of its operand, with the flags of the addition or subtraction
that gives its result. -/
theorem oneOperand : Obligations.OneOperand := by
  refine ⟨fun s rm r => ⟨rfl, rfl, rfl, rfl, rfl⟩, fun f s => ?_, fun f s => ?_⟩
  · intro w rm a
    exact ⟨flagsInc_fst s.flags a ▸ finishRM_wrote s w rm (flagsInc s.flags a),
      flagsDec_fst s.flags a ▸ finishRM_wrote s w rm (flagsDec s.flags a)⟩
  · intro w rm a
    exact ⟨flagsNeg_fst s.flags a ▸ finishRM_wrote s w rm (flagsNeg s.flags a),
      _, rfl, wrote_writeRM s w rm (~~~a) s.flags⟩

/-! ### The double-width accumulator (R344, R348) -/

/-- The halves of a number, one above the other. -/
theorem ofInt_append_ofInt (m n : Nat) (p : ℤ) :
    BitVec.ofInt m (p / 2 ^ n) ++ BitVec.ofInt n p = BitVec.ofInt (m + n) p := by
  have key : p / 2 ^ n % 2 ^ m * 2 ^ n + p % 2 ^ n = p % 2 ^ (m + n) := by
    rw [Int.emod_def p, Int.emod_def p, Int.emod_def, Int.ediv_ediv_of_nonneg (by positivity), ← pow_add,
      Nat.add_comm m]
    ring
  have cast {k : Nat} (q : ℤ) : (((BitVec.ofInt k q).toNat : ℕ) : ℤ) = q % 2 ^ k := by
    rw [BitVec.toNat_ofInt, Int.toNat_of_nonneg (Int.emod_nonneg _ (by positivity))]
    push_cast
    rfl
  apply BitVec.eq_of_toNat_eq
  rw [BitVec.toNat_append, ← Nat.shiftLeft_add_eq_or_of_lt (BitVec.isLt _), Nat.shiftLeft_eq]
  zify
  rw [cast, cast, cast, key]

/-- A product reads back whole. -/
theorem dividend_writeProduct (s : State) (w : Width) (p : ℤ) :
    (s.writeProduct w p).dividend w = BitVec.ofInt (2 * w.bits) p := by
  have two (z : Size) (hi lo : BitVec z.bits) :
      let t := (s.writeReg z.width .eax lo).writeReg z.width .edx hi
      t.readReg z.width .edx ++ t.readReg z.width .eax = hi ++ lo := by
    simp [readReg_writeReg_of_ne]
  cases w with
  | w8 => exact readReg_writeReg s .w16 .eax (BitVec.ofInt 16 p)
  | w16 => exact (two .s16 _ _).trans (ofInt_append_ofInt 16 16 p)
  | w32 => exact (two .s32 _ _).trans (ofInt_append_ofInt 32 32 p)

theorem onlyWide_writeProduct (s : State) (w : Width) (p : ℤ) : OnlyWide w s (s.writeProduct w p) := by
  cases w with
  | w8 => exact onlyView_writeReg s .w16 .eax _
  | w16 => exact (onlyView_writeReg s .w16 .eax _).left.trans (onlyView_writeReg _ .w16 .edx _).right
  | w32 => exact (onlyView_writeReg s .w32 .eax _).left.trans (onlyView_writeReg _ .w32 .edx _).right

theorem dividend_congr {s t : State} (h : t.gpr = s.gpr) (w : Width) : t.dividend w = s.dividend w := by
  cases w <;> simp only [State.dividend, readReg_congr h]

theorem onlyWide_congr {w : Width} {s t t' : State} (h : OnlyWide w s t) (ht : t'.gpr = t.gpr) :
    OnlyWide w s t' := by
  cases w with
  | w8 => exact onlyView_congr h rfl ht
  | w16 | w32 => exact onlyViews_congr h rfl ht

/-- A product in the double-width accumulator, with the flags, and nothing else. -/
theorem writeProduct_retire (s : State) (w : Width) (p : ℤ) (f : Flags) :
    let t := State.retire { s.writeProduct w p with flags := f }
    t.eip = s.nextEip ∧ t.dividend w = BitVec.ofInt (2 * w.bits) p ∧ t.flags = f ∧ OnlyWide w s t ∧
      t.mem = s.mem ∧ SameRest s t := by
  have hrest : SameRest s (s.writeProduct w p) := by simp [SameRest, SameSegs, SameSystem]
  exact ⟨s.writeProduct_nextEip w p, (dividend_congr rfl w).trans (dividend_writeProduct s w p), rfl,
    onlyWide_congr (onlyWide_writeProduct s w p) rfl, s.writeProduct_mem w p, hrest⟩

/-! ### Products (R344 to R347) -/

theorem signedLoss_eq {n : Nat} (hn : 0 < n) (p : ℤ) :
    signedLoss n p = decide (p < -(2 ^ (n - 1)) ∨ 2 ^ (n - 1) ≤ p) := by
  have hfit : (BitVec.ofInt n p).toInt = p ↔ -2 ^ (n - 1) ≤ p ∧ p < 2 ^ (n - 1) :=
    ⟨fun h => h ▸ ⟨BitVec.le_toInt _, BitVec.toInt_lt⟩, fun h => BitVec.toInt_ofInt_eq_self hn h.1 h.2⟩
  rw [signedLoss, bne, beq_eq_decide, ← decide_not, decide_eq_decide, eq_comm, hfit]
  omega

theorem toNat_mul_lt {n : Nat} (a b : BitVec n) : a.toNat * b.toNat < 2 ^ (2 * n) := by
  rw [two_mul, pow_add]
  exact Nat.mul_lt_mul'' a.isLt b.isLt

theorem toInt_ofInt_mul {n : Nat} (hn : 0 < n) (a b : BitVec n) :
    (BitVec.ofInt (2 * n) (a.toInt * b.toInt)).toInt = a.toInt * b.toInt := by
  have hlo := BitVec.le_toInt_mul_toInt (x := a) (y := b)
  have hhi := BitVec.toInt_mul_toInt_le (x := a) (y := b)
  have hpow : (2 : ℤ) ^ (n * 2 - 2) < 2 ^ (2 * n - 1) := pow_lt_pow_right₀ (by decide) (by omega)
  exact BitVec.toInt_ofInt_eq_self (by omega) (by omega) (by omega)

/-- Settles O19: the product fits twice the width, so the accumulator holds it whole; the register forms
keep it modulo the width. -/
theorem multiply : Obligations.Multiply := by
  have hw {w : Width} : 0 < w.bits := Nat.zero_lt_of_lt (four_lt_bits w)
  refine ⟨fun s => ⟨rfl, rfl, rfl⟩, fun f s => ?_, fun w rm f s hf => ?_, fun f r s a b hf => ?_⟩
  · intro w p
    obtain ⟨heip, hp, hf, hframe⟩ := writeProduct_retire s w p (flagsMul s.flags (decide (2 ^ w.bits ≤ p)))
    refine ⟨_, rfl, heip, ?_, hf, hframe⟩
    rw [hp, BitVec.ofInt_natCast, BitVec.toNat_ofNat, Nat.mod_eq_of_lt (toNat_mul_lt _ _)]
  · intro p big
    have hi : exec (.imul f) s = imulWide w rm s := by
      obtain ⟨rfl, rfl⟩ | ⟨rfl, rfl⟩ := hf <;> rfl
    have hbig : signedLoss w.bits p = big := signedLoss_eq hw p
    obtain ⟨heip, hp, hf, hframe⟩ := writeProduct_retire s w p (flagsMul s.flags (signedLoss w.bits p))
    exact ⟨_, hi, heip, hp ▸ toInt_ofInt_mul hw _ _, hbig ▸ hf, hframe⟩
  · intro p big
    have hi : exec (.imul f) s = imulReg s.opw r a b s := by
      obtain ⟨rm, rfl, rfl, rfl⟩ | ⟨rm, imm, rfl, rfl, rfl⟩ | ⟨rm, imm, rfl, rfl, rfl⟩ := hf <;> rfl
    have hbig : signedLoss s.opw.bits p = big := signedLoss_eq hw p
    have hlow : BitVec.ofInt s.opw.bits p = a * b := by
      rw [BitVec.ofInt_mul, BitVec.ofInt_toInt, BitVec.ofInt_toInt]
    have h := wrote_writeReg s s.opw r (BitVec.ofInt s.opw.bits p)
      (flagsMul s.flags (signedLoss s.opw.bits p))
    exact ⟨_, hi, hbig ▸ hlow ▸ h⟩

end Sys2Proof.Machine
end

section
/-! DAA and DAS after the addition and the subtraction of packed BCD bytes. -/

namespace Sys2Proof.Machine

/-! ### What DAA and DAS leave (R350, R351) -/

/-- The result of DAA. -/
def State.daaResult (s : State) : BitVec 8 :=
  s.al + (if s.nibbleAdjust then 6 else 0) + (if s.byteAdjust then 0x60 else 0)

/-- The result of DAS. -/
def State.dasResult (s : State) : BitVec 8 :=
  s.al - (if s.nibbleAdjust then 6 else 0) - (if s.byteAdjust then 0x60 else 0)

theorem exec_daa (s : State) : ∃ t, exec .daa s = .next t ∧ Wrote s t .w8 (.reg .eax) s.daaResult
    { s.flags.setSZP s.daaResult with AF := s.nibbleAdjust, CF := s.byteAdjust } := by
  refine ⟨_, rfl, ?_⟩
  have hr : s.daaResult = let al1 := if s.nibbleAdjust then s.al + 6 else s.al
      if s.byteAdjust then al1 + 0x60 else al1 := by
    cases hn : s.nibbleAdjust <;> cases hb : s.byteAdjust <;> simp [State.daaResult, hn, hb]
  rw [hr]
  exact wrote_writeReg s .w8 .eax _ _

theorem exec_das (s : State) : ∃ t, exec .das s = .next t ∧ Wrote s t .w8 (.reg .eax) s.dasResult
    { s.flags.setSZP s.dasResult with
      AF := s.nibbleAdjust
      CF := s.nibbleAdjust && (s.flags.CF || decide (s.al < 6)) || s.byteAdjust } := by
  refine ⟨_, rfl, ?_⟩
  have hr : s.dasResult = let al1 := if s.nibbleAdjust then s.al - 6 else s.al
      if s.byteAdjust then al1 - 0x60 else al1 := by
    cases hn : s.nibbleAdjust <;> cases hb : s.byteAdjust <;> simp [State.dasResult, hn, hb]
  rw [hr]
  exact wrote_writeReg s .w8 .eax _ _

theorem nibbleAdjust_eq (s : State) : s.nibbleAdjust = (decide (9 < s.al.toNat % 16) || s.flags.AF) := by
  have hlow : (s.al &&& 0x0F).toNat = s.al.toNat % 16 := Nat.and_two_pow_sub_one_eq_mod s.al.toNat 4
  simp only [State.nibbleAdjust, BitVec.lt_def, hlow]
  rfl

theorem byteAdjust_eq (s : State) : s.byteAdjust = (decide (0x99 < s.al.toNat) || s.flags.CF) := rfl

/-! ### Packed BCD -/

/-- Both nibbles are decimal digits. -/
def TwoDigits (a : Nat) : Prop := a % 16 ≤ 9 ∧ a / 16 ≤ 9

/-- The number the two nibbles denote as decimal digits. -/
def digitsValue (a : Nat) : Nat := 10 * (a / 16) + a % 16

/-- Two digits, as a byte and as a decimal number, each up to whole rounds of its range. -/
theorem digitsValue_mod {r d u v i j : Nat} (hu : u ≤ 9) (hv : v ≤ 9) (hr : r = 16 * u + v + 256 * i)
    (hd : d = 10 * u + v + 100 * j) : digitsValue (r % 256) = d % 100 := by
  have hr' : r % 256 = 16 * u + v := by omega
  have hd' : d % 100 = 10 * u + v := by omega
  rw [digitsValue]
  omega

/-- An adjustment as a multiple of its carry. -/
theorem exists_ite_eq_mul (p : Prop) [Decidable p] (m : Nat) :
    ∃ k, (if p then m else 0) = m * k ∧ k ≤ 1 ∧ (p ↔ k = 1) := by
  by_cases h : p
  · exact ⟨1, by simp [h]⟩
  · exact ⟨0, by simp [h]⟩

section
variable {a b c : Nat} (ha : TwoDigits a) (hb : TwoDigits b) (hc : c ≤ 1)
include ha hb hc

/-- Adding 6 to a digit sum from 10 on carries into the upper digit, and adding 0x60 to the upper digit from
10 on carries out of the byte. -/
theorem digitsValue_adjusted_sum :
    digitsValue ((a + b + c + (if 10 ≤ a % 16 + b % 16 + c then 6 else 0) +
      (if 0x9A ≤ a + b + c then 0x60 else 0)) % 256) = (digitsValue a + digitsValue b + c) % 100 := by
  obtain ⟨ha0, ha1⟩ := ha
  obtain ⟨hb0, hb1⟩ := hb
  obtain ⟨k, hk, hk1, hkp⟩ := exists_ite_eq_mul (10 ≤ a % 16 + b % 16 + c) 6
  obtain ⟨i, hi, hi1, hip⟩ := exists_ite_eq_mul (0x9A ≤ a + b + c) 0x60
  exact digitsValue_mod (u := a / 16 + b / 16 + k - 10 * i) (v := a % 16 + b % 16 + c - 10 * k) (i := i)
    (j := i) (by omega) (by omega) (by omega) (by simp only [digitsValue]; omega)

/-- Subtracting 6 from a digit difference below 0 borrows from the upper digit, and subtracting 0x60 from the
upper digit below 0 borrows from outside the byte. -/
theorem digitsValue_adjusted_difference :
    digitsValue ((512 + a - b - c - (if a % 16 < b % 16 + c then 6 else 0) -
      (if a < b + c then 0x60 else 0)) % 256) = (digitsValue a + 100 - digitsValue b - c) % 100 := by
  obtain ⟨ha0, ha1⟩ := ha
  obtain ⟨hb0, hb1⟩ := hb
  obtain ⟨k, hk, hk1, hkp⟩ := exists_ite_eq_mul (a % 16 < b % 16 + c) 6
  obtain ⟨i, hi, hi1, hip⟩ := exists_ite_eq_mul (a < b + c) 0x60
  exact digitsValue_mod (u := a / 16 + 10 * i - b / 16 - k) (v := a % 16 + 10 * k - b % 16 - c) (i := 2 - i)
    (j := 1 - i) (by omega) (by omega) (by omega) (by simp only [digitsValue]; omega)

end

section
variable {s : State} {a b : BitVec 8} {c : Bool} {f : Flags} (ha : TwoDigits a.toNat)
  (hb : TwoDigits b.toNat)
include ha hb

/-- The adjustments DAA makes after an addition, and its sum. -/
theorem daaResult_add (hal : s.al = (flagsAdd f a b c).1) (hf : s.flags = (flagsAdd f a b c).2) :
    s.byteAdjust = decide (0x9A ≤ a.toNat + b.toNat + c.toNat) ∧
    s.daaResult.toNat = (a.toNat + b.toNat + c.toNat +
      (if 10 ≤ a.toNat % 16 + b.toNat % 16 + c.toNat then 6 else 0) +
      (if 0x9A ≤ a.toNat + b.toNat + c.toNat then 0x60 else 0)) % 256 := by
  obtain ⟨ha0, ha1⟩ := ha
  obtain ⟨hb0, hb1⟩ := hb
  have hc := c.toNat_le
  have hsum : s.al.toNat = (a.toNat + b.toNat + c.toNat) % 256 := by
    simp [hal, flagsAdd]
  have hlow : s.nibbleAdjust = decide (10 ≤ a.toNat % 16 + b.toNat % 16 + c.toNat) := by
    rw [nibbleAdjust_eq, hf, flagsAdd_AF (by decide), hsum, ← Bool.decide_or, decide_eq_decide]
    omega
  have hhigh : s.byteAdjust = decide (0x9A ≤ a.toNat + b.toNat + c.toNat) := by
    rw [byteAdjust_eq, hf, flagsAdd_eq (by decide), hsum, ← Bool.decide_or, decide_eq_decide]
    omega
  refine ⟨hhigh, ?_⟩
  simp only [State.daaResult, BitVec.toNat_add, hsum, hlow, hhigh, decide_eq_true_eq]
  split <;> split <;> simp

/-- The adjustments DAS makes after a subtraction, its borrow, and its difference. -/
theorem dasResult_sub (hal : s.al = (flagsSub f a b c).1) (hf : s.flags = (flagsSub f a b c).2) :
    (s.nibbleAdjust && (s.flags.CF || decide (s.al < 6)) || s.byteAdjust) =
      decide (a.toNat < b.toNat + c.toNat) ∧
    s.dasResult.toNat = (512 + a.toNat - b.toNat - c.toNat -
      (if a.toNat % 16 < b.toNat % 16 + c.toNat then 6 else 0) -
      (if a.toNat < b.toNat + c.toNat then 0x60 else 0)) % 256 := by
  obtain ⟨ha0, ha1⟩ := ha
  obtain ⟨hb0, hb1⟩ := hb
  have hc := c.toNat_le
  have hdiff : s.al.toNat = (256 + a.toNat - b.toNat - c.toNat) % 256 := by
    simp [hal, flagsSub_borrow_fst]
    omega
  have hlow : s.nibbleAdjust = decide (a.toNat % 16 < b.toNat % 16 + c.toNat) := by
    rw [nibbleAdjust_eq, hf, flagsSub_borrow_AF (by decide), hdiff, ← Bool.decide_or, decide_eq_decide]
    omega
  have hcf : s.flags.CF = decide (a.toNat < b.toNat + c.toNat) := by
    rw [hf, flagsSub_eq (by decide)]
  have hhigh : s.byteAdjust = decide (a.toNat < b.toNat + c.toNat) := by
    rw [byteAdjust_eq, hcf, hdiff, ← Bool.decide_or, decide_eq_decide]
    omega
  have hsix : decide (s.al < 6) = decide ((256 + a.toNat - b.toNat - c.toNat) % 256 < 6) := by
    rw [decide_eq_decide, BitVec.lt_def, hdiff]
    rfl
  refine ⟨?_, ?_⟩
  · rw [hlow, hcf, hhigh, hsix, ← Bool.decide_or, ← Bool.decide_and,
      ← Bool.decide_or, decide_eq_decide]
    omega
  · simp only [State.dasResult, BitVec.toNat_sub, hdiff, hlow, hhigh, decide_eq_true_eq]
    split <;> split <;> simp <;> omega

end

/-- Settles O22: the tests for a digit above 9 and for a borrow find the decimal carries, and the adjustments
make each digit decimal. -/
theorem decimalAdjust : Obligations.DecimalAdjust := by
  intro s t a b c f ha0 ha1 hb0 hb1 dec
  have hc := c.toNat_le
  have ha : TwoDigits a.toNat := ⟨ha0, ha1⟩
  have hb : TwoDigits b.toNat := ⟨hb0, hb1⟩
  refine ⟨fun hal hf ht => ?_, fun hal hf ht => ?_⟩
  · obtain ⟨u, hu, -, hr, hflags, -⟩ := exec_daa s
    obtain rfl : u = t := Host.Outcome.next.inj (hu.symm.trans ht)
    obtain ⟨hcarry, hsum⟩ := daaResult_add ha hb hal hf
    have hval : dec (u.readReg .w8 .eax) = digitsValue s.daaResult.toNat := congrArg dec hr
    refine ⟨?_, ?_⟩
    · rw [hval, hsum]
      exact digitsValue_adjusted_sum ha hb hc
    · rw [hflags, hcarry, decide_eq_decide]
      simp only [dec]
      omega
  · obtain ⟨u, hu, -, hr, hflags, -⟩ := exec_das s
    obtain rfl : u = t := Host.Outcome.next.inj (hu.symm.trans ht)
    obtain ⟨hborrow, hdiff⟩ := dasResult_sub ha hb hal hf
    have hval : dec (u.readReg .w8 .eax) = digitsValue s.dasResult.toNat := congrArg dec hr
    refine ⟨?_, ?_⟩
    · rw [hval, hdiff]
      exact digitsValue_adjusted_difference ha hb hc
    · rw [hflags, hborrow, decide_eq_decide]
      simp only [dec]
      omega

end Sys2Proof.Machine
end

section
/-! The execution of the group-2 shifts and rotates, and SHLD and SHRD. -/

namespace Sys2Proof.Machine

theorem exec_shiftInstr (k : ShiftKind) (f : ShiftForm) (s : State) :
    exec (shiftInstr k f) s = shiftExec k f s := by
  cases k <;> rfl

/-- Settles O24: every operation is `shiftExec`, whose steps are the masked and reduced count. -/
theorem shiftsExecute : Obligations.ShiftsExecute := by
  refine ⟨fun s rm imm => ⟨rfl, rfl, rfl, rfl, rfl, rfl⟩, fun k f s => ?_⟩
  intro w dst masked n o
  have hn : k.steps w.bits (s.shiftArgs f).2.2 = n := steps_eq k w.bits _
  rw [exec_shiftInstr, shiftExec, hn]
  refine ⟨fun h => if_pos h, fun h => ?_⟩
  rw [if_neg h]
  exact finishRM_wrote s w dst o

/-! ### Double shifts (R390, R391) -/

section
variable {n : Nat} (a b : BitVec n) {c : Nat}

theorem getLsbD_doubleShiftBits (i : Nat) : (doubleShiftBits a b).getLsbD i =
    if i < n then a.getLsbD i else if i < 2 * n then b.getLsbD (i - n) else a.getLsbD (i - 2 * n) := by
  rw [doubleShiftBits, BitVec.getLsbD_append, BitVec.getLsbD_append]
  split
  · rfl
  · simp only [Nat.sub_lt_iff_lt_add (not_lt.1 ‹_›), Nat.sub_sub, two_mul]

/-- The window from a place in the lower `a` reaches into `b`. -/
theorem extractLsb'_doubleShiftBits_low (h : c ≤ n) :
    (doubleShiftBits a b).extractLsb' c n = a >>> c ||| b <<< (n - c) := by
  apply BitVec.eq_of_getLsbD_eq
  intro i hi
  simp only [BitVec.getLsbD_extractLsb', getLsbD_doubleShiftBits, BitVec.getLsbD_or,
    BitVec.getLsbD_ushiftRight, BitVec.getLsbD_shiftLeft]
  grind

/-- The window from a place in `b` reaches into the upper `a`. -/
theorem extractLsb'_doubleShiftBits_high (h : c ≤ n) :
    (doubleShiftBits a b).extractLsb' (n + c) n = b >>> c ||| a <<< (n - c) := by
  apply BitVec.eq_of_getLsbD_eq
  intro i hi
  simp only [BitVec.getLsbD_extractLsb', getLsbD_doubleShiftBits, BitVec.getLsbD_or,
    BitVec.getLsbD_ushiftRight, BitVec.getLsbD_shiftLeft]
  grind

theorem shldBits_of_le (h : c ≤ n) :
    shldBits a b c = (a <<< c ||| b >>> (n - c), a.getLsbD (n - c)) := by
  have hw := extractLsb'_doubleShiftBits_high a b (Nat.sub_le n c)
  rw [Nat.sub_sub_self h, BitVec.or_comm] at hw
  rw [shldBits, getLsbD_doubleShiftBits, show 2 * n - c = n + (n - c) by omega, hw, if_neg (by omega),
    if_neg (by omega), show 3 * n - c - 2 * n = n - c by omega]

theorem shrdBits_of_le (hc : c ≠ 0) (h : c ≤ n) :
    shrdBits a b c = (a >>> c ||| b <<< (n - c), a.getLsbD (c - 1)) := by
  rw [shrdBits, getLsbD_doubleShiftBits, extractLsb'_doubleShiftBits_low a b h, if_pos (by omega)]

theorem shldBits_of_lt (h : n < c) (h' : c ≤ 2 * n) :
    shldBits a b c = (b <<< (c - n) ||| a >>> (2 * n - c), b.getLsbD (2 * n - c)) := by
  have hw := extractLsb'_doubleShiftBits_low a b (c := 2 * n - c) (by omega)
  rw [shldBits, getLsbD_doubleShiftBits, hw, BitVec.or_comm, if_neg (by omega), if_pos (by omega),
    show n - (2 * n - c) = c - n by omega, show 3 * n - c - n = 2 * n - c by omega]

theorem shrdBits_of_lt (h : n < c) (h' : c ≤ 2 * n) :
    shrdBits a b c = (b >>> (c - n) ||| a <<< (2 * n - c), b.getLsbD (c - n - 1)) := by
  have hw := extractLsb'_doubleShiftBits_high a b (c := c - n) (by omega)
  rw [show n + (c - n) = c by omega, show n - (c - n) = 2 * n - c by omega] at hw
  rw [shrdBits, getLsbD_doubleShiftBits, hw, if_neg (by omega), if_pos (by omega), Nat.sub_right_comm]

end

/-- A double shift with a step left writes its operand and the flags. -/
theorem doubleShiftExec_wrote (bits : ∀ {n : Nat}, BitVec n → BitVec n → Nat → BitVec n × Bool)
    (f : DoubleShiftForm) (s : State) {v : BitVec s.opw.bits} {cf : Bool} :
    let x := s.doubleShiftArgs f
    let c := x.2.2.toNat % 32
    let a := s.readRM s.opw x.1
    c ≠ 0 → bits a (s.readReg s.opw x.2.1) c = (v, cf) → ∃ t, doubleShiftExec bits f s = .next t ∧
      Wrote s t s.opw x.1 v { s.flags.setSZP v with
        CF := cf, OF := if c = 1 then v.msb != a.msb else s.flags.OF } := by
  intro x c a hc hv
  obtain rfl : (bits a (s.readReg s.opw x.2.1) c).1 = v := congrArg Prod.fst hv
  obtain rfl : (bits a (s.readReg s.opw x.2.1) c).2 = cf := congrArg Prod.snd hv
  rw [doubleShiftExec, if_neg hc]
  exact finishRM_wrote s s.opw x.1 _

/-- Settles O25: within and beyond the width, the bits selected from `a ++ b ++ a` are two shifted parts. -/
theorem doubleShifts : Obligations.DoubleShifts := by
  refine ⟨fun s rm r imm => ⟨rfl, rfl⟩, fun f s => ?_⟩
  intro w n dst a b c flags
  have hc : c < 32 := Nat.mod_lt _ (by decide)
  have hn : 32 ≤ 2 * n := by
    have h (z : Size) : 32 ≤ 2 * z.bits := by cases z <;> decide
    exact h s.opsz
  refine ⟨fun h => ⟨if_pos h, if_pos h⟩, fun h0 h => ⟨?_, ?_⟩, fun h => ⟨?_, ?_⟩⟩
  · exact doubleShiftExec_wrote shldBits f s h0 (shldBits_of_le a b h)
  · exact doubleShiftExec_wrote shrdBits f s h0 (shrdBits_of_le a b h0 h)
  · exact doubleShiftExec_wrote shldBits f s (by omega) (shldBits_of_lt a b h (by omega))
  · exact doubleShiftExec_wrote shrdBits f s (by omega) (shrdBits_of_lt a b h (by omega))

end Sys2Proof.Machine
end

section
/-! The closed forms of the iterated group-2 steps. -/

namespace Sys2Proof.Machine

/-! ### Rotations by one place and by several -/

section
variable {n : Nat}

theorem getLsbD_lowBit (hn : 0 < n) (b : Bool) (i : Nat) : (lowBit n b).getLsbD i = (decide (i = 0) && b) := by
  simp only [lowBit, BitVec.getLsbD_setWidth, BitVec.getLsbD_ofBool]
  grind

theorem getLsbD_topBit (hn : 0 < n) (b : Bool) (i : Nat) :
    (topBit n b).getLsbD i = (decide (i = n - 1) && b) := by
  simp only [topBit, BitVec.getLsbD_shiftLeft, BitVec.getLsbD_setWidth, BitVec.getLsbD_ofBool]
  grind

theorem msb_topBit (hn : 0 < n) (b : Bool) : (topBit n b).msb = b := by
  rw [BitVec.msb_eq_getLsbD_last, getLsbD_topBit hn, decide_eq_true rfl, Bool.true_and]

theorem rotateLeft_one (hn : 1 < n) (v : BitVec n) : v.rotateLeft 1 = v <<< 1 ||| lowBit n v.msb := by
  apply BitVec.eq_of_getLsbD_eq
  intro i hi
  rw [BitVec.getLsbD_rotateLeft_of_le hn, BitVec.getLsbD_or, getLsbD_lowBit (by omega),
    BitVec.msb_eq_getLsbD_last, BitVec.getLsbD_shiftLeft]
  grind

theorem rotateRight_one (hn : 1 < n) (v : BitVec n) :
    v.rotateRight 1 = v >>> 1 ||| topBit n (v.getLsbD 0) := by
  apply BitVec.eq_of_getLsbD_eq
  intro i hi
  rw [BitVec.getLsbD_rotateRight_of_lt hn, BitVec.getLsbD_or, getLsbD_topBit (by omega),
    BitVec.getLsbD_ushiftRight]
  grind

theorem rotateLeft_zero (v : BitVec n) : v.rotateLeft 0 = v := by
  simp [BitVec.rotateLeft_def, BitVec.ushiftRight_eq_zero]

theorem rotateRight_zero (v : BitVec n) : v.rotateRight 0 = v := by
  simp [BitVec.rotateRight_def]

theorem rotateLeft_rotateLeft (v : BitVec n) (c d : Nat) :
    (v.rotateLeft c).rotateLeft d = v.rotateLeft (c + d) := by
  apply BitVec.eq_of_getMsbD_eq
  intro i hi
  have hd : (d + i) % n < n := Nat.mod_lt _ (by omega)
  simp only [BitVec.getMsbD_rotateLeft, hi, hd, decide_true, Bool.true_and, Nat.add_mod_mod, Nat.add_assoc]

theorem getLsbD_rotateRight_eq (v : BitVec n) (c : Nat) {i : Nat} (hi : i < n) :
    (v.rotateRight c).getLsbD i = v.getLsbD ((c + i) % n) := by
  have hr : c % n < n := Nat.mod_lt c (Nat.zero_lt_of_lt hi)
  rw [BitVec.getLsbD_rotateRight, ← Nat.mod_add_mod c n i]
  generalize c % n = r at hr
  rcases Nat.lt_or_ge (r + i) n with h | h
  · rw [Nat.mod_eq_of_lt h, decide_eq_true (by omega : i < n - r)]
    rfl
  · rw [Nat.mod_eq_sub_mod h, Nat.mod_eq_of_lt (by omega), decide_eq_false (by omega : ¬ i < n - r)]
    simp [hi, show i - (n - r) = r + i - n by omega]

theorem rotateRight_rotateRight (v : BitVec n) (c d : Nat) :
    (v.rotateRight c).rotateRight d = v.rotateRight (c + d) := by
  apply BitVec.eq_of_getLsbD_eq
  intro i hi
  have hd : (d + i) % n < n := Nat.mod_lt _ (by omega)
  rw [getLsbD_rotateRight_eq _ d hi, getLsbD_rotateRight_eq _ c hd, getLsbD_rotateRight_eq _ _ hi,
    Nat.add_mod_mod, Nat.add_assoc]

theorem sshiftRight_one (hn : 1 < n) (v : BitVec n) : v.sshiftRight 1 = v >>> 1 ||| topBit n v.msb := by
  apply BitVec.eq_of_getLsbD_eq
  intro i hi
  rw [BitVec.getLsbD_sshiftRight, BitVec.getLsbD_or, getLsbD_topBit (by omega), BitVec.getLsbD_ushiftRight]
  grind

end

/-! ### The steps, iterated -/

/-- OF after one step says whether the sign changed (R233). -/
theorem overflow_step {n : Nat} (hn : 1 < n) (k : ShiftKind) (x : BitVec n × Bool) :
    k.overflow x.1 (k.step x).1 (k.step x).2 = ((k.step x).1.msb != x.1.msb) := by
  obtain ⟨v, cf⟩ := x
  have below (b : Bool) : (v >>> 1 ||| topBit n b).getLsbD (n - 2) = v.msb := by
    rw [BitVec.getLsbD_or, getLsbD_topBit (by omega), BitVec.getLsbD_ushiftRight,
      BitVec.msb_eq_getLsbD_last, decide_eq_false (by omega), show 1 + (n - 2) = n - 1 by omega]
    simp
  cases k with
  | rol | rcl | shl => rfl
  | ror => exact congrArg (_ ^^ ·) (below (v.getLsbD 0))
  | rcr => exact congrArg (_ ^^ ·) (below cf)
  | shr => simp [ShiftKind.overflow, ShiftKind.step]
  | sar => simp [ShiftKind.overflow, ShiftKind.step, msb_topBit (Nat.zero_lt_of_lt hn)]

/-- The outcome of at least one step, by the value and the carry the iterated steps reach. -/
theorem out_eq_of_iterate {n : Nat} (hn : 1 < n) {k : ShiftKind} {f : Flags} {a r : BitVec n} {c : Nat}
    {cf : Bool} (h : k.step^[c] (a, f.CF) = (r, cf)) :
    k.out f a c = (r, { k.resultFlags f r with
      CF := cf
      OF := if c = 1 then r.msb != a.msb else f.OF }) := by
  have hof : c = 1 → k.overflow a r cf = (r.msb != a.msb) := by
    rintro rfl
    have ho := overflow_step hn k (a, f.CF)
    rwa [show k.step (a, f.CF) = (r, cf) from h] at ho
  rw [ShiftKind.out, h, ← ite_congr rfl hof fun _ => rfl]

/-- The values and carries of steps that do not read the carry. -/
theorem iterate_step {n : Nat} {k : ShiftKind} {a : BitVec n} {value : Nat → BitVec n} {carry : Nat → Bool}
    (h0 : value 0 = a) (hs : ∀ c cf, k.step (value c, cf) = (value (c + 1), carry (c + 1))) (cf : Bool)
    {c : Nat} (hc : 1 ≤ c) : k.step^[c] (a, cf) = (value c, carry c) := by
  subst h0
  induction c, hc using Nat.le_induction with
  | base => exact hs 0 cf
  | succ c _ ih => rw [Function.iterate_succ_apply', ih, hs]

/-- The word RCL and RCR rotate: CF above the value (R383, R384). -/
def carryWord {n : Nat} (x : BitVec n × Bool) : BitVec (1 + n) := BitVec.ofBool x.2 ++ x.1

theorem of_carryWord {n : Nat} (x : BitVec n × Bool) :
    ((carryWord x).extractLsb' 0 n, (carryWord x).msb) = x := by
  refine Prod.ext (BitVec.eq_of_getLsbD_eq fun i hi => ?_) ?_
  · simp [carryWord, BitVec.getLsbD_append, hi]
  · simp [carryWord, BitVec.msb_append]

theorem getLsbD_carryWord {n : Nat} (x : BitVec n × Bool) (i : Nat) :
    (carryWord x).getLsbD i = if i < n then x.1.getLsbD i else decide (i = n) && x.2 := by
  rw [carryWord, BitVec.getLsbD_append, BitVec.getLsbD_ofBool]
  split
  · rfl
  · rw [decide_eq_decide.2 (by omega : i - n = 0 ↔ i = n)]

section
variable {n : Nat} (hn : 1 < n)
include hn

theorem carryWord_rcl (x : BitVec n × Bool) :
    carryWord (ShiftKind.rcl.step x) = (carryWord x).rotateLeft 1 := by
  apply BitVec.eq_of_getLsbD_eq
  intro i hi
  rw [rotateLeft_one (by omega), BitVec.getLsbD_or, getLsbD_lowBit (by omega), BitVec.getLsbD_shiftLeft,
    getLsbD_carryWord, getLsbD_carryWord, BitVec.msb_eq_getLsbD_last, getLsbD_carryWord]
  simp only [ShiftKind.step, BitVec.getLsbD_or, getLsbD_lowBit (by omega : 0 < n), BitVec.getLsbD_shiftLeft,
    BitVec.msb_eq_getLsbD_last]
  grind

theorem carryWord_rcr (x : BitVec n × Bool) :
    carryWord (ShiftKind.rcr.step x) = (carryWord x).rotateRight 1 := by
  apply BitVec.eq_of_getLsbD_eq
  intro i hi
  rw [rotateRight_one (by omega), BitVec.getLsbD_or, getLsbD_topBit (by omega), BitVec.getLsbD_ushiftRight,
    getLsbD_carryWord, getLsbD_carryWord, getLsbD_carryWord]
  simp only [ShiftKind.step, BitVec.getLsbD_or, getLsbD_topBit (by omega : 0 < n), BitVec.getLsbD_ushiftRight]
  grind

theorem iterate_rcl (c : Nat) (x : BitVec n × Bool) : ShiftKind.rcl.step^[c] x =
    (((carryWord x).rotateLeft c).extractLsb' 0 n, ((carryWord x).rotateLeft c).msb) := by
  have h : carryWord (ShiftKind.rcl.step^[c] x) = (carryWord x).rotateLeft c := by
    induction c with
    | zero => exact (rotateLeft_zero _).symm
    | succ c ih => rw [Function.iterate_succ_apply', carryWord_rcl hn, ih, rotateLeft_rotateLeft]
  rw [← h, of_carryWord]

theorem iterate_rcr (c : Nat) (x : BitVec n × Bool) : ShiftKind.rcr.step^[c] x =
    (((carryWord x).rotateRight c).extractLsb' 0 n, ((carryWord x).rotateRight c).msb) := by
  have h : carryWord (ShiftKind.rcr.step^[c] x) = (carryWord x).rotateRight c := by
    induction c with
    | zero => exact (rotateRight_zero _).symm
    | succ c ih => rw [Function.iterate_succ_apply', carryWord_rcr hn, ih, rotateRight_rotateRight]
  rw [← h, of_carryWord]

end

section
variable {n : Nat} (hn : 1 < n) (a : BitVec n) (cf : Bool) {c : Nat} (hc : 1 ≤ c)
include hn hc

theorem iterate_rol :
    ShiftKind.rol.step^[c] (a, cf) = (a.rotateLeft c, (a.rotateLeft c).getLsbD 0) := by
  refine iterate_step (value := a.rotateLeft) (carry := fun c => (a.rotateLeft c).getLsbD 0)
    (rotateLeft_zero a) (fun c cf => ?_) cf hc
  rw [← rotateLeft_rotateLeft, rotateLeft_one hn]
  simp [ShiftKind.step, getLsbD_lowBit (Nat.zero_lt_of_lt hn)]

theorem iterate_ror :
    ShiftKind.ror.step^[c] (a, cf) = (a.rotateRight c, (a.rotateRight c).msb) := by
  refine iterate_step (value := a.rotateRight) (carry := fun c => (a.rotateRight c).msb)
    (rotateRight_zero a) (fun c cf => ?_) cf hc
  rw [← rotateRight_rotateRight, rotateRight_one hn]
  simp [ShiftKind.step, msb_topBit (Nat.zero_lt_of_lt hn)]

theorem iterate_shl :
    ShiftKind.shl.step^[c] (a, cf) = (a <<< c, decide (c ≤ n) && a.getLsbD (n - c)) := by
  refine iterate_step (value := (a <<< ·)) (carry := fun c => decide (c ≤ n) && a.getLsbD (n - c))
    (BitVec.shiftLeft_zero a) (fun c cf => ?_) cf hc
  have hmsb : (a <<< c).msb = (decide (c + 1 ≤ n) && a.getLsbD (n - (c + 1))) := by
    rw [BitVec.msb_eq_getLsbD_last, BitVec.getLsbD_shiftLeft]
    grind
  rw [BitVec.shiftLeft_add, ← hmsb]
  rfl

omit hn in
theorem iterate_shr : ShiftKind.shr.step^[c] (a, cf) = (a >>> c, a.getLsbD (c - 1)) := by
  refine iterate_step (value := (a >>> ·)) (carry := fun c => a.getLsbD (c - 1))
    (BitVec.ushiftRight_zero a) (fun c cf => ?_) cf hc
  simp [ShiftKind.step, BitVec.shiftRight_add]

theorem iterate_sar : ShiftKind.sar.step^[c] (a, cf) =
    (a.sshiftRight c, if c < n then a.getLsbD (c - 1) else a.msb) := by
  refine iterate_step (value := a.sshiftRight) (carry := fun c => if c < n then a.getLsbD (c - 1) else a.msb)
    (BitVec.sshiftRight_zero (x := a)) (fun c cf => ?_) cf hc
  have hbit : (a.sshiftRight c).getLsbD 0 = if c + 1 < n then a.getLsbD (c + 1 - 1) else a.msb := by
    rw [BitVec.getLsbD_sshiftRight, BitVec.msb_eq_getLsbD_last]
    grind
  rw [BitVec.sshiftRight_add, sshiftRight_one hn, ← hbit]
  rfl

end

/-- Settles O23: the iterated steps are rotations and shifts by the count, RCL and RCR rotating CF with the
value. -/
theorem shiftClosedForms : Obligations.ShiftClosedForms := by
  intro w f a c hc n ofAt
  have hn : 1 < w.bits := Nat.lt_of_le_of_lt (by decide) (four_lt_bits w)
  exact ⟨out_eq_of_iterate hn (iterate_rol hn a f.CF hc), out_eq_of_iterate hn (iterate_ror hn a f.CF hc),
    out_eq_of_iterate hn (iterate_rcl hn c (a, f.CF)), out_eq_of_iterate hn (iterate_rcr hn c (a, f.CF)),
    out_eq_of_iterate hn (iterate_shl hn a f.CF hc), out_eq_of_iterate hn (iterate_shr a f.CF hc),
    out_eq_of_iterate hn (iterate_sar hn a f.CF hc)⟩

end Sys2Proof.Machine
end

section
/-! Register loads: LEA, the extensions, the sign conversions and XLAT write one register (R283, R289 to
R293). -/

namespace Sys2Proof.Machine

/-! ### The instructions as register writes -/

theorem exec_cbw_s16 {s : State} (h : s.opsz = .s16) :
    exec .cbw s = done (s.writeReg .w16 .eax ((s.readReg .w8 .eax).signExtend 16)) := by
  show execCbw s = _
  rw [execCbw, h]

theorem exec_cbw_s32 {s : State} (h : s.opsz = .s32) :
    exec .cbw s = done (s.writeReg .w32 .eax ((s.readReg .w16 .eax).signExtend 32)) := by
  show execCbw s = _
  rw [execCbw, h]

/-- CWD and CDQ fill the register with the sign of the accumulator (R292). -/
theorem exec_cwd (s : State) : exec .cwd s = done (s.writeReg s.opw .edx
    (if (s.readReg s.opw .eax).toInt < 0 then BitVec.allOnes s.opw.bits else 0)) := by
  show execCwd s = _
  simp only [execCwd, BitVec.msb_eq_toInt, decide_eq_true_eq]

/-- The offset of XLAT's byte is the sum of BX or EBX and AL, modulo the address size (R293). -/
theorem xlatOffset_eq (s : State) : s.xlatOffset = BitVec.ofNat 32
    (((s.readReg s.adsz.width .ebx).toNat + (s.readReg .w8 .eax).toNat) % 2 ^ s.adsz.bits) := by
  have sum16 (b : BitVec 16) (a : BitVec 8) : (b + a.setWidth 16).setWidth 32 =
      BitVec.ofNat 32 ((b.toNat + a.toNat) % 2 ^ 16) := by bv_omega
  have sum32 (b : BitVec 32) (a : BitVec 8) : b + a.setWidth 32 =
      BitVec.ofNat 32 ((b.toNat + a.toNat) % 2 ^ 32) := by bv_omega
  unfold State.xlatOffset
  split <;> rename_i hz <;> rw [hz]
  · exact sum16 _ _
  · exact sum32 _ _

theorem exec_xlat (s : State) : exec .xlat s = done (s.writeReg .w8 .eax (s.memRead .w8
    (s.lin (s.pfx.seg.getD .ds) (BitVec.ofNat 32
      (((s.readReg s.adsz.width .ebx).toNat + (s.readReg .w8 .eax).toNat) % 2 ^ s.adsz.bits))))) := by
  rw [← xlatOffset_eq]
  rfl

/-- Settles O33: each instruction is one register write, and a register write changes its view only. -/
theorem registerLoads : Obligations.RegisterLoads := by
  intro s w put
  have loads {i : Instr} {w : Width} {r : Reg} {v : BitVec w.bits}
      (h : exec i s = done (s.writeReg w r v)) : put i w r v :=
    ⟨_, h, wrote_writeReg s w r v s.flags⟩
  have movzx {i : Instr} {r : Reg} {n : Nat} {v : BitVec n}
      (h : exec i s = done (s.writeReg w r (v.setWidth w.bits))) :
      put i w r (BitVec.ofNat w.bits v.toNat) := by
    rw [BitVec.ofNat_toNat]
    exact loads h
  exact ⟨rfl, fun _ _ => loads rfl, fun _ _ => movzx rfl, fun _ _ => movzx rfl, fun _ _ => loads rfl,
    fun _ _ => loads rfl, fun h => loads (exec_cbw_s16 h), fun h => loads (exec_cbw_s32 h),
    loads (exec_cwd s), loads (exec_xlat s)⟩

end Sys2Proof.Machine
end

section
/-! PUSHA and POPA: eight words pushed and popped in order, and the round trip (R277, R278). -/

namespace Sys2Proof.Machine

/-! ### What the rest of the state determines -/

theorem SameRest.ssB {s t : State} (h : SameRest s t) : t.ssB = s.ssB := by
  obtain ⟨⟨-, -, hssB⟩, -⟩ := h
  exact hssB

theorem SameRest.opsz {s t : State} (h : SameRest s t) : t.opsz = s.opsz := by
  obtain ⟨⟨-, hcsD, -⟩, -, -, -, hpfx, -⟩ := h
  exact opsz_congr hcsD hpfx

theorem SameRest.nextEip {s t : State} (h : SameRest s t) : t.nextEip = s.nextEip := by
  obtain ⟨-, -, -, -, -, hnext, -⟩ := h
  exact hnext

/-! ### The end of an instruction

The equations of `retire` are stated of any state, so that no proof compares two long chains of pushes or
pops field by field. -/

theorem eip_retire (s : State) : s.retire.eip = s.nextEip := rfl

theorem readReg_retire (s : State) (w : Width) (r : Reg) : s.retire.readReg w r = s.readReg w r := rfl

theorem stackPtr_retire (s : State) : s.retire.stackPtr = s.stackPtr := rfl

theorem memRead_slot_retire (s : State) (z : Size) (i : Nat) :
    s.retire.memRead z.width (s.retire.slot z i) = s.memRead z.width (s.slot z i) := rfl

theorem SameRest.retire {s t : State} (h : SameRest s t) : SameRest s t.retire := h

theorem PushedSpace.retire {s t : State} {z : Size} {n : Nat} (h : PushedSpace s t z n) :
    PushedSpace s t.retire z n := h

/-! ### PUSHA (R277) -/

/-- The words after the newest pushed one are the old words, each one slot further. -/
theorem memRead_push_slot_succ (s : State) (z : Size) (v : BitVec z.bits) {i : Nat} (hi : i < 64) :
    (s.push z v).memRead z.width ((s.push z v).slot z (i + 1)) = s.memRead z.width (s.slot z i) := by
  rw [slot_push_succ, memRead_push_slot s z v hi]

/-- The eight pushes of PUSHA. -/
def State.pushAll (s : State) (z : Size) : State :=
  (((((((s.push z (s.readReg z.width .eax)).push z (s.readReg z.width .ecx)).push z
    (s.readReg z.width .edx)).push z (s.readReg z.width .ebx)).push z (s.readReg z.width .esp)).push z
    (s.readReg z.width .ebp)).push z (s.readReg z.width .esi)).push z (s.readReg z.width .edi)

@[simp] theorem pushAll_flags (s : State) (z : Size) : (s.pushAll z).flags = s.flags := by
  simp [State.pushAll]

theorem exec_pusha (s : State) : exec .pusha s = .next (s.pushAll s.opsz).retire := rfl

theorem pushedSpace_pushAll (s : State) (z : Size) : PushedSpace s (s.pushAll z) z 8 :=
  ((((((((pushedSpace_zero s s z rfl rfl rfl).push rfl _).push rfl _).push rfl _).push rfl _).push
    rfl _).push rfl _).push rfl _).push rfl _

theorem sameRest_pushAll (s : State) (z : Size) : SameRest s (s.pushAll z) := by
  simp [SameRest, SameSegs, SameSystem, State.pushAll]

/-- Which word above the stack pointer holds a register after PUSHA, and goes back to it in POPA. -/
def wordOf : Reg → Nat
  | .eax => 7
  | .ecx => 6
  | .edx => 5
  | .ebx => 4
  | .esp => 3
  | .ebp => 2
  | .esi => 1
  | .edi => 0

theorem memRead_pushAll (s : State) (z : Size) (r : Reg) :
    (s.pushAll z).memRead z.width ((s.pushAll z).slot z (wordOf r)) = s.readReg z.width r := by
  cases r <;> simp [State.pushAll, wordOf, memRead_push_slot_succ]

/-! ### One popped register -/

theorem readReg_popReg_self (s : State) (z : Size) (r : Reg) :
    (s.popReg z r).readReg z.width r = s.memRead z.width (s.slot z 0) := by
  rw [State.popReg, readReg_writeReg, popValue_eq]

theorem readReg_popReg_of_ne (s : State) (z : Size) {r q : Reg} (hr : q ≠ r) (hsp : q ≠ .esp) :
    (s.popReg z r).readReg z.width q = s.readReg z.width q := by
  rw [State.popReg, readReg_writeReg_of_ne _ z z _ hr, readReg_popped s z z hsp]

theorem memRead_popped (s : State) (z : Size) (w : Width) (a : BitVec 32) :
    (s.popped z).memRead w a = s.memRead w a := memRead_congr (State.popped_mem s z) w a

theorem memRead_popReg (s : State) (z : Size) (r : Reg) (w : Width) (a : BitVec 32) :
    (s.popReg z r).memRead w a = s.memRead w a := memRead_congr (State.popReg_mem s z r) w a

theorem stackPtr_popReg (s : State) (z : Size) {r : Reg} (h : r ≠ .esp) :
    (s.popReg z r).stackPtr = s.spUp z.bytes :=
  (readIndex_writeReg_of_ne _ s.stksz z _ h.symm).trans (stackPtr_popped s z)

theorem spUp_popped (s : State) (z : Size) (n : Nat) : (s.popped z).spUp n = s.spUp (z.bytes + n) :=
  spUp_of_up (State.popped_ssB s z) n (stackPtr_popped s z)

theorem spUp_popReg (s : State) (z : Size) {r : Reg} (h : r ≠ .esp) (n : Nat) :
    (s.popReg z r).spUp n = s.spUp (z.bytes + n) :=
  spUp_of_up (State.popReg_ssB s z r) n (stackPtr_popReg s z h)

theorem slot_popReg (s : State) (z : Size) {r : Reg} (h : r ≠ .esp) (i : Nat) :
    (s.popReg z r).slot z i = s.slot z (i + 1) := by
  simp only [State.slot, lin_congr (State.popReg_seg s z r), spUp_popReg s z h, Nat.succ_mul,
    Nat.add_comm]

/-! ### What lies above the popped views -/

theorem inView_size_iff (z : Size) (r q : Reg) (k : Nat) :
    InView z.width r q k ↔ q = r ∧ k < z.bits := by
  simp [InView]

/-- Only the low `z` bits of the registers may differ, and of ESP the low bits of the stack size `y`. -/
def HighKept (y z : Size) (s t : State) : Prop :=
  (∀ k, y.bits ≤ k → t.gpr.esp.getLsbD k = s.gpr.esp.getLsbD k) ∧
    ∀ q k, z.bits ≤ k → q ≠ .esp → (t.gpr.get q).getLsbD k = (s.gpr.get q).getLsbD k

theorem HighKept.trans {y z : Size} {s t u : State} (h1 : HighKept y z s t) (h2 : HighKept y z t u) :
    HighKept y z s u := by
  obtain ⟨esp1, regs1⟩ := h1
  obtain ⟨esp2, regs2⟩ := h2
  exact ⟨fun k hk => (esp2 k hk).trans (esp1 k hk),
    fun q k hk hq => (regs2 q k hk hq).trans (regs1 q k hk hq)⟩

theorem HighKept.retire {y z : Size} {s t : State} (h : HighKept y z s t) : HighKept y z s t.retire := h

theorem highKept_of_onlyView_esp {y : Size} (z : Size) {s t : State} (h : OnlyView y.width .esp s t) :
    HighKept y z s t :=
  ⟨fun k hk => h .esp k fun hv => Nat.not_lt.2 hk ((inView_size_iff ..).1 hv).2,
    fun q k _ hq => h q k fun hv => hq ((inView_size_iff ..).1 hv).1⟩

theorem highKept_of_onlyView (y : Size) {z : Size} {r : Reg} {s t : State}
    (h : OnlyView z.width r s t) (hr : r ≠ .esp) : HighKept y z s t :=
  ⟨fun k _ => h .esp k fun hv => hr ((inView_size_iff ..).1 hv).1.symm,
    fun q k hk _ => h q k fun hv => Nat.not_lt.2 hk ((inView_size_iff ..).1 hv).2⟩

theorem highKept_popReg (s : State) (z : Size) {r : Reg} (h : r ≠ .esp) :
    HighKept s.stksz z s (s.popReg z r) :=
  (highKept_of_onlyView_esp z (onlyView_popped s z)).trans
    (highKept_of_onlyView _ (onlyView_writeReg (s.popped z) z.width r _) h)

/-- A register is its low view and the bits above it. -/
theorem get_eq_of_readReg_eq {s t : State} {z : Size} {q : Reg}
    (hlow : t.readReg z.width q = s.readReg z.width q)
    (hhigh : ∀ k, z.bits ≤ k → (t.gpr.get q).getLsbD k = (s.gpr.get q).getLsbD k) :
    t.gpr.get q = s.gpr.get q := by
  have bit (u : State) {k : Nat} (hk : k < z.bits) :
      (u.readReg z.width q).getLsbD k = (u.gpr.get q).getLsbD k := by
    simp [State.readReg, getLsbD_viewOf _ _ _ _ hk]
  apply BitVec.eq_of_getLsbD_eq
  intro k _
  rcases Nat.lt_or_ge k z.bits with hk | hk
  · rw [← bit t hk, hlow, bit s hk]
  · exact hhigh k hk

/-- The stack pointer determines the view it is kept in. -/
theorem readReg_esp_eq (s : State) :
    s.readReg s.stksz.width .esp = s.stackPtr.setWidth s.stksz.bits := by
  unfold State.stackPtr State.readIndex
  rw [BitVec.setWidth_setWidth_of_le, BitVec.setWidth_eq]
  cases s.stksz <;> decide

/-! ### POPA (R278) -/

/-- The eight pops of POPA, the fourth of them discarded. -/
def State.popAll (s : State) (z : Size) : State :=
  (((((((s.popReg z .edi).popReg z .esi).popReg z .ebp).popped z).popReg z .ebx).popReg z .edx).popReg z
    .ecx).popReg z .eax

@[simp] theorem popAll_mem (s : State) (z : Size) : (s.popAll z).mem = s.mem := by simp [State.popAll]

@[simp] theorem popAll_flags (s : State) (z : Size) : (s.popAll z).flags = s.flags := by
  simp [State.popAll]

theorem exec_popa {s : State} {z : Size} (h : s.opsz = z) :
    exec .popa s = .next (s.popAll z).retire := h ▸ rfl

theorem sameRest_popAll (s : State) (z : Size) : SameRest s (s.popAll z) := by
  simp [SameRest, SameSegs, SameSystem, State.popAll]

theorem readReg_popAll (s : State) (z : Size) {r : Reg} (h : r ≠ .esp) :
    (s.popAll z).readReg z.width r = s.memRead z.width (s.slot z (wordOf r)) := by
  cases r
  case esp => exact absurd rfl h
  all_goals
    simp [State.popAll, wordOf, readReg_popReg_self, readReg_popReg_of_ne, readReg_popped, slot_popReg,
      slot_popped, memRead_popReg, memRead_popped]

theorem stackPtr_popAll (s : State) (z : Size) : (s.popAll z).stackPtr = s.spUp (8 * z.bytes) := by
  rw [← spUp_zero]
  unfold State.popAll
  simp only [spUp_popReg, spUp_popped, ne_eq, reduceCtorEq, not_false_eq_true]
  congr 1
  omega

theorem highKept_popAll (s : State) (z : Size) : HighKept s.stksz z s (s.popAll z) := by
  have pop {u : State} (h : HighKept s.stksz z s u) (hu : u.ssB = s.ssB) {r : Reg} (hr : r ≠ .esp) :
      HighKept s.stksz z s (u.popReg z r) :=
    h.trans (stksz_congr hu ▸ highKept_popReg u z hr)
  have skip {u : State} (h : HighKept s.stksz z s u) (hu : u.ssB = s.ssB) :
      HighKept s.stksz z s (u.popped z) :=
    h.trans (highKept_of_onlyView_esp z (stksz_congr hu ▸ onlyView_popped u z))
  have hedi : HighKept s.stksz z s (s.popReg z .edi) := highKept_popReg s z (by decide)
  have hebp := pop (pop hedi rfl (r := .esi) (by decide)) rfl (r := .ebp) (by decide)
  have hedx := pop (pop (skip hebp rfl) rfl (r := .ebx) (by decide)) rfl (r := .edx) (by decide)
  exact pop (pop hedx rfl (by decide)) rfl (by decide)

/-! ### POPA after PUSHA -/

/-- POPA on the eight words of PUSHA gives the registers back: each reads its own word, and the stack
pointer moves back to where it was. -/
theorem gpr_popAll_of_pushed {s t : State} {z : Size} (hrest : SameRest s t) (hspace : PushedSpace s t z 8)
    (hwords : ∀ r, t.memRead z.width (t.slot z (wordOf r)) = s.readReg z.width r) :
    (t.popAll z).gpr = s.gpr := by
  obtain ⟨hptr, hview, -⟩ := hspace
  have hsize : (t.popAll z).stksz = s.stksz :=
    stksz_congr ((sameRest_popAll t z).ssB.trans hrest.ssB)
  have hback : (t.popAll z).stackPtr = s.stackPtr := by
    rw [stackPtr_popAll, spUp_of_down hrest.ssB hptr le_rfl, Nat.sub_self, spUp_zero]
  obtain ⟨hesp, hregs⟩ := (highKept_of_onlyView_esp z hview).trans
    (stksz_congr hrest.ssB ▸ highKept_popAll t z)
  refine Gpr.ext_get fun r => ?_
  by_cases hr : r = .esp
  · subst hr
    have hlow := readReg_esp_eq (t.popAll z)
    rw [hsize, hback, ← readReg_esp_eq] at hlow
    exact get_eq_of_readReg_eq hlow hesp
  · refine get_eq_of_readReg_eq ?_ fun k hk => hregs r k hk hr
    rw [readReg_popAll t z hr, hwords]

/-- Settles O36: the pushed words are where POPA reads them. -/
theorem pushAllPopAll : Obligations.PushAllPopAll := by
  intro s z w
  constructor
  · have hspace : PushedSpace s (s.pushAll z).retire z 8 := (pushedSpace_pushAll s z).retire
    have hrest : SameRest s (s.pushAll z).retire := (sameRest_pushAll s z).retire
    have words (r : Reg) : (s.pushAll z).retire.memRead w ((s.pushAll z).retire.slot z (wordOf r)) =
        s.readReg w r :=
      (memRead_slot_retire _ z _).trans (memRead_pushAll s z r)
    have hgpr : ((s.pushAll z).retire.popAll z).gpr = s.gpr :=
      gpr_popAll_of_pushed hrest hspace words
    exact ⟨_, exec_pusha s, (eip_retire _).trans (sameRest_pushAll s z).nextEip,
      (State.retire_flags _).trans (pushAll_flags s z), hrest, hspace, words .eax, words .ecx,
      words .edx, words .ebx, words .esp, words .ebp, words .esi, words .edi, _,
      exec_popa hrest.opsz, (State.retire_gpr _).trans hgpr,
      (State.retire_mem _).trans (popAll_mem _ z)⟩
  · obtain ⟨hesp, hregs⟩ := (highKept_popAll s z).retire
    have reads {r : Reg} (hr : r ≠ .esp) :
        (s.popAll z).retire.readReg w r = s.memRead w (s.slot z (wordOf r)) :=
      (readReg_retire _ w r).trans (readReg_popAll s z hr)
    exact ⟨_, exec_popa rfl, (eip_retire _).trans (sameRest_popAll s z).nextEip,
      (State.retire_flags _).trans (popAll_flags s z), (sameRest_popAll s z).retire,
      (State.retire_mem _).trans (popAll_mem s z), (stackPtr_retire _).trans (stackPtr_popAll s z), hesp,
      hregs, reads (by decide), reads (by decide), reads (by decide), reads (by decide),
      reads (by decide), reads (by decide), reads (by decide)⟩

end Sys2Proof.Machine
end

section
/-! DIV and IDIV: the quotient and the remainder in the halves of the double-width accumulator, and divide
error. -/

namespace Sys2Proof.Machine

/-! ### The halves of the double-width accumulator (R21, R348) -/

/-- A view reads as written after a write to another view of its width. -/
theorem readReg_writeReg_writeReg (s : State) (w : Width) {q r : Reg} (h : q ≠ r) (a b : BitVec w.bits) :
    ((s.writeReg w q a).writeReg w r b).readReg w q = a :=
  ((onlyView_writeReg _ w r b).readReg_eq h).trans (readReg_writeReg s w q a)

theorem readReg_writeQuotient (s : State) (w : Width) (q r : BitVec w.bits) :
    (s.writeQuotient w q r).readReg w .eax = q ∧
    (s.writeQuotient w q r).readReg w (if w = .w8 then .esp else .edx) = r := by
  cases w <;> exact ⟨readReg_writeReg_writeReg s _ (by decide) q r, readReg_writeReg _ _ _ r⟩

/-- AL and AH are parts of AX. -/
theorem onlyView_ax_of_byte {r : Reg} {s t : State} (hr : home8 r = .eax) (h : OnlyView .w8 r s t) :
    OnlyView .w16 .eax s t := by
  intro q k hq
  refine h q k fun ⟨hhome, _, hhi⟩ => hq ⟨hhome.trans hr, Nat.zero_le k, hhi.trans_le ?_⟩
  cases r <;> decide

theorem onlyWide_writeQuotient (s : State) (w : Width) (q r : BitVec w.bits) :
    OnlyWide w s (s.writeQuotient w q r) := by
  cases w with
  | w8 =>
    exact (onlyView_ax_of_byte rfl (onlyView_writeReg s .w8 .eax q)).trans
      (onlyView_ax_of_byte rfl (onlyView_writeReg _ .w8 .esp r))
  | w16 => exact (onlyView_writeReg s .w16 .eax q).left.trans (onlyView_writeReg _ .w16 .edx r).right
  | w32 => exact (onlyView_writeReg s .w32 .eax q).left.trans (onlyView_writeReg _ .w32 .edx r).right

theorem writeQuotient_flags_self (s : State) (w : Width) (q r : BitVec w.bits) :
    { s.writeQuotient w q r with flags := s.flags } = s.writeQuotient w q r := by
  cases w <;> rfl

/-- An instruction that writes quotient, remainder and flags, and retires, writes nothing else. -/
theorem exec_writeQuotient {i : Instr} {s : State} {w : Width} {q r : BitVec w.bits} {f : Flags}
    (h : exec i s = done { s.writeQuotient w q r with flags := f }) :
    ∃ t, exec i s = .next t ∧ t.eip = s.nextEip ∧ t.readReg w .eax = q ∧
      t.readReg w (if w = .w8 then .esp else .edx) = r ∧ t.flags = f ∧
      OnlyWide w s t ∧ t.mem = s.mem ∧ SameRest s t := by
  obtain ⟨hq, hr⟩ := readReg_writeQuotient s w q r
  have hrest : SameRest s (s.writeQuotient w q r) := by simp [SameRest, SameSegs, SameSystem]
  exact ⟨_, h, s.writeQuotient_nextEip w q r, hq, hr, rfl,
    onlyWide_congr (onlyWide_writeQuotient s w q r) rfl, s.writeQuotient_mem w q r, hrest⟩

/-! ### Raising an exception (R671, R675, R677) -/

/-- Raising an exception is its delivery, which names the vector in the result, or a refusal. -/
theorem raiseVector_spec (v : BitVec 8) (ip : BitVec 32) (s : State) :
    if s.protectedMode then raiseVector v ip s = .refused .protectedInterrupt
    else ∃ t, deliver v ip s = .next t ∧
      raiseVector v ip s = .next { t with result := some (.delivered v) } := by
  rw [raiseVector_eq]
  split
  next hp => rw [deliver_protected hp, thenDo_refused]
  next hp =>
    rw [deliver_real (Bool.eq_false_of_not_eq_true hp)]
    exact ⟨_, rfl, rfl⟩

/-! ### The division identity (R348, R349) -/

/-- The remainder of a truncated division is 0 or has the dividend's sign. -/
theorem tmod_eq_zero_or_neg_iff (n d : ℤ) : n.tmod d = 0 ∨ (n.tmod d < 0 ↔ n < 0) := by
  by_cases hd : d ∣ n
  · exact .inl (Int.tmod_eq_zero_of_dvd hd)
  · have hsign := Int.sign_tmod n d
    rw [if_neg hd] at hsign
    rw [← Int.sign_eq_neg_one_iff_neg, hsign, Int.sign_eq_neg_one_iff_neg]
    exact .inr Iff.rfl

theorem natAbs_tmod_lt (n : ℤ) {d : ℤ} (hd : d ≠ 0) : (n.tmod d).natAbs < d.natAbs := by
  rw [Int.natAbs_tmod]
  exact Nat.mod_lt _ (Int.natAbs_pos.2 hd)

/-- The remainder of a division by a word fits the word. -/
theorem toInt_ofInt_tmod {k : Nat} (hk : 0 < k) (n : ℤ) {d : BitVec k} (hd : d.toInt ≠ 0) :
    (BitVec.ofInt k (n.tmod d.toInt)).toInt = n.tmod d.toInt := by
  have hr := natAbs_tmod_lt n hd
  have hlo := d.le_toInt
  have hhi := d.toInt_lt
  exact BitVec.toInt_ofInt_eq_self hk (by omega) (by omega)

/-- DIV without divide error (R348). -/
theorem exec_div (f : UnaryForm) (s : State) :
    let w := (s.unaryArg f).1
    let n := (s.dividend w).toNat
    let d := (s.readRM w (s.unaryArg f).2).toNat
    d ≠ 0 → n / d < 2 ^ w.bits → exec (.div f) s =
      done { s.writeQuotient w (.ofNat _ (n / d)) (.ofNat _ (n % d)) with flags := s.flags } := by
  intro w n d hd hq
  rw [writeQuotient_flags_self]
  exact if_neg (not_or.2 ⟨hd, not_le.2 hq⟩)

/-- IDIV without divide error (R349). -/
theorem exec_idiv (f : UnaryForm) (s : State) :
    let w := (s.unaryArg f).1
    let n := (s.dividend w).toInt
    let d := (s.readRM w (s.unaryArg f).2).toInt
    d ≠ 0 → -(2 ^ (w.bits - 1)) ≤ n.tdiv d → n.tdiv d < 2 ^ (w.bits - 1) → exec (.idiv f) s =
      done { s.writeQuotient w (.ofInt _ (n.tdiv d)) (.ofInt _ (n.tmod d)) with flags := s.flags } := by
  intro w n d hd hlo hhi
  rw [writeQuotient_flags_self]
  exact if_neg (not_or.2 ⟨hd, not_or.2 ⟨not_lt.2 hlo, not_le.2 hhi⟩⟩)

/-- Settles O20: the tests of DIV and IDIV are those for the identity, and without divide error both results
fit their registers. -/
theorem divide : Obligations.Divide := by
  unfold Obligations.Divide
  intro error
  have raised {i : Instr} {s : State} (h : exec i s = divideError s) : error i s := by
    simp only [error, h]
    exact raiseVector_spec 0 s.eip s
  refine ⟨fun f s => ?_, fun f s => ?_⟩
  · intro w n d
    refine ⟨fun hd hq => ?_, fun h => raised (if_pos h)⟩
    obtain ⟨t, ht, heip, hquot, hrem, hf, hframe⟩ := exec_writeQuotient (exec_div f s hd hq)
    have hr : n % d < d := Nat.mod_lt n (Nat.pos_of_ne_zero hd)
    refine ⟨t, ht, heip, hf, ?_, hframe⟩
    rw [hquot, hrem, BitVec.toNat_ofNat, BitVec.toNat_ofNat, Nat.mod_eq_of_lt hq,
      Nat.mod_eq_of_lt (hr.trans (BitVec.isLt _))]
    exact ⟨(Nat.div_add_mod' n d).symm, hr⟩
  · intro w n d fits
    refine ⟨fun hd ⟨hlo, hhi⟩ => ?_, fun h => raised (if_pos ?_)⟩
    · obtain ⟨t, ht, heip, hquot, hrem, hf, hframe⟩ := exec_writeQuotient (exec_idiv f s hd hlo hhi)
      have hw : 0 < w.bits := Nat.zero_lt_of_lt (four_lt_bits w)
      refine ⟨t, ht, heip, hf, ?_, hframe⟩
      rw [hquot, hrem, toInt_ofInt_tmod hw n hd, BitVec.toInt_ofInt_eq_self hw hlo hhi]
      exact ⟨(Int.tdiv_mul_add_tmod n d).symm, natAbs_tmod_lt n hd, tmod_eq_zero_or_neg_iff n d⟩
    · simpa only [fits, not_and_or, not_le, not_lt] using h

end Sys2Proof.Machine
end

section
/-! The BCD adjusts: AL and AH are the quotient and remainder registers of a byte division. -/

namespace Sys2Proof.Machine

/-! ### Writes of AL and AH (R21) -/

/-- The order in which AL and AH are written does not matter. -/
theorem writeReg_ah_al (s : State) (h l : BitVec 8) :
    (s.writeReg .w8 .esp h).writeReg .w8 .eax l = s.writeQuotient .w8 l h := by
  have comm (x : BitVec 32) : withView .w8 (isHigh8 .eax) (withView .w8 (isHigh8 .esp) x h) l =
      withView .w8 (isHigh8 .esp) (withView .w8 (isHigh8 .eax) x l) h := by
    apply BitVec.eq_of_getLsbD_eq
    intro k _
    simp only [getLsbD_withView]
    split_ifs with hl hh
    · exact absurd hh.1 (Nat.not_le.2 hl.2)
    all_goals rfl
  exact congrArg (fun v => { s with gpr := s.gpr.set .eax v }) (comm s.gpr.eax)

/-- An instruction that writes AL, AH and the flags, and retires, writes nothing else. -/
theorem exec_writeAlAh {i : Instr} {s : State} {l h : BitVec 8} {f : Flags}
    (hi : exec i s = done { s.writeQuotient .w8 l h with flags := f }) :
    ∃ t, exec i s = .next t ∧ t.eip = s.nextEip ∧ t.readReg .w8 .eax = l ∧
      t.readReg .w8 .esp = h ∧ t.flags = f ∧ OnlyView .w16 .eax s t ∧ t.mem = s.mem ∧ SameRest s t :=
  exec_writeQuotient hi

theorem exec_aam {imm : BitVec 8} (h : imm ≠ 0) (s : State) : exec (.aam imm) s =
    done { s.writeQuotient .w8 (s.al % imm) (s.al / imm) with flags := s.flags.setSZP (s.al % imm) } := by
  rw [← writeReg_ah_al]
  exact if_neg h

/-! ### Results as numbers (R352, R353, R355) -/

theorem toNat_and_0x0F (v : BitVec 8) : (v &&& 0x0F).toNat = v.toNat % 16 :=
  Nat.and_two_pow_sub_one_eq_mod v.toNat 4

theorem toNat_lowNibble_add (c : Bool) (v : BitVec 8) :
    ((if c then v + 6 else v) &&& 0x0F).toNat = (v.toNat + if c then 6 else 0) % 16 := by
  rw [toNat_and_0x0F]
  cases c with
  | false => rfl
  | true => exact Nat.mod_mod_of_dvd _ (by decide)

/-- Subtracting 6 from a nibble is adding 10. -/
theorem toNat_lowNibble_sub (c : Bool) (v : BitVec 8) :
    ((if c then v - 6 else v) &&& 0x0F).toNat = (v.toNat + if c then 10 else 0) % 16 := by
  rw [toNat_and_0x0F]
  cases c with
  | false => rfl
  | true =>
    have hsub : (v - 6).toNat = (250 + v.toNat) % 256 := BitVec.toNat_sub v 6
    simp only [if_true, hsub]
    omega

theorem toNat_add_mul (a b c : BitVec 8) : (a + b * c).toNat = (a.toNat + b.toNat * c.toNat) % 256 := by
  rw [BitVec.toNat_add, BitVec.toNat_mul, Nat.add_mod_mod]

/-- Settles O21: DAA and DAS write AL, the other four AL and AH; AAM by 0 raises vector 0. -/
theorem bcdAdjust : Obligations.BcdAdjust := by
  intro s al ah low high lowBorrow
  have hlow : s.nibbleAdjust = low := nibbleAdjust_eq s
  have hhigh : s.byteAdjust = high := byteAdjust_eq s
  refine ⟨?_, ?_, ?_, ?_, fun imm hi => ?_, raiseVector_spec 0 s.eip s, fun imm => ?_⟩
  · have h := exec_daa s
    rwa [State.daaResult, hlow, hhigh] at h
  · have h := exec_das s
    rwa [State.dasResult, hlow, hhigh] at h
  · obtain ⟨t, ht, heip, hal, hah, hf, hframe⟩ := exec_writeAlAh (i := .aaa) (s := s) rfl
    rw [hlow] at hal hah hf
    exact ⟨t, ht, heip, (congrArg _ hal).trans (toNat_lowNibble_add low al), hah, hf, hframe⟩
  · obtain ⟨t, ht, heip, hal, hah, hf, hframe⟩ := exec_writeAlAh (i := .aas) (s := s) rfl
    rw [hlow] at hal hah hf
    exact ⟨t, ht, heip, (congrArg _ hal).trans (toNat_lowNibble_sub low al), hah, hf, hframe⟩
  · obtain ⟨t, ht, heip, hal, hah, hf, hframe⟩ := exec_writeAlAh (exec_aam hi s)
    exact ⟨t, ht, heip, (congrArg _ hal).trans BitVec.toNat_umod,
      (congrArg _ hah).trans BitVec.toNat_udiv, hal ▸ hf, hframe⟩
  · obtain ⟨t, ht, heip, hal, hah, hf, hframe⟩ := exec_writeAlAh (i := .aad imm) (s := s) rfl
    exact ⟨t, ht, heip, (congrArg _ hal).trans (toNat_add_mul al ah imm), hah, hal ▸ hf, hframe⟩

end Sys2Proof.Machine
end

section
/-! The bit tests and the bit scans (R392 to R398). -/

namespace Sys2Proof.Machine

/-! ### The addressed bit (R396) -/

theorem opw_bits_pos (s : State) : 0 < s.opw.bits := Nat.zero_lt_of_lt (four_lt_bits s.opw)

theorem cast_emod_toNat (x : ℤ) {n : Nat} (hn : 0 < n) : ((x % (n : ℤ)).toNat : ℤ) = x % n :=
  Int.toNat_of_nonneg (Int.emod_nonneg x (by omega))

/-- The bit lies in the word, for negative offsets too. -/
theorem bitTarget_snd_lt (s : State) (f : BitForm) : (s.bitTarget f).2 < s.opw.bits := by
  have hpos := opw_bits_pos s
  cases f with
  | rmwIb rm imm => cases rm <;> exact Nat.mod_lt _ hpos
  | rmwRw rm q =>
    cases rm with
    | reg r => exact Nat.mod_lt _ hpos
    | mem m =>
      have hlt := Int.emod_lt_of_pos (s.readReg s.opw q).toInt (Int.natCast_pos.2 hpos)
      rw [← cast_emod_toNat _ hpos] at hlt
      exact Int.ofNat_lt.1 hlt

theorem setWidth_ofInt (n m : Nat) (x : ℤ) :
    (BitVec.ofInt n x).setWidth m = BitVec.ofInt m (x % 2 ^ n) := by
  apply BitVec.eq_of_toInt_eq
  rw [BitVec.toInt_setWidth, BitVec.toInt_ofInt, BitVec.toNat_ofInt, cast_emod_toNat x (by positivity)]
  norm_cast

/-- The offset and the bit are the quotient and the remainder of the signed offset by the width. -/
theorem bitTarget_rmwRw_mem (s : State) (m : MemOp) (q : Reg) :
    ∃ words : ℤ, (s.readReg s.opw q).toInt =
        words * s.opw.bits + (s.bitTarget (.rmwRw (.mem m) q)).2 ∧
      (s.bitTarget (.rmwRw (.mem m) q)).1 = .phys (s.lin (s.memSeg m) (BitVec.ofInt 32
        (((s.memOffset m).toNat + s.opw.bytes * words) % 2 ^ s.adsz.bits))) := by
  refine ⟨(s.readReg s.opw q).toInt / s.opw.bits, ?_, ?_⟩
  · have hbit := cast_emod_toNat (s.readReg s.opw q).toInt (opw_bits_pos s)
    exact (hbit ▸ Int.ediv_mul_add_emod _ _).symm
  · rw [← setWidth_ofInt]
    rfl

/-! ### The bit tests (R392 to R395) -/

/-- A retired instruction that wrote `v` to a place and `f` to the flags, and nothing else. -/
def WrotePlace (s t : State) (w : Width) (p : BitPlace) (v : BitVec w.bits) (f : Flags) : Prop :=
  t.eip = s.nextEip ∧ t.flags = f ∧ SameRest s t ∧
    match p with
    | .reg r => t.readReg w r = v ∧ OnlyView w r s t ∧ t.mem = s.mem
    | .phys a => t.memRead w a = v ∧ t.gpr = s.gpr ∧ SameMemExcept a w.bytes s t

theorem wrotePlace_writePlace (s : State) (w : Width) (p : BitPlace) (v : BitVec w.bits) (b : Bool) :
    WrotePlace s ((s.writePlace w p v).setCF b).retire w p v { s.flags with CF := b } := by
  have hrest : SameRest s ((s.writePlace w p v).setCF b).retire := by
    simp [SameRest, SameSegs, SameSystem]
  refine ⟨s.writePlace_nextEip w p v, congrArg (fun f : Flags => { f with CF := b })
    (s.writePlace_flags w p v), hrest, ?_⟩
  cases p with
  | reg r => exact ⟨readReg_writeReg s w r v, onlyView_writeReg s w r v, rfl⟩
  | phys a => exact ⟨memRead_memWrite s w a v, rfl, sameMemExcept_memWrite s w a v⟩

/-- The bit tests that write put the changed word back at its place, with the old bit in CF. -/
theorem bitModify_wrotePlace (change : ∀ {n : Nat}, BitVec n → BitVec n → BitVec n) (f : BitForm)
    (s : State) :
    let p := (s.bitTarget f).1
    let bit := (s.bitTarget f).2
    ∃ t, bitModify change f s = .next t ∧ WrotePlace s t s.opw p (change (s.readPlace p) (1#_ <<< bit))
      { s.flags with CF := (s.readPlace p).getLsbD bit } :=
  ⟨_, rfl, wrotePlace_writePlace s s.opw _ _ _⟩

/-! ### The bit scans (R397, R398) -/

/-- A search through all bit numbers in the order `R` finds a set bit that no set bit precedes. -/
theorem find?_bit {n : Nat} {R : Nat → Nat → Prop} {l : List Nat} (hl : l.Pairwise R)
    (hmem : ∀ i, i < n → i ∈ l) {v : BitVec n} (hv : v ≠ 0) :
    let i := (l.find? fun i => v.getLsbD i).getD n
    v.getLsbD i = true ∧ ∀ j, v.getLsbD j = true → j = i ∨ R i j := by
  obtain ⟨k, hk, hbit⟩ : ∃ k, k < n ∧ v.getLsbD k = true := by
    by_contra hno
    refine hv (BitVec.eq_of_getLsbD_eq fun k hk => ?_)
    simpa using fun h => hno ⟨k, hk, h⟩
  obtain ⟨i, hi⟩ := Option.isSome_iff_exists.1 (List.find?_isSome.2 ⟨k, hmem k hk, hbit⟩)
  obtain ⟨hset, before, after, rfl, hbefore⟩ := List.find?_eq_some_iff_append.1 hi
  obtain ⟨-, hafter, -⟩ := List.pairwise_append.1 hl
  rw [hi]
  refine ⟨hset, fun j hj => ?_⟩
  obtain h | h := List.mem_append.1 (hmem j (BitVec.lt_of_getLsbD hj))
  · exact absurd hj (by simpa using hbefore j h)
  · exact (List.mem_cons.1 h).imp_right (List.rel_of_pairwise_cons hafter)

theorem lowestBit_spec {n : Nat} {v : BitVec n} (hv : v ≠ 0) :
    v.getLsbD (lowestBit v) = true ∧ ∀ j, j < lowestBit v → v.getLsbD j = false := by
  obtain ⟨hset, hfirst⟩ := find?_bit List.pairwise_lt_range (fun i => List.mem_range.2) hv
  refine ⟨hset, fun j hj => Bool.eq_false_iff.2 fun h => ?_⟩
  obtain h | h := hfirst j h
  · exact hj.ne h
  · exact hj.asymm h

theorem highestBit_spec {n : Nat} {v : BitVec n} (hv : v ≠ 0) :
    v.getLsbD (highestBit v) = true ∧ ∀ j, highestBit v < j → v.getLsbD j = false := by
  obtain ⟨hset, hfirst⟩ := find?_bit (List.pairwise_reverse.2 List.pairwise_lt_range)
    (fun i hi => List.mem_reverse.2 (List.mem_range.2 hi)) hv
  refine ⟨hset, fun j hj => Bool.eq_false_iff.2 fun h => ?_⟩
  obtain h | h := hfirst j h
  · exact hj.ne' h
  · exact hj.asymm h

section
variable (find : ∀ {n : Nat}, BitVec n → Nat) (r : Reg) (rm : RM) (s : State)

theorem bitScan_of_zero (h : s.readRM s.opw rm = 0) : bitScan find r rm s =
    .next { s with eip := s.nextEip, flags := { s.flags with ZF := true } } := if_pos h

/-- A scan of a source that is not 0 writes the bit number and clears ZF. -/
theorem bitScan_wrote (h : s.readRM s.opw rm ≠ 0) : ∃ t, bitScan find r rm s = .next t ∧
    Wrote s t s.opw (.reg r) (BitVec.ofNat _ (find (s.readRM s.opw rm))) { s.flags with ZF := false } :=
  ⟨_, if_neg h, wrote_writeReg s s.opw r _ { s.flags with ZF := false }⟩

end

/-- Settles O26: the place and the bit are the quotient and the remainder of the offset, one write at the
place changes the word, and a scan finds the first set bit in its order. -/
theorem bitTests : Obligations.BitTests := by
  refine ⟨fun f s => ?_, fun r rm s => ?_⟩
  · intro w place bit word flags only
    refine ⟨bitTarget_snd_lt s f, ?_, rfl, bitModify_wrotePlace (· ||| ·) f s,
      bitModify_wrotePlace (fun a m => a &&& ~~~m) f s, bitModify_wrotePlace (· ^^^ ·) f s⟩
    cases f with
    | rmwIb rm imm => cases rm <;> exact ⟨rfl, rfl⟩
    | rmwRw rm q =>
      cases rm with
      | reg r => exact ⟨rfl, rfl⟩
      | mem m => exact bitTarget_rmwRw_mem s m q
  · intro w v
    refine ⟨fun h => ⟨bitScan_of_zero lowestBit r rm s h, bitScan_of_zero highestBit r rm s h⟩,
      fun h => ⟨?_, ?_⟩⟩
    · obtain ⟨hset, hfirst⟩ := lowestBit_spec h
      obtain ⟨t, ht, hw⟩ := bitScan_wrote lowestBit r rm s h
      exact ⟨t, _, ht, BitVec.lt_of_getLsbD hset, hset, hfirst, hw⟩
    · obtain ⟨hset, hlast⟩ := highestBit_spec h
      obtain ⟨t, ht, hw⟩ := bitScan_wrote highestBit r rm s h
      exact ⟨t, _, ht, BitVec.lt_of_getLsbD hset, hset, hlast, hw⟩

end Sys2Proof.Machine
end

section
/-! Jumps and loops: the targets and the loop count as numbers (R420 to R431). -/

namespace Sys2Proof.Machine

/-! ### Targets (R420, R426) -/

/-- The sum wraps at 2^32 first, which 2^16 divides. -/
theorem nearTarget_eq (s : State) (rel : BitVec 32) : s.nearTarget rel =
    BitVec.ofInt 32 ((s.nextEip.toNat + rel.toInt) % (if s.opsz = .s16 then 2 ^ 16 else 2 ^ 32)) := by
  have hsum : ((s.nextEip + rel).toNat : ℤ) = (s.nextEip.toNat + rel.toInt) % 2 ^ 32 :=
    toNat_eq_emod (add_modEq rfl (toNat_modEq_toInt rel))
  cases hz : s.opsz with
  | s16 =>
    have hmask : ((s.nextEip + rel) &&& 0x0000FFFF).toNat = (s.nextEip + rel).toNat % 2 ^ 16 :=
      Nat.and_two_pow_sub_one_eq_mod _ 16
    apply BitVec.eq_of_toNat_eq
    simp only [State.nearTarget, hz, hmask, if_pos, BitVec.toNat_ofInt]
    omega
  | s32 =>
    apply BitVec.eq_of_toNat_eq
    simp only [State.nearTarget, hz, reduceCtorEq, if_false, BitVec.toNat_ofInt]
    omega

theorem nearTarget_signExtend (s : State) (rel : BitVec 8) : s.nearTarget (rel.signExtend 32) =
    BitVec.ofInt 32 ((s.nextEip.toNat + rel.toInt) % (if s.opsz = .s16 then 2 ^ 16 else 2 ^ 32)) := by
  rw [nearTarget_eq, BitVec.toInt_signExtend_of_le (by decide)]

theorem branchIf_eq (c : Bool) (rel : BitVec 32) (s : State) :
    branchIf c rel s = .next { s with eip := if c then s.nearTarget rel else s.nextEip } := by
  cases c <;> rfl

theorem exec_jccInstr (cc : Cond) (f : JccForm) (s : State) : exec (jccInstr cc f) s = jcc cc f s := by
  cases cc <;> rfl

theorem farTransfer_eq (sel : BitVec 16) (off : BitVec 32) (s : State) :
    match segmentFor s .cs sel with
    | some d => farTransfer sel off s = .next { s.setSeg .cs sel d.base d.big with eip := off }
    | none => farTransfer sel off s = .refused .descLookup := by
  rw [farTransfer, loadSeg_eq]
  cases segmentFor s .cs sel <;> rfl

/-! ### The count (R429) -/

theorem nearTarget_countDown (s : State) (rel : BitVec 32) :
    s.countDown.nearTarget rel = s.nearTarget rel := by
  simp only [State.nearTarget, State.countDown_nextEip, opsz_congr s.countDown_csD s.countDown_pfx]

theorem count_countDown (s : State) :
    s.countDown.count = ((s.count - 1).setWidth s.adsz.bits).setWidth 32 := by
  rw [State.count, adsz_congr s.countDown_csD s.countDown_pfx]
  exact readIndex_writeIndex s s.adsz .ecx _

/-- The count less 1, in its own width, is 0 exactly from the count 1. -/
theorem count_countDown_eq_zero_iff (s : State) : s.countDown.count = 0 ↔ s.count.toNat = 1 := by
  have hlt : s.count.toNat < 2 ^ s.adsz.bits := readIndex_lt s s.adsz .ecx
  rw [count_countDown, ← BitVec.toNat_inj]
  rcases size_cases s.adsz with hz | hz <;>
    simp only [hz, BitVec.toNat_setWidth, BitVec.toNat_sub, BitVec.ofNat_eq_ofNat,
      BitVec.toNat_ofNat] at hlt ⊢ <;> omega

theorem count_countDown_bne_zero (s : State) :
    (s.countDown.count != 0) = decide (s.count.toNat ≠ 1) := by
  rw [Bool.eq_iff_iff, bne_iff_ne, decide_eq_true_iff, Ne, count_countDown_eq_zero_iff]

theorem count_beq_zero (s : State) : (s.count == 0) = decide (s.count.toNat = 0) := by
  rw [Bool.eq_iff_iff, beq_iff_eq, decide_eq_true_iff, ← BitVec.toNat_inj]
  rfl

/-- A loop's jump, in the state with the count taken down. -/
theorem branchIf_countDown (c : Bool) (rel : BitVec 8) (s : State) :
    branchIf c (rel.signExtend 32) s.countDown = .next { s.countDown with
      eip := if c then s.nearTarget (rel.signExtend 32) else s.nextEip } := by
  rw [branchIf_eq, nearTarget_countDown]
  rfl

/-- Settles O39: every jump is a `branchIf`, a `farTransfer` or a plain `jumpTo`, whose target and condition
are the numbers of R420 and R426 to R431. -/
theorem jumps : Obligations.Jumps := by
  intro s target branch counted cx far
  have short (rel : BitVec 8) : s.nearTarget (rel.signExtend 32) = target rel.toInt :=
    nearTarget_signExtend s rel
  have near (rel : BitVec 32) : s.nearTarget rel = target rel.toInt := nearTarget_eq s rel
  have loops {i : Instr} {rel : BitVec 8} {c c' : Bool}
      (hi : exec i s = branchIf c' (rel.signExtend 32) s.countDown) (hc : c' = c) :
      branch i c rel.toInt counted := by
    subst hc
    rw [branchIf_countDown, short] at hi
    exact hi
  refine ⟨fun rel => ?_, fun rel => ?_, fun rm => ?_, fun off sel => farTransfer_eq sel _ s,
    fun m => farTransfer_eq _ _ s, fun cc rel => ?_, fun cc rel => ?_, fun rel => ?_,
    fun rel => loops rfl (count_countDown_bne_zero s),
    fun rel => loops rfl (congrArg (· && s.flags.ZF) (count_countDown_bne_zero s)),
    fun rel => loops rfl (congrArg (· && !s.flags.ZF) (count_countDown_bne_zero s))⟩
  · exact congrArg (fun e => (.next (s.jumpTo e) : Result)) (short rel)
  · exact congrArg (fun e => (.next (s.jumpTo e) : Result)) (near rel)
  · rw [BitVec.ofNat_toNat]
    rfl
  · simp only [branch, exec_jccInstr, jcc, branchIf_eq, short]
  · simp only [branch, exec_jccInstr, jcc, branchIf_eq, near]
  · refine (branchIf_eq (s.count == 0) _ s).trans ?_
    rw [short, count_beq_zero]
    rfl

end Sys2Proof.Machine
end

section
/-! INT3, INT, INTO and BOUND: a vector raised, or only `EIP` moved on (R440 to R442, R446). -/

namespace Sys2Proof.Machine

/-- Settles O42: the traps and BOUND's fault are `raiseVector` with their saved pointer. -/
theorem softwareInterrupts : Obligations.SoftwareInterrupts := by
  intro s delivers
  have raises {i : Instr} {v : BitVec 8} {ip : BitVec 32} (hi : exec i s = raiseVector v ip s) :
      delivers i v ip := by
    have hv := raiseVector_spec v ip s
    rw [← hi] at hv
    exact hv
  refine ⟨raises rfl, fun n => raises rfl, fun hof => raises (if_pos hof), fun hof => ?_,
    fun r m => ⟨fun hin => ?_, fun hout => raises (if_pos hout)⟩⟩
  · exact if_neg (by simp [hof])
  · exact if_neg fun hout => by omega

end Sys2Proof.Machine
end

section
/-! ENTER and LEAVE: the words pushed below the frame, and the way back (R444, R445). -/

namespace Sys2Proof.Machine

/-! ### Stack pointer arithmetic and the registers beside the views -/

theorem wrapSP_readIndex (s : State) (r : Reg) : s.wrapSP (s.readIndex s.stksz r) = s.readIndex s.stksz r := by
  apply BitVec.eq_of_toNat_eq
  rw [toNat_wrapSP, Nat.mod_eq_of_lt (readIndex_lt s s.stksz r)]

theorem wrapSP_wrapSP_add (s : State) (a b : BitVec 32) : s.wrapSP (s.wrapSP a + b) = s.wrapSP (a + b) := by
  apply BitVec.eq_of_toNat_eq
  have ha := toNat_wrapSP s a
  simp only [toNat_wrapSP, BitVec.toNat_add]
  rcases size_cases s.stksz with e | e <;> simp only [e] at ha ⊢ <;> omega

theorem wrapSP_wrapSP_sub (s : State) (a b : BitVec 32) : s.wrapSP (s.wrapSP a - b) = s.wrapSP (a - b) := by
  rw [sub_eq_add_neg, wrapSP_wrapSP_add, ← sub_eq_add_neg]

theorem wrapSP_spDown (s : State) (n : Nat) : s.wrapSP (s.spDown n) = s.spDown n := by
  simpa [State.spDown] using wrapSP_wrapSP_add s (s.stackPtr - BitVec.ofNat 32 n) 0

/-- Down by one word and up again. -/
theorem wrapSP_spDown_add (s : State) (n : Nat) : s.wrapSP (s.spDown n + BitVec.ofNat 32 n) = s.stackPtr := by
  rw [State.spDown, wrapSP_wrapSP_add, sub_add_cancel]
  exact wrapSP_readIndex s .esp

theorem OnlyViews.get_eq {y z : Size} {q r r' : Reg} {s t : State} (h : OnlyViews y.width r z.width r' s t)
    (hr : q ≠ r) (hr' : q ≠ r') : t.gpr.get q = s.gpr.get q :=
  BitVec.eq_of_getLsbD_eq fun k _ => h q k (fun hv => hr ((inView_size_iff ..).1 hv).1)
    fun hv => hr' ((inView_size_iff ..).1 hv).1

theorem OnlyViews.getLsbD_eq {z : Size} {r r' : Reg} {s t : State} (h : OnlyViews z.width r z.width r' s t)
    (q : Reg) {k : Nat} (hk : z.bits ≤ k) : (t.gpr.get q).getLsbD k = (s.gpr.get q).getLsbD k :=
  h q k (fun hv => Nat.not_lt.2 hk ((inView_size_iff ..).1 hv).2)
    fun hv => Nat.not_lt.2 hk ((inView_size_iff ..).1 hv).2

theorem readIndex_push (s : State) (y z : Size) (v : BitVec z.bits) {r : Reg} (h : r ≠ .esp) :
    (s.push z v).readIndex y r = s.readIndex y r := by
  rw [State.readIndex, readReg_push s z y v h, State.readIndex]

/-! ### LEAVE (R445) -/

/-- The two effects of LEAVE: back to the frame pointer, which is popped. -/
def State.leaveFrame (s : State) (z : Size) : State :=
  (s.setStackPtr (s.readIndex s.stksz .ebp)).popReg z .ebp

theorem exec_leave {s : State} {z : Size} (h : s.opsz = z) :
    exec .leave s = .next (s.leaveFrame z).retire := h ▸ rfl

theorem sameRest_leaveFrame (s : State) (z : Size) : SameRest s (s.leaveFrame z) := by
  simp [SameRest, SameSegs, SameSystem, State.leaveFrame]

theorem leaveFrame_flags (s : State) (z : Size) : (s.leaveFrame z).flags = s.flags := rfl

theorem leaveFrame_mem (s : State) (z : Size) : (s.leaveFrame z).mem = s.mem := rfl

theorem readReg_leaveFrame (s : State) (z : Size) : (s.leaveFrame z).readReg z.width .ebp =
    s.memRead z.width (s.lin .ss (s.readIndex s.stksz .ebp)) := by
  rw [State.leaveFrame, readReg_popReg_self, State.slot, Nat.zero_mul, spUp_zero, stackPtr_setStackPtr,
    wrapSP_readIndex]
  rfl

theorem stackPtr_leaveFrame (s : State) (z : Size) : (s.leaveFrame z).stackPtr =
    s.wrapSP (s.readIndex s.stksz .ebp + BitVec.ofNat 32 z.bytes) := by
  rw [State.leaveFrame, stackPtr_popReg _ z (by decide), State.spUp, stackPtr_setStackPtr, wrapSP_readIndex,
    wrapSP_congr (s.setStackPtr_ssB _)]

theorem onlyViews_leaveFrame (s : State) (z : Size) :
    OnlyViews z.width .ebp s.stksz.width .esp s (s.leaveFrame z) := by
  have hpop (v : BitVec 32) : OnlyView s.stksz.width .esp s ((s.setStackPtr v).popped z) :=
    (onlyView_setStackPtr s v).trans (stksz_congr (s.setStackPtr_ssB v) ▸ onlyView_popped _ z)
  exact (hpop _).right.trans (onlyView_writeReg _ z.width .ebp _).left

/-! ### What the pushes of ENTER keep (R444) -/

/-- Where the `k`-th word pushed from `s` on goes. -/
def State.pushedAt (s : State) (z : Size) (k : Nat) : BitVec 32 := s.lin .ss (s.spDown (k * z.bytes))

/-- The frame pointer moved down by `k` words, in the width of the stack pointer. -/
def State.framePtr (s : State) (z : Size) (k : Nat) : BitVec 32 :=
  s.wrapSP (s.readIndex s.stksz .ebp - BitVec.ofNat 32 (k * z.bytes))

/-- The new frame pointer: where the first push leaves the stack pointer. -/
def State.newFrame (s : State) (z : Size) : BitVec z.bits := (s.spDown z.bytes).setWidth z.bits

theorem mem_push_pushedAt (s : State) (z : Size) (v : BitVec z.bits) :
    (s.push z v).mem = (s.memWrite z.width (s.pushedAt z 1) v).mem := by
  rw [mem_push, slot_push_zero, State.pushedAt, Nat.one_mul]

/-- From `s` to `t`, ENTER made its first push and `k` more, beside which only the frame pointer moved. -/
structure EnterFrame (s : State) (z : Size) (k : Nat) (t : State) : Prop where
  rest : SameRest s t
  flags : t.flags = s.flags
  ptr : t.stackPtr = s.spDown ((k + 1) * z.bytes)
  regs : OnlyViews s.stksz.width .ebp s.stksz.width .esp s t
  bytes : ∀ p, (∀ i, 1 ≤ i → i ≤ k + 1 → ¬ InSpan (s.pushedAt z i) z.bytes p) → t.mem.get p = s.mem.get p
  saved : t.memRead z.width (s.pushedAt z 1) = s.readReg z.width .ebp

theorem enterFrame_push (s : State) (z : Size) : EnterFrame s z 0 (s.push z (s.readReg z.width .ebp)) where
  rest := by simp [SameRest, SameSegs, SameSystem]
  flags := rfl
  ptr := by rw [stackPtr_push, Nat.zero_add, Nat.one_mul]
  regs := (onlyView_push s z _).right
  bytes p hp := get_push s z _ (by simpa [slot_push_zero, State.pushedAt] using hp 1 le_rfl le_rfl)
  saved := by rw [memRead_congr (mem_push_pushedAt s z _), memRead_memWrite]

section
variable {s t : State} {z : Size} {k : Nat} (h : EnterFrame s z k t)
include h

theorem EnterFrame.lin_eq (off : BitVec 32) : t.lin .ss off = s.lin .ss off := by
  obtain ⟨⟨hseg, -⟩, -⟩ := h.rest
  exact lin_congr hseg .ss off

/-- Where the next push goes. -/
theorem EnterFrame.pushedAt_one : t.pushedAt z 1 = s.pushedAt z (k + 2) := by
  rw [State.pushedAt, h.lin_eq, spDown_of_down h.rest.ssB _ h.ptr, ← Nat.add_mul]
  rfl

/-- The first word pushed, seen from the stack pointer. -/
theorem EnterFrame.slot_eq : t.slot z k = s.pushedAt z 1 := by
  have hle : k * z.bytes ≤ (k + 1) * z.bytes := Nat.mul_le_mul_right _ (Nat.le_succ k)
  rw [State.slot, h.lin_eq, spUp_of_down' h.rest.ssB h.ptr hle, ← Nat.sub_mul, Nat.add_sub_cancel_left]
  rfl

theorem EnterFrame.push (hk : k < 64) (v : BitVec z.bits) : EnterFrame s z (k + 1) (t.push z v) where
  rest := h.rest
  flags := h.flags
  ptr := by rw [stackPtr_push, spDown_of_down h.rest.ssB _ h.ptr, ← Nat.succ_mul]
  regs := h.regs.trans (stksz_congr h.rest.ssB ▸ onlyView_push t z v).right
  bytes p hp := by
    have hlast : ¬ InSpan ((t.push z v).slot z 0) z.bytes p := by
      have hspan := hp (k + 2) (by omega) le_rfl
      rwa [← h.pushedAt_one, State.pushedAt, Nat.one_mul, ← slot_push_zero t z v] at hspan
    exact (get_push t z v hlast).trans (h.bytes p fun i h1 hi => hp i h1 (by omega))
  saved := by rw [← h.slot_eq, memRead_push_slot t z v hk, h.slot_eq, h.saved]

theorem EnterFrame.writeIndex_ebp (v : BitVec 32) : EnterFrame s z k (t.writeIndex s.stksz .ebp v) where
  rest := h.rest
  flags := h.flags
  ptr := (readIndex_writeIndex_of_ne t t.stksz s.stksz v (by decide)).trans h.ptr
  regs := h.regs.trans (onlyView_writeReg t s.stksz.width .ebp _).left
  bytes := h.bytes
  saved := h.saved

/-- A frame pointer already moved down by `k` words, one word further down. -/
theorem EnterFrame.framePtr_one (hp : t.readIndex s.stksz .ebp = s.framePtr z k) :
    t.framePtr z 1 = s.framePtr z (k + 1) := by
  rw [State.framePtr, stksz_congr h.rest.ssB, wrapSP_congr h.rest.ssB, hp, State.framePtr, wrapSP_wrapSP_sub,
    sub_sub, ← BitVec.ofNat_add, ← Nat.add_mul]
  rfl

end

/-! ### The copied frame pointers -/

/-- One frame pointer copied: BP or EBP moves down, and the word it then addresses is pushed. -/
def State.enterCopy (s : State) (z : Size) : State :=
  (s.writeIndex s.stksz .ebp (s.readIndex s.stksz .ebp - BitVec.ofNat 32 z.bytes)).push z
    (s.memRead z.width (s.lin .ss (s.framePtr z 1)))

theorem readIndex_writeIndex_framePtr (s : State) (z : Size) :
    (s.writeIndex s.stksz .ebp (s.readIndex s.stksz .ebp - BitVec.ofNat 32 z.bytes)).readIndex s.stksz .ebp =
      s.framePtr z 1 := by
  rw [readIndex_writeIndex, State.framePtr, Nat.one_mul]
  rfl

theorem readIndex_enterCopy (s : State) (z : Size) :
    (s.enterCopy z).readIndex s.stksz .ebp = s.framePtr z 1 := by
  rw [State.enterCopy, readIndex_push _ _ z _ (by decide), readIndex_writeIndex_framePtr]

theorem enterLoop_succ (z : Size) (k : Nat) (s : State) :
    enterLoop z (k + 1) s = enterLoop z k (s.enterCopy z) := by
  rw [State.enterCopy, ← readIndex_writeIndex_framePtr]
  rfl

theorem mem_enterCopy (s : State) (z : Size) : (s.enterCopy z).mem =
    (s.memWrite z.width (s.pushedAt z 1) (s.memRead z.width (s.lin .ss (s.framePtr z 1)))).mem := by
  have hptr (v : BitVec 32) : (s.writeIndex s.stksz .ebp v).pushedAt z 1 = s.pushedAt z 1 :=
    congrArg (fun a => s.lin .ss (s.wrapSP (a - BitVec.ofNat 32 (1 * z.bytes))))
      (readIndex_writeIndex_of_ne s s.stksz s.stksz v (by decide))
  rw [State.enterCopy, mem_push_pushedAt, hptr]
  rfl

/-- The first push and `k` copies. -/
def State.enterCopies (s : State) (z : Size) : Nat → State
  | 0 => s.push z (s.readReg z.width .ebp)
  | k + 1 => (s.enterCopies z k).enterCopy z

theorem enterLoop_enterCopies (z : Size) (k j : Nat) (s : State) :
    enterLoop z k (s.enterCopies z j) = s.enterCopies z (j + k) := by
  induction k generalizing j with
  | zero => rfl
  | succ k ih => rw [enterLoop_succ, ← State.enterCopies, ih, Nat.succ_add_eq_add_succ]

/-- After `k` copies the frame pointer is `k` words down. -/
theorem enterCopies_spec (s : State) (z : Size) {k : Nat} (hk : k < 64) :
    EnterFrame s z k (s.enterCopies z k) ∧ (s.enterCopies z k).readIndex s.stksz .ebp = s.framePtr z k := by
  induction k with
  | zero =>
    refine ⟨enterFrame_push s z, ?_⟩
    rw [State.framePtr, Nat.zero_mul, BitVec.sub_zero, wrapSP_readIndex, State.enterCopies,
      readIndex_push _ _ z _ (by decide)]
  | succ k ih =>
    obtain ⟨hf, hp⟩ := ih (by omega)
    have hsize := stksz_congr hf.rest.ssB
    refine ⟨(hsize ▸ hf.writeIndex_ebp _).push (by omega) _, ?_⟩
    rw [← hf.framePtr_one hp, ← readIndex_enterCopy, hsize, State.enterCopies]

theorem mem_enterCopies_succ (s : State) (z : Size) {k : Nat} (hk : k < 64) :
    (s.enterCopies z (k + 1)).mem = ((s.enterCopies z k).memWrite z.width (s.pushedAt z (k + 2))
      ((s.enterCopies z k).memRead z.width (s.lin .ss (s.framePtr z (k + 1))))).mem := by
  obtain ⟨hf, hp⟩ := enterCopies_spec s z hk
  rw [State.enterCopies, mem_enterCopy, hf.pushedAt_one, hf.framePtr_one hp, hf.lin_eq]

/-! ### ENTER (R444) -/

/-- Every push of ENTER at a nesting depth. -/
def State.enterPushes (s : State) (z : Size) : Nat → State
  | 0 => s.enterCopies z 0
  | d + 1 => (s.enterCopies z d).push z (s.newFrame z)

theorem enterFrame_enterPushes (s : State) (z : Size) {d : Nat} (hd : d < 64) :
    EnterFrame s z d (s.enterPushes z d) := by
  cases d with
  | zero => exact enterFrame_push s z
  | succ d => exact (enterCopies_spec s z (by omega)).1.push (by omega) _

/-- At a depth other than 0 the new frame pointer is the last word pushed. -/
theorem mem_enterPushes (s : State) (z : Size) {d : Nat} (hd : d < 64) (h0 : d ≠ 0) :
    (s.enterPushes z d).mem =
      ((s.enterCopies z (d - 1)).memWrite z.width (s.pushedAt z (d + 1)) (s.newFrame z)).mem := by
  obtain ⟨k, rfl⟩ := Nat.exists_eq_succ_of_ne_zero h0
  rw [State.enterPushes, mem_push_pushedAt, (enterCopies_spec s z (by omega)).1.pushedAt_one]
  rfl

theorem enterPushes_eq (s : State) (z : Size) (d : Nat) :
    (if d = 0 then s.push z (s.readReg z.width .ebp)
      else (enterLoop z (d - 1) (s.push z (s.readReg z.width .ebp))).push z (s.newFrame z)) =
      s.enterPushes z d := by
  cases d with
  | zero => rfl
  | succ d =>
    have hloop : enterLoop z d (s.push z (s.readReg z.width .ebp)) = s.enterCopies z d :=
      (enterLoop_enterCopies z d 0 s).trans (by rw [Nat.zero_add])
    rw [if_neg (Nat.succ_ne_zero d), Nat.add_sub_cancel, hloop, State.enterPushes]

/-- The new frame pointer is written and the local space reserved. -/
def State.enterEnd (t : State) (z : Size) (frame : BitVec z.bits) (size : BitVec 16) : State :=
  (t.writeReg z.width .ebp frame).setStackPtr
    ((t.writeReg z.width .ebp frame).stackPtr - size.setWidth 32)

theorem exec_enter {s : State} {z : Size} (h : s.opsz = z) (size : BitVec 16) (level : BitVec 8) :
    exec (.enter size level) s =
      .next ((s.enterPushes z (level.toNat % 32)).enterEnd z (s.newFrame z) size).retire := by
  subst h
  rw [← enterPushes_eq, State.newFrame, ← stackPtr_push s s.opsz (s.readReg s.opsz.width .ebp)]
  rfl

section
variable (t : State) (z : Size) (frame : BitVec z.bits) (size : BitVec 16)

theorem stackPtr_enterEnd : (t.enterEnd z frame size).stackPtr = t.spDown size.toNat := by
  have hptr : (t.writeReg z.width .ebp frame).stackPtr = t.stackPtr :=
    readIndex_writeReg_of_ne t t.stksz z frame (by decide)
  rw [State.enterEnd, stackPtr_setStackPtr, hptr, State.spDown, BitVec.ofNat_toNat,
    wrapSP_congr (t.writeReg_ssB z.width .ebp frame)]

theorem readReg_enterEnd : (t.enterEnd z frame size).readReg z.width .ebp = frame := by
  rw [State.enterEnd, State.setStackPtr, readReg_writeIndex_of_ne _ z _ _ (by decide), readReg_writeReg]

theorem onlyViews_enterEnd : OnlyViews z.width .ebp t.stksz.width .esp t (t.enterEnd z frame size) :=
  (onlyView_writeReg t z.width .ebp frame).left.trans
    (stksz_congr (t.writeReg_ssB z.width .ebp frame) ▸ onlyView_setStackPtr _ _).right

end

/-- The end of ENTER moves EBP and the stack pointer, in their views, and retires. -/
theorem EnterFrame.enterEnd {s t : State} {z : Size} {k : Nat} (h : EnterFrame s z k t)
    (frame : BitVec z.bits) (size : BitVec 16) :
    ∃ u, (t.enterEnd z frame size).retire = u ∧ u.eip = s.nextEip ∧ u.flags = s.flags ∧ SameRest s u ∧
      u.mem = t.mem ∧ u.stackPtr = s.spDown ((k + 1) * z.bytes + size.toNat) ∧
      u.readReg z.width .ebp = frame ∧ OnlyViews z.width .ebp s.stksz.width .esp t u := by
  have hptr := stackPtr_enterEnd t z frame size
  rw [spDown_of_down h.rest.ssB _ h.ptr] at hptr
  exact ⟨_, rfl, h.rest.nextEip, h.flags, h.rest, rfl, hptr, readReg_enterEnd t z frame size,
    stksz_congr h.rest.ssB ▸ onlyViews_enterEnd t z frame size⟩

/-! ### LEAVE after ENTER -/

/-- LEAVE where ENTER left the frame: both registers it moves read as before, and no other bit of the
registers differs. -/
theorem gpr_leaveFrame_of_entered {s t : State} {z : Size} (hz : s.stksz = z) (hrest : SameRest s t)
    (hviews : OnlyViews z.width .ebp z.width .esp s t) (hbp : t.readReg z.width .ebp = s.newFrame z)
    (hsaved : t.memRead z.width (s.pushedAt z 1) = s.readReg z.width .ebp) :
    (t.leaveFrame z).gpr = s.gpr := by
  subst hz
  have hsize : t.stksz = s.stksz := stksz_congr hrest.ssB
  have hframe : t.readIndex t.stksz .ebp = s.spDown s.stksz.bytes := by
    rw [hsize, State.readIndex, hbp]
    exact wrapSP_spDown s _
  have hlin : t.lin .ss (s.spDown s.stksz.bytes) = s.pushedAt s.stksz 1 := by
    obtain ⟨⟨hseg, -⟩, -⟩ := hrest
    rw [lin_congr hseg, State.pushedAt, Nat.one_mul]
  have hall : OnlyViews s.stksz.width .ebp s.stksz.width .esp s (t.leaveFrame s.stksz) :=
    hviews.trans (hsize ▸ onlyViews_leaveFrame t s.stksz)
  have hebp : (t.leaveFrame s.stksz).readReg s.stksz.width .ebp = s.readReg s.stksz.width .ebp := by
    rw [readReg_leaveFrame, hframe, hlin, hsaved]
  have hesp : (t.leaveFrame s.stksz).readReg s.stksz.width .esp = s.readReg s.stksz.width .esp := by
    have hptr : (t.leaveFrame s.stksz).stackPtr = s.stackPtr := by
      rw [stackPtr_leaveFrame, hframe, wrapSP_congr hrest.ssB, wrapSP_spDown_add]
    have hlow := readReg_esp_eq (t.leaveFrame s.stksz)
    rwa [stksz_congr ((sameRest_leaveFrame t _).ssB.trans hrest.ssB), hptr, ← readReg_esp_eq] at hlow
  refine Gpr.ext_get fun q => ?_
  by_cases hq : q = .ebp
  · subst hq
    exact get_eq_of_readReg_eq hebp fun k hk => hall.getLsbD_eq .ebp hk
  · by_cases hq' : q = .esp
    · subst hq'
      exact get_eq_of_readReg_eq hesp fun k hk => hall.getLsbD_eq .esp hk
    · exact hall.get_eq hq hq'

/-- Settles O38: `EnterFrame` holds along the pushes of ENTER, whose first word LEAVE finds at the new frame
pointer. -/
theorem enterLeave : Obligations.EnterLeave := by
  intro s z w
  refine ⟨fun size level => ?_, _, exec_leave rfl, (eip_retire _).trans (sameRest_leaveFrame s z).nextEip,
    (State.retire_flags _).trans (leaveFrame_flags s z), (sameRest_leaveFrame s z).retire,
    (State.retire_mem _).trans (leaveFrame_mem s z), (readReg_retire _ w .ebp).trans (readReg_leaveFrame s z),
    (stackPtr_retire _).trans (stackPtr_leaveFrame s z),
    onlyViews_congr (onlyViews_leaveFrame s z) rfl (State.retire_gpr _)⟩
  have hd : level.toNat % 32 < 64 := (Nat.mod_lt _ (by decide)).trans (by decide)
  have hf := enterFrame_enterPushes s z hd
  obtain ⟨t, ht, heip, hflags, hrest, hmem, hptr, hbp, hviews⟩ := hf.enterEnd (s.newFrame z) size
  have hsaved := (memRead_congr hmem z.width (s.pushedAt z 1)).trans hf.saved
  refine ⟨t, ht ▸ exec_enter rfl size level, heip, hflags, hrest, ⟨hptr, hbp, hsaved,
    fun q hsp hbp => (hviews.get_eq hbp hsp).trans (hf.regs.get_eq hbp hsp),
    fun p hp => hmem ▸ hf.bytes p hp,
    fun k => (s.enterCopies z k).mem, mem_push_pushedAt s z _,
    fun k hk => mem_enterCopies_succ s z (by omega), fun h0 => ?_,
    fun h0 => hmem.trans (mem_enterPushes s z hd h0)⟩, fun hz => ?_⟩
  · rw [hmem, h0, State.enterPushes]
  · have hsize : s.stksz = z := hz.symm
    have hregs := hf.regs
    rw [hsize] at hregs hviews
    exact ⟨_, exec_leave hrest.opsz, (State.retire_gpr _).trans
      (gpr_leaveFrame_of_entered hsize hrest (hregs.trans hviews) hbp hsaved),
      (State.retire_mem _).trans (leaveFrame_mem t z)⟩

end Sys2Proof.Machine
end

section
/-! String instructions without a repeat prefix: the index registers as numbers and the seven primitives
(R470, R471, R474 to R480). -/

namespace Sys2Proof.Machine

/-! ### Index registers as numbers (R470, R471) -/

/-- What one element adds to an index: its bytes, negative if DF is set (R470). -/
def State.stride (s : State) (w : Width) : ℤ := if s.flags.DF then -(w.bytes : ℤ) else w.bytes

/-- An index register offset by a number of bytes, in its own width (R471). -/
def State.indexAt (s : State) (r : Reg) (d : ℤ) : BitVec 32 :=
  BitVec.ofInt 32 (((s.readIndex s.adsz r).toNat + d) % 2 ^ s.adsz.bits)

theorem delta_eq_ofInt_stride (s : State) (w : Width) : s.delta w = BitVec.ofInt 32 (s.stride w) := by
  unfold State.delta State.stride
  split <;> cases w <;> rfl

/-- A sum truncated to an index's width: it wraps at 2^32 first, which the width's power divides. -/
theorem setWidth_add_ofInt (z : Size) (x : BitVec 32) (d : ℤ) :
    ((x + BitVec.ofInt 32 d).setWidth z.bits).setWidth 32 =
      BitVec.ofInt 32 ((x.toNat + d) % 2 ^ z.bits) := by
  apply BitVec.eq_of_toNat_eq
  rcases size_cases z with hz | hz <;>
    simp only [hz, BitVec.toNat_setWidth, BitVec.toNat_add, BitVec.toNat_ofInt] <;> omega

theorem toNat_indexAt (s : State) (r : Reg) (d : ℤ) :
    ((s.indexAt r d).toNat : ℤ) = ((s.readIndex s.adsz r).toNat + d) % 2 ^ s.adsz.bits := by
  rw [State.indexAt, BitVec.toNat_ofInt]
  rcases size_cases s.adsz with hz | hz <;> simp only [hz] <;> omega

theorem indexAt_zero (s : State) (r : Reg) : s.indexAt r 0 = s.readIndex s.adsz r := by
  have hlt := readIndex_lt s s.adsz r
  apply BitVec.eq_of_toNat_eq
  have h := toNat_indexAt s r 0
  rw [Int.add_zero, Int.emod_eq_of_lt (by positivity) (by exact_mod_cast hlt)] at h
  exact_mod_cast h

/-- An offset from an index that is itself offset. -/
theorem indexAt_of_readIndex_eq {s t : State} {r : Reg} {d : ℤ} (hz : t.adsz = s.adsz)
    (h : t.readIndex s.adsz r = s.indexAt r d) (e : ℤ) : t.indexAt r e = s.indexAt r (d + e) := by
  rw [State.indexAt, hz, h, toNat_indexAt, Int.emod_add_emod, Int.add_assoc]
  rfl

theorem readIndex_advance_of_ne (s : State) (z : Size) (w : Width) {r q : Reg} (h : q ≠ r) :
    (s.advance w r).readIndex z q = s.readIndex z q :=
  readIndex_writeIndex_of_ne s z s.adsz _ h

section
variable {s t : State} (w : Width) {q : Reg} (hz : t.adsz = s.adsz) (hd : t.flags.DF = s.flags.DF)
  (h : t.readIndex s.adsz q = s.readIndex s.adsz q)
include hz hd h

/-- Any index after one is moved, in a state that agrees on the index, its size and DF. -/
theorem readIndex_advance (r : Reg) : (t.advance w r).readIndex s.adsz q =
    s.indexAt q (if q == r then s.stride w else 0) := by
  by_cases hq : q = r
  · subst hq
    have hstride : t.stride w = s.stride w := by simp only [State.stride, hd]
    rw [if_pos (beq_self_eq_true q), State.advance, hz, h, readIndex_writeIndex, delta_eq_ofInt_stride,
      hstride, setWidth_add_ofInt, State.indexAt]
  · rw [if_neg (by simpa using hq), indexAt_zero, readIndex_advance_of_ne t s.adsz w hq, h]

theorem readIndex_advance_advance : ((t.advance w .esi).advance w .edi).readIndex s.adsz q =
    s.indexAt q (if q == .esi || q == .edi then s.stride w else 0) := by
  by_cases hq : q = .edi
  · subst hq
    exact readIndex_advance w (t := t.advance w .esi) hz hd
      ((readIndex_advance_of_ne t s.adsz w (by decide)).trans h) .edi
  · rw [readIndex_advance_of_ne _ s.adsz w hq, readIndex_advance w hz hd h]
    simp [hq]

end

theorem onlyView_advance (s : State) (w : Width) (r : Reg) :
    OnlyView s.adsz.width r s (s.advance w r) :=
  onlyView_writeReg s _ r _

theorem onlyViews_advance_advance (s : State) (w : Width) (r q : Reg) :
    OnlyViews s.adsz.width r s.adsz.width q s ((s.advance w r).advance w q) :=
  (onlyView_advance s w r).left.trans (onlyView_advance (s.advance w r) w q).right

/-! ### The primitives (R474 to R480) -/

/-- The seven string operations. -/
inductive StringOp
  | movs
  | cmps
  | scas
  | stos
  | lods
  | ins
  | outs

/-- The string instruction of an operation. -/
def StringOp.instr : StringOp → StringForm → Instr
  | .movs, f => .movs f
  | .cmps, f => .cmps f
  | .scas, f => .scas f
  | .stos, f => .stos f
  | .lods, f => .lods f
  | .ins, f => .ins f
  | .outs, f => .outs f

/-- The primitive of an operation. -/
def StringOp.prim : StringOp → Width → State → State
  | .movs => movsPrim
  | .cmps => cmpsPrim
  | .scas => scasPrim
  | .stos => stosPrim
  | .lods => lodsPrim
  | .ins => insPrim
  | .outs => outsPrim

/-- CMPS and SCAS, whose repetition looks at ZF (R473). -/
def StringOp.compares : StringOp → Bool
  | .cmps | .scas => true
  | _ => false

/-- The index registers an operation moves (R474 to R480). -/
def StringOp.moves : StringOp → Reg → Bool
  | .movs, r | .cmps, r => r == .esi || r == .edi
  | .scas, r | .stos, r | .ins, r => r == .edi
  | .lods, r | .outs, r => r == .esi

/-- The offset of an index register, `d` where the operation moves it. -/
def StringOp.shift (o : StringOp) (r : Reg) (d : ℤ) : ℤ := if o.moves r then d else 0

theorem StringOp.shift_add_shift (o : StringOp) (r : Reg) (d e : ℤ) :
    o.shift r d + o.shift r e = o.shift r (d + e) := by
  simp only [StringOp.shift]
  split <;> simp

theorem exec_stringOp (o : StringOp) (f : StringForm) (s : State) :
    exec (o.instr f) s = stringStep (o.prim (s.elementWidth f)) o.compares s := by
  cases o <;> rfl

/-- A port read leaves all but the port history, so INS is a store into a state that differs there only. -/
theorem insPrim_eq (w : Width) (s : State) : insPrim w s =
    (({ s with ports := (s.portRead w s.dx).2.ports }).writeDst w (s.portRead w s.dx).1).advance w .edi := by
  obtain ⟨ports, h⟩ := portRead_state s w s.dx
  have h' : (s.portRead w s.dx).2 = { s with ports := (s.portRead w s.dx).2.ports } := by rw [h]
  exact congrArg (fun t : State => (t.writeDst w (s.portRead w s.dx).1).advance w .edi) h'

theorem outsPrim_eq (w : Width) (s : State) : outsPrim w s =
    ({ s with ports := (s.portWrite w s.dx (s.srcElement w)).ports }).advance w .esi := by
  obtain ⟨ports, h⟩ := portWrite_state s w s.dx (s.srcElement w)
  rw [outsPrim, h]

/-- An element leaves alone what a repetition looks at beside the registers and the flags. -/
theorem StringOp.prim_frame (o : StringOp) (w : Width) (s : State) :
    (o.prim w s).csD = s.csD ∧ (o.prim w s).pfx = s.pfx ∧ (o.prim w s).eip = s.eip ∧
      (o.prim w s).nextEip = s.nextEip := by
  cases o with
  | ins =>
    rw [StringOp.prim, insPrim_eq]
    exact ⟨rfl, rfl, rfl, rfl⟩
  | outs =>
    rw [StringOp.prim, outsPrim_eq]
    exact ⟨rfl, rfl, rfl, rfl⟩
  | _ => exact ⟨rfl, rfl, rfl, rfl⟩

theorem readIndex_writeReg_eax (s : State) (z : Size) (w : Width) (v : BitVec w.bits) {r : Reg}
    (h : r ≠ .eax) : (s.writeReg w .eax v).readIndex z r = s.readIndex z r := by
  have hhome : homeOf w .eax = .eax := by cases w <;> rfl
  have hget : (s.writeReg w .eax v).gpr.get r = s.gpr.get r := get_writeReg_of_ne s w v (by rwa [hhome])
  simp only [State.readIndex, State.readReg, homeOf_size, hget]

/-- An element moves its index registers by its stride; beside them it writes EAX at most. -/
theorem StringOp.readIndex_prim (o : StringOp) (w : Width) (s : State) {r : Reg} (h : r ≠ .eax) :
    (o.prim w s).readIndex s.adsz r = s.indexAt r (o.shift r (s.stride w)) := by
  cases o with
  | movs => exact readIndex_advance_advance (s := s) (t := s.writeDst w (s.srcElement w)) w rfl rfl rfl
  | cmps => exact readIndex_advance_advance (s := s) (t := { s with flags := _ }) w rfl rfl rfl
  | scas => exact readIndex_advance (s := s) (t := { s with flags := _ }) w rfl rfl rfl .edi
  | stos => exact readIndex_advance (s := s) (t := s.writeDst w (s.readReg w .eax)) w rfl rfl rfl .edi
  | lods =>
    exact readIndex_advance (s := s) (t := s.writeReg w .eax (s.srcElement w)) w rfl rfl
      (readIndex_writeReg_eax s s.adsz w _ h) .esi
  | ins =>
    rw [StringOp.prim, insPrim_eq]
    exact readIndex_advance w rfl rfl rfl .edi
  | outs =>
    rw [StringOp.prim, outsPrim_eq]
    exact readIndex_advance w rfl rfl rfl .esi

theorem readReg_eax_advance_esi (s : State) (w y : Width) :
    (s.advance y .esi).readReg w .eax = s.readReg w .eax := by
  have hne : homeOf w .eax ≠ homeOf s.adsz.width .esi := by
    rw [homeOf_size]
    cases w <;> decide
  have hget : (s.advance y .esi).gpr.get (homeOf w .eax) = s.gpr.get (homeOf w .eax) :=
    get_writeReg_of_ne s s.adsz.width _ hne
  rw [State.readReg, hget, State.readReg]

theorem SameRest.refl (s : State) : SameRest s s :=
  ⟨⟨rfl, rfl, rfl⟩, rfl, rfl, rfl, rfl, rfl, rfl, rfl, rfl⟩

/-- Settles O44: without a repeat prefix a string instruction retires after its primitive. -/
theorem stringElements : Obligations.StringElements := by
  intro f s h w src dst moved iw
  have once (o : StringOp) : exec (o.instr f) s = .next (o.prim w s).retire :=
    (exec_stringOp o f s).trans (stringStep_once h _ _)
  have index (o : StringOp) (r : Reg) (hr : r ≠ .eax) (hm : o.moves r = true) :
      (o.prim w s).retire.readIndex s.adsz r = moved r :=
    (StringOp.readIndex_prim o w s hr).trans (congrArg (s.indexAt r) (if_pos hm))
  have esi (o : StringOp) := index o .esi (by decide)
  have edi (o : StringOp) := index o .edi (by decide)
  refine ⟨⟨_, once .movs, rfl, rfl, sameRest_memWrite s w dst (s.srcElement w),
      memRead_memWrite s w dst (s.srcElement w), sameMemExcept_memWrite s w dst (s.srcElement w),
      esi .movs rfl, edi .movs rfl, onlyViews_advance_advance (s.writeDst w (s.srcElement w)) w .esi .edi⟩,
    ⟨_, once .cmps, rfl, SameRest.refl s, rfl, rfl, esi .cmps rfl, edi .cmps rfl,
      onlyViews_congr (onlyViews_advance_advance { s with flags := _ } w .esi .edi) rfl (State.retire_gpr _)⟩,
    ⟨_, once .scas, rfl, SameRest.refl s, rfl, rfl, edi .scas rfl,
      onlyView_congr (onlyView_advance { s with flags := _ } w .edi) rfl (State.retire_gpr _)⟩,
    ⟨_, once .stos, rfl, rfl, sameRest_memWrite s w dst (s.readReg w .eax),
      memRead_memWrite s w dst (s.readReg w .eax), sameMemExcept_memWrite s w dst (s.readReg w .eax),
      edi .stos rfl, onlyView_advance (s.writeDst w (s.readReg w .eax)) w .edi⟩,
    ⟨_, once .lods, rfl, rfl, SameRest.refl s, rfl,
      (readReg_eax_advance_esi (s.writeReg w .eax (s.srcElement w)) w w).trans (readReg_writeReg s w .eax _),
      esi .lods rfl, (onlyView_writeReg s w .eax _).left.trans
        (onlyView_advance (s.writeReg w .eax (s.srcElement w)) w .esi).right⟩,
    ⟨_, once .ins, ?_⟩,
    ⟨_, once .outs, ?_⟩⟩
  · have hdi := edi .ins rfl
    rw [StringOp.prim, insPrim_eq] at hdi ⊢
    exact ⟨rfl, rfl, ⟨rfl, rfl, rfl⟩, rfl, rfl, rfl, rfl, rfl, rfl, rfl, rfl,
      memRead_memWrite _ w dst _, sameMemExcept_memWrite _ w dst _, hdi, onlyView_advance _ w .edi⟩
  · have hsi := esi .outs rfl
    rw [StringOp.prim, outsPrim_eq] at hsi ⊢
    exact ⟨rfl, rfl, ⟨rfl, rfl, rfl⟩, rfl, rfl, rfl, rfl, rfl, rfl, rfl, rfl, rfl, hsi,
      onlyView_advance _ w .esi⟩

end Sys2Proof.Machine
end

section
/-! String instructions under a repeat prefix: one execution, and the run of a repeated MOVS, STOS or LODS
(R472, R473, R482). -/

namespace Sys2Proof.Machine

/-! ### One execution under a repeat prefix (R472, R473) -/

/-- The state with another repeat mode. -/
def State.withRep (s : State) (m : RepMode) : State := { s with pfx := { s.pfx with rep := m } }

section
variable (s : State) (m : RepMode) (w : Width)

theorem advance_withRep (r : Reg) : (s.withRep m).advance w r = (s.advance w r).withRep m := rfl

theorem advance_advance_withRep (r q : Reg) :
    ((s.withRep m).advance w r).advance w q = ((s.advance w r).advance w q).withRep m :=
  (congrArg (State.advance · w q) (advance_withRep s m w r)).trans (advance_withRep (s.advance w r) m w q)

theorem portReadBytes_withRep (p : BitVec 16) (n : Nat) : (s.withRep m).portReadBytes p n =
    ((s.portReadBytes p n).1, (s.portReadBytes p n).2.withRep m) := by
  induction n generalizing s p with
  | zero => rfl
  | succ n ih =>
    exact congrArg (fun x : List Byte × State => ((s.portReadByte p).1 :: x.1, x.2))
      (ih (s.portReadByte p).2 (p + 1))

theorem portWriteBytes_withRep (p : BitVec 16) (bs : List Byte) :
    (s.withRep m).portWriteBytes p bs = (s.portWriteBytes p bs).withRep m := by
  induction bs generalizing s p with
  | nil => rfl
  | cons b bs ih => exact ih (s.portWriteByte p b) (p + 1)

/-- An element does not look at the repeat mode. -/
theorem StringOp.prim_withRep (o : StringOp) : o.prim w (s.withRep m) = (o.prim w s).withRep m := by
  cases o with
  | movs => exact advance_advance_withRep (s.writeDst w (s.srcElement w)) m w .esi .edi
  | cmps => exact advance_advance_withRep { s with flags := _ } m w .esi .edi
  | scas => exact advance_withRep { s with flags := _ } m w .edi
  | stos => exact advance_withRep (s.writeDst w (s.readReg w .eax)) m w .edi
  | lods => exact advance_withRep (s.writeReg w .eax (s.srcElement w)) m w .esi
  | ins =>
    exact (congrArg (fun x : List Byte × State =>
      (x.2.writeDst w (BitVec.ofNat w.bits (leNat x.1))).advance w .edi)
      (portReadBytes_withRep s m s.dx w.bytes)).trans
      (advance_withRep ((s.portReadBytes s.dx w.bytes).2.writeDst w _) m w .edi)
  | outs =>
    exact (congrArg (State.advance · w .esi)
      (portWriteBytes_withRep s m s.dx (leBytes w.bytes (s.srcElement w).toNat))).trans
      (advance_withRep (s.portWriteBytes s.dx _) m w .esi)

end

theorem StringOp.count_prim (o : StringOp) (w : Width) (s : State) : (o.prim w s).count = s.count := by
  obtain ⟨hcsD, hpfx, -⟩ := StringOp.prim_frame o w s
  rw [State.count, adsz_congr hcsD hpfx]
  have hecx : o.shift .ecx (s.stride w) = 0 := by cases o <;> rfl
  rw [StringOp.readIndex_prim o w s (by decide), hecx, indexAt_zero, State.count]

/-- One execution with a count: the element, the count less 1, and EIP back at the instruction or past it. -/
theorem exec_stringOp_repeated (o : StringOp) (f : StringForm) {s : State} (h : s.pfx.rep ≠ .none)
    (hc : s.count ≠ 0) :
    exec (o.instr f) s = .next { (o.prim (s.elementWidth f) s).countDown with
      eip := if s.count ≠ 1 ∧ (o.compares = true →
          (o.prim (s.elementWidth f) s).flags.ZF = decide (s.pfx.rep = .rep)) then s.eip
        else s.nextEip } := by
  obtain ⟨-, -, heip, hnext⟩ := StringOp.prim_frame o (s.elementWidth f) s
  have hone : (o.prim (s.elementWidth f) s).countDown.count ≠ 0 ↔ s.count ≠ 1 := by
    rw [Ne, count_countDown_eq_zero_iff, StringOp.count_prim, Ne, ← BitVec.toNat_inj]
    rfl
  rw [exec_stringOp, stringStep_some h hc]
  simp only [hone, State.countDown_flags]
  split
  · rw [← heip]
    rfl
  · rw [← hnext]
    rfl

theorem StringOp.exists_instr_eq {i : Instr} {f : StringForm} (h : i = .movs f ∨ i = .cmps f ∨ i = .scas f ∨
    i = .stos f ∨ i = .lods f ∨ i = .ins f ∨ i = .outs f) : ∃ o : StringOp, i = o.instr f := by
  obtain rfl | rfl | rfl | rfl | rfl | rfl | rfl := h
  exacts [⟨.movs, rfl⟩, ⟨.cmps, rfl⟩, ⟨.scas, rfl⟩, ⟨.stos, rfl⟩, ⟨.lods, rfl⟩, ⟨.ins, rfl⟩, ⟨.outs, rfl⟩]

theorem StringOp.compares_iff (o : StringOp) (f : StringForm) :
    o.instr f = .cmps f ∨ o.instr f = .scas f ↔ o.compares = true := by
  cases o <;> simp [StringOp.instr, StringOp.compares]

/-- One execution with the repeat mode taken out, which the element does not look at. -/
theorem exec_stringOp_unrepeated (o : StringOp) (f : StringForm) (s : State) :
    exec (o.instr f) (s.withRep .none) =
      .next ((o.prim (s.elementWidth f) s).retire.withRep .none) := by
  rw [exec_stringOp, stringStep_once rfl]
  exact congrArg done (StringOp.prim_withRep s .none (s.elementWidth f) o)

/-- The count taken down in the size the element leaves. -/
theorem StringOp.countDown_prim (o : StringOp) (w : Width) (s : State) : (o.prim w s).countDown =
    { (o.prim w s).writeIndex s.adsz .ecx ((o.prim w s).readIndex s.adsz .ecx - 1) with pfx := s.pfx } := by
  obtain ⟨hcsD, hpfx, -⟩ := StringOp.prim_frame o w s
  rw [State.countDown, State.count, adsz_congr hcsD hpfx, ← hpfx]
  rfl

/-- Settles O45: with and without the repeat prefix it is one element; the count and EIP are the
repetition's. -/
theorem repeatStep : Obligations.RepeatStep := by
  intro i f s t hi h
  obtain ⟨o, rfl⟩ := StringOp.exists_instr_eq hi
  refine ⟨fun hc => (exec_stringOp o f s).trans (stringStep_zero h hc _ _), fun hc ht => ?_⟩
  intro counted compares again
  obtain rfl := Host.Outcome.next.inj ((exec_stringOp_unrepeated o f s).symm.trans ht)
  have hrun := exec_stringOp_repeated o f h hc
  rw [StringOp.countDown_prim] at hrun
  have hiff : again ↔ s.count ≠ 1 ∧ (o.compares = true →
      (o.prim (s.elementWidth f) s).flags.ZF = decide (s.pfx.rep = .rep)) := by
    rw [← StringOp.compares_iff o f]
    rfl
  refine ⟨fun hagain => hrun.trans ?_, fun hagain => hrun.trans ?_⟩
  · exact congrArg (fun e => (.next { counted with eip := e } : Result)) (if_pos (hiff.1 hagain))
  · exact congrArg (fun e => (.next { counted with eip := e } : Result)) (if_neg (hagain ∘ hiff.2))

/-! ### Repeated runs (R482) -/

theorem execTimes_succ (i : Instr) (k : Nat) (s : State) :
    execTimes i (k + 1) s = thenDo (execTimes i k s) (exec i) := by
  induction k generalizing s with
  | zero => cases h : exec i s <;> simp [execTimes, h]
  | succ k ih =>
    rw [execTimes, execTimes, thenDo_assoc]
    exact congrArg (thenDo (exec i s)) (funext ih)

theorem toNat_count_countDown {s : State} (h : s.count ≠ 0) :
    s.countDown.count.toNat = s.count.toNat - 1 := by
  have hlt : s.count.toNat < 2 ^ s.adsz.bits := readIndex_lt s s.adsz .ecx
  rw [Ne, ← BitVec.toNat_inj] at h
  rw [count_countDown]
  rcases size_cases s.adsz with hz | hz <;>
    simp only [hz, BitVec.toNat_setWidth, BitVec.toNat_sub, BitVec.ofNat_eq_ofNat,
      BitVec.toNat_ofNat] at h hlt ⊢ <;> omega

/-- The state after `k` elements of a repeated operation without a comparison, but for EIP. -/
structure AfterElements (o : StringOp) (w : Width) (s : State) (k : Nat) (t : State) : Prop where
  csD : t.csD = s.csD
  pfx : t.pfx = s.pfx
  nextEip : t.nextEip = s.nextEip
  flags : t.flags = s.flags
  count : t.count.toNat = s.count.toNat - k
  index : ∀ r, r ≠ .eax → r ≠ .ecx → t.readIndex s.adsz r = s.indexAt r (o.shift r (k * s.stride w))

theorem afterElements_zero (o : StringOp) (w : Width) (s : State) : AfterElements o w s 0 s :=
  ⟨rfl, rfl, rfl, rfl, rfl, fun r _ _ => by simp [StringOp.shift, indexAt_zero]⟩

theorem elementWidth_congr {s t : State} (h1 : t.csD = s.csD) (h2 : t.pfx = s.pfx) (f : StringForm) :
    t.elementWidth f = s.elementWidth f := by
  cases f
  · rfl
  · exact congrArg Size.width (opsz_congr h1 h2)

/-- MOVS, STOS and LODS change no flag. -/
theorem StringOp.prim_flags {o : StringOp} (h : o = .movs ∨ o = .stos ∨ o = .lods) (w : Width) (s : State) :
    (o.prim w s).flags = s.flags := by
  obtain rfl | rfl | rfl := h <;> rfl

/-- One more element, whatever EIP then is. -/
theorem AfterElements.succ {o : StringOp} {w : Width} {s t : State} {k : Nat}
    (h : AfterElements o w s k t) (ho : o = .movs ∨ o = .stos ∨ o = .lods) (hc : t.count ≠ 0)
    (eip : BitVec 32) : AfterElements o w s (k + 1) { (o.prim w t).countDown with eip := eip } := by
  obtain ⟨hcsD, hpfx, hnext, hflags, hcount, hindex⟩ := h
  obtain ⟨hcsD', hpfx', -, hnext'⟩ := StringOp.prim_frame o w t
  refine ⟨hcsD'.trans hcsD, hpfx'.trans hpfx, hnext'.trans hnext, (StringOp.prim_flags ho w t).trans hflags, ?_,
    fun r ha hecx => ?_⟩
  · refine (toNat_count_countDown ((StringOp.count_prim o w t).symm ▸ hc)).trans ?_
    rw [StringOp.count_prim, hcount, Nat.sub_sub]
  · have hz : t.adsz = s.adsz := adsz_congr hcsD hpfx
    have hstride : t.stride w = s.stride w := by simp only [State.stride, hflags]
    refine (readIndex_writeIndex_of_ne (o.prim w t) s.adsz _ _ hecx).trans ?_
    rw [← hz, StringOp.readIndex_prim o w t ha, indexAt_of_readIndex_eq hz (hindex r ha hecx),
      StringOp.shift_add_shift, hstride]
    congr 2
    push_cast
    ring

/-- One more execution: EIP goes past the instruction with the last element. -/
theorem AfterElements.exec_succ {o : StringOp} {f : StringForm} {s t : State} {k : Nat}
    (h : AfterElements o (s.elementWidth f) s k t) (ho : o = .movs ∨ o = .stos ∨ o = .lods)
    (hr : s.pfx.rep ≠ .none) (hk : k < s.count.toNat) :
    ∃ u, exec (o.instr f) t = .next u ∧ AfterElements o (s.elementWidth f) s (k + 1) u ∧
      u.eip = if k + 1 = s.count.toNat then s.nextEip else t.eip := by
  have hw : t.elementWidth f = s.elementWidth f := elementWidth_congr h.csD h.pfx f
  have hcount : t.count.toNat = s.count.toNat - k := h.count
  have hc : t.count ≠ 0 := fun h0 => by
    have h0' : t.count.toNat = 0 := congrArg BitVec.toNat h0
    omega
  have hcmp : o.compares = false := by obtain rfl | rfl | rfl := ho <;> rfl
  have hlast : t.count = 1#32 ↔ k + 1 = s.count.toNat := by
    rw [← BitVec.toNat_inj, hcount, BitVec.toNat_ofNat]
    omega
  refine ⟨_, hw ▸ exec_stringOp_repeated o f (h.pfx ▸ hr) hc, h.succ ho hc _, ?_⟩
  simp [hcmp, hlast, h.nextEip]

/-- Short of the count, every execution goes back to the instruction. -/
theorem execTimes_stringOp {o : StringOp} {f : StringForm} {s : State}
    (ho : o = .movs ∨ o = .stos ∨ o = .lods) (hr : s.pfx.rep ≠ .none) {k : Nat} (hk : k < s.count.toNat) :
    ∃ t, execTimes (o.instr f) k s = .next t ∧ t.eip = s.eip ∧
      AfterElements o (s.elementWidth f) s k t := by
  induction k with
  | zero => exact ⟨s, rfl, rfl, afterElements_zero o _ s⟩
  | succ k ih =>
    obtain ⟨t, ht, heip, hafter⟩ := ih (Nat.lt_of_succ_lt hk)
    obtain ⟨u, hu, hnext, he⟩ := hafter.exec_succ ho hr (Nat.lt_of_succ_lt hk)
    rw [execTimes_succ, ht]
    exact ⟨u, hu, he.trans ((if_neg hk.ne).trans heip), hnext⟩

/-- Settles O46: the executions short of the count go back, and one more is the last. -/
theorem repeatRuns : Obligations.RepeatRuns := by
  intro f i s hi hr hc n bytes offset
  obtain ⟨o, rfl, ho⟩ : ∃ o : StringOp, i = o.instr f ∧ (o = .movs ∨ o = .stos ∨ o = .lods) := by
    obtain rfl | rfl | rfl := hi
    exacts [⟨.movs, rfl, .inl rfl⟩, ⟨.stos, rfl, .inr (.inl rfl)⟩, ⟨.lods, rfl, .inr (.inr rfl)⟩]
  have hn : n ≠ 0 := fun h0 => hc (BitVec.eq_of_toNat_eq h0)
  refine ⟨fun k _ hk => ?_, ?_⟩
  · obtain ⟨t, ht, heip, hafter⟩ := execTimes_stringOp ho hr hk
    exact ⟨t, ht, heip, hafter.count⟩
  · obtain ⟨k, hk⟩ := Nat.exists_eq_succ_of_ne_zero hn
    have hlt : k < s.count.toNat := Nat.lt_of_lt_of_eq k.lt_succ_self hk.symm
    obtain ⟨t, ht, -, hafter⟩ := execTimes_stringOp ho hr hlt
    obtain ⟨u, hu, hlast, he⟩ := hafter.exec_succ ho hr hlt
    have hrun : execTimes (o.instr f) n s = .next u := by
      rw [hk, execTimes_succ, ht]
      exact hu
    have hcount : u.count = 0 := BitVec.eq_of_toNat_eq (hlast.count.trans (Nat.sub_eq_zero_of_le hk.le))
    have hindex := (hk ▸ hlast : AfterElements o (s.elementWidth f) s n u).index
    refine ⟨u, hrun, he.trans (if_pos hk.symm), hcount, hlast.flags,
      (hindex .esi (by decide) (by decide)).trans ?_, (hindex .edi (by decide) (by decide)).trans ?_⟩
    · obtain rfl | rfl | rfl := ho
      · rfl
      · exact (indexAt_zero s .esi).trans (if_pos rfl).symm
      · rfl
    · obtain rfl | rfl | rfl := ho
      · rfl
      · rfl
      · exact (indexAt_zero s .edi).trans (if_pos rfl).symm

end Sys2Proof.Machine
end

section
/-! Decoding after encoding: one lemma per form type. In each row the encoding is written as its opcode
byte and its fields, the opcode byte selects the row of the map, and the laws of the fields take the
operands back, whatever bytes follow. -/

namespace Sys2Proof

open WellFormed

section
variable {z a : Size} (rest : List Byte)

/-! ### Arithmetic, logic and shifts -/

theorem decode_encode_alu {f : AluForm} (h : aluFormOk z a f = true) :
    ∀ op ∈ [Instr.add, .or, .adc, .sbb, .and, .sub, .xor, .cmp],
      decode z a (encode z a (op f) ++ rest) = some (op f, rest) := by
  intro op hop
  fin_cases hop
  all_goals
    cases f with
    | rmbRb rm r | rmwRw rm r | rbRmb r rm | rwRmw r rm =>
      change decode z a (_ :: (putRM _ _ ++ _)) = _
      simp [decode, one0, one1, one2, one3, takeRM_putRM h]
    | alIb imm => rfl
    | axIw imm =>
      change decode z a (_ :: (putImm _ _ ++ _)) = _
      simp [decode, one0, one1, one2, one3, takeImm_putImm h]
    | rmbIb rm imm | rmwIb rm imm =>
      change decode z a (_ :: (putRM _ _ ++ _ ++ _)) = _
      simp [decode, one8, takeRM_putRM h]
    | rmwIw rm imm =>
      obtain ⟨hrm, himm⟩ := Bool.and_eq_true_iff.1 h
      change decode z a (_ :: (putRM _ _ ++ _ ++ _)) = _
      simp [decode, one8, takeRM_putRM hrm, takeImm_putImm himm]

theorem decode_encode_test {f : TestForm} (h : testFormOk z a f = true) :
    decode z a (encode z a (.test f) ++ rest) = some (.test f, rest) := by
  cases f with
  | rmbRb rm r | rmwRw rm r =>
    change decode z a (_ :: (putRM _ _ ++ _)) = _
    simp [decode, one8, takeRM_putRM h]
  | alIb imm => rfl
  | axIw imm =>
    change decode z a (_ :: (putImm _ _ ++ _)) = _
    simp [decode, oneA, takeImm_putImm h]
  | rmbIb rm imm =>
    change decode z a (_ :: (putRM _ _ ++ _ ++ _)) = _
    simp [decode, oneF, takeRM_putRM h]
  | rmwIw rm imm =>
    obtain ⟨hrm, himm⟩ := Bool.and_eq_true_iff.1 h
    change decode z a (_ :: (putRM _ _ ++ _ ++ _)) = _
    simp [decode, oneF, takeRM_putRM hrm, takeImm_putImm himm]

theorem decode_encode_step {f : StepForm} (h : stepFormOk a f = true) :
    ∀ op ∈ [Instr.inc, .dec], decode z a (encode z a (op f) ++ rest) = some (op f, rest) := by
  intro op hop
  fin_cases hop
  all_goals
    cases f with
    | rw r => cases r <;> rfl
    | rmb rm | rmw rm =>
      change decode z a (_ :: (putRM _ _ ++ _)) = _
      simp [decode, oneF, takeRM_putRM h]

theorem decode_encode_unary {f : UnaryForm} (h : unaryFormOk a f = true) :
    ∀ op ∈ [Instr.not, .neg, .mul, .div, .idiv],
      decode z a (encode z a (op f) ++ rest) = some (op f, rest) := by
  intro op hop
  fin_cases hop
  all_goals
    cases f with
    | rmb rm | rmw rm =>
      change decode z a (_ :: (putRM _ _ ++ _)) = _
      simp [decode, oneF, takeRM_putRM h]

theorem decode_encode_imul {f : ImulForm} (h : imulFormOk z a f = true) :
    decode z a (encode z a (.imul f) ++ rest) = some (.imul f, rest) := by
  cases f with
  | rmb rm | rmw rm =>
    change decode z a (_ :: (putRM _ _ ++ _)) = _
    simp [decode, oneF, takeRM_putRM h]
  | rwRmw r rm =>
    change decode z a (_ :: _ :: (putRM _ _ ++ _)) = _
    simp [decode, decodeTwo, twoA, takeRM_putRM h]
  | rwRmwIw r rm imm =>
    obtain ⟨hrm, himm⟩ := Bool.and_eq_true_iff.1 h
    change decode z a (_ :: (putRM _ _ ++ _ ++ _)) = _
    simp [decode, one6, takeRM_putRM hrm, takeImm_putImm himm]
  | rwRmwIb r rm imm =>
    change decode z a (_ :: (putRM _ _ ++ _ ++ _)) = _
    simp [decode, one6, takeRM_putRM h]

theorem decode_encode_shift {f : ShiftForm} (h : shiftFormOk a f = true) :
    ∀ op ∈ [Instr.rol, .ror, .rcl, .rcr, .shl, .shr, .sar],
      decode z a (encode z a (op f) ++ rest) = some (op f, rest) := by
  intro op hop
  fin_cases hop
  all_goals
    cases f with
    | rmbIb rm imm | rmwIb rm imm =>
      change decode z a (_ :: (putRM _ _ ++ _ ++ _)) = _
      simp [decode, oneC, takeRM_putRM h]
    | rmbOne rm | rmwOne rm | rmbCl rm | rmwCl rm =>
      change decode z a (_ :: (putRM _ _ ++ _)) = _
      simp [decode, oneD, takeRM_putRM h]

theorem decode_encode_doubleShift {f : DoubleShiftForm} (h : doubleShiftFormOk a f = true) :
    ∀ op ∈ [Instr.shld, .shrd], decode z a (encode z a (op f) ++ rest) = some (op f, rest) := by
  intro op hop
  fin_cases hop
  all_goals
    cases f with
    | ib rm r imm =>
      change decode z a (_ :: _ :: (putRM _ _ ++ _ ++ _)) = _
      simp [decode, decodeTwo, twoA, takeRM_putRM h]
    | cl rm r =>
      change decode z a (_ :: _ :: (putRM _ _ ++ _)) = _
      simp [decode, decodeTwo, twoA, takeRM_putRM h]

theorem decode_encode_bit {f : BitForm} (h : bitFormOk a f = true) :
    ∀ op ∈ [Instr.bt, .bts, .btr, .btc],
      decode z a (encode z a (op f) ++ rest) = some (op f, rest) := by
  intro op hop
  fin_cases hop
  all_goals
    cases f with
    | rmwRw rm r =>
      change decode z a (_ :: _ :: (putRM _ _ ++ _)) = _
      simp [decode, decodeTwo, twoA, twoB, takeRM_putRM h]
    | rmwIb rm imm =>
      change decode z a (_ :: _ :: (putRM _ _ ++ _ ++ _)) = _
      simp [decode, decodeTwo, twoB, takeRM_putRM h]

theorem decode_encode_scan {r : Reg} {rm : RM} (h : rmOk a rm = true) :
    ∀ op ∈ [Instr.bsf, .bsr], decode z a (encode z a (op r rm) ++ rest) = some (op r rm, rest) := by
  intro op hop
  fin_cases hop
  all_goals
    change decode z a (_ :: _ :: (putRM _ _ ++ _)) = _
    simp [decode, decodeTwo, twoB, takeRM_putRM h]

theorem decode_encode_setcc {rm : RM} (h : rmOk a rm = true) :
    ∀ op ∈ [Instr.seto, .setno, .setb, .setnb, .setz, .setnz, .setbe, .setnbe, .sets, .setns, .setp,
        .setnp, .setl, .setnl, .setle, .setnle],
      decode z a (encode z a (op rm) ++ rest) = some (op rm, rest) := by
  intro op hop
  fin_cases hop
  all_goals
    change decode z a (_ :: _ :: (putRM _ _ ++ _)) = _
    simp [decode, decodeTwo, two9, takeRM_putRM h]

/-! ### Transfers -/

theorem decode_encode_mov {f : MovForm} (h : movFormOk z a f = true) :
    decode z a (encode z a (.mov f) ++ rest) = some (.mov f, rest) := by
  cases f with
  | rmbRb rm r | rmwRw rm r | rbRmb r rm | rwRmw r rm | rmwSreg rm sr =>
    change decode z a (_ :: (putRM _ _ ++ _)) = _
    simp [decode, one8, takeRM_putRM h]
  | sregRmw sr rm =>
    obtain ⟨hsr, hrm⟩ := Bool.and_eq_true_iff.1 h
    change decode z a (_ :: (putRM _ _ ++ _)) = _
    cases sr <;> simp_all [decode, one8, takeRM_putRM hrm]
  | alMoffs off | axMoffs off | moffsAl off | moffsAx off =>
    change decode z a (_ :: (putImm _ _ ++ _)) = _
    simp [decode, oneA, takeImm_putImm h]
  | rbIb r imm => cases r <;> rfl
  | rwIw r imm =>
    change decode z a (_ :: (putImm _ _ ++ _)) = _
    cases r <;> exact takeImm_putImm h rest fun v bs => some (.mov (.rwIw _ v), bs)
  | rmbIb rm imm =>
    change decode z a (_ :: (putRM _ _ ++ _ ++ _)) = _
    simp [decode, oneC, takeRM_putRM h]
  | rmwIw rm imm =>
    obtain ⟨hrm, himm⟩ := Bool.and_eq_true_iff.1 h
    change decode z a (_ :: (putRM _ _ ++ _ ++ _)) = _
    simp [decode, oneC, takeRM_putRM hrm, takeImm_putImm himm]
  | r32Crn r c | crnR32 c r | r32Drn r c | drnR32 c r =>
    change decode z a (_ :: _ :: _ :: _) = _
    simp [decode, decodeTwo, two2]

theorem decode_encode_xchg {f : XchgForm} (h : xchgFormOk a f = true) :
    decode z a (encode z a (.xchg f) ++ rest) = some (.xchg f, rest) := by
  cases f with
  | rmbRb rm r | rmwRw rm r =>
    change decode z a (_ :: (putRM _ _ ++ _)) = _
    simp [decode, one8, takeRM_putRM h]
  | axRw r =>
    cases r with
    | eax => exact nomatch h
    | _ => rfl

theorem decode_encode_extend {f : ExtendForm} (h : extendFormOk a f = true) :
    ∀ op ∈ [Instr.movzx, .movsx], decode z a (encode z a (op f) ++ rest) = some (op f, rest) := by
  intro op hop
  fin_cases hop
  all_goals
    cases f with
    | rmb r rm | rmw16 r rm =>
      change decode z a (_ :: _ :: (putRM _ _ ++ _)) = _
      simp [decode, decodeTwo, twoB, takeRM_putRM h]

theorem decode_encode_push {f : PushForm} (h : pushFormOk z a f = true) :
    decode z a (encode z a (.push f) ++ rest) = some (.push f, rest) := by
  cases f with
  | sreg sr => cases sr <;> rfl
  | rw r => cases r <;> rfl
  | ib imm => rfl
  | iw imm =>
    change decode z a (_ :: (putImm _ _ ++ _)) = _
    simp [decode, one6, takeImm_putImm h]
  | rmw rm =>
    change decode z a (_ :: (putRM _ _ ++ _)) = _
    simp [decode, oneF, takeRM_putRM h]

theorem decode_encode_pop {f : PopForm} (h : popFormOk a f = true) :
    decode z a (encode z a (.pop f) ++ rest) = some (.pop f, rest) := by
  cases f with
  | sreg sr =>
    cases sr with
    | cs => exact nomatch h
    | _ => rfl
  | rw r => cases r <;> rfl
  | rmw rm =>
    change decode z a (_ :: (putRM _ _ ++ _)) = _
    simp [decode, one8, takeRM_putRM h]

/-- The rows with a register and a memory operand. -/
theorem decode_encode_regMem {r : Reg} {m : MemOp} (h : memOk a m = true) :
    ∀ op ∈ [Instr.bound, .lea, .les, .lds, .lss, .lfs, .lgs],
      decode z a (encode z a (op r m) ++ rest) = some (op r m, rest) := by
  have one : ∀ op ∈ [Instr.bound, .lea, .les, .lds],
      decode z a (encode z a (op r m) ++ rest) = some (op r m, rest) := by
    intro op hop
    fin_cases hop
    all_goals
      change decode z a (_ :: (putM _ _ ++ _)) = _
      simp [decode, one6, one8, oneC, takeM_putM h]
  have two : ∀ op ∈ [Instr.lss, .lfs, .lgs],
      decode z a (encode z a (op r m) ++ rest) = some (op r m, rest) := by
    intro op hop
    fin_cases hop
    all_goals
      change decode z a (_ :: _ :: (putM _ _ ++ _)) = _
      simp [decode, decodeTwo, twoB, takeM_putM h]
  exact List.forall_mem_append.2 ⟨one, two⟩

/-! ### Control transfer -/

theorem decode_encode_jcc {f : JccForm} (h : jccFormOk z f = true) :
    ∀ op ∈ [Instr.jo, .jno, .jb, .jnb, .jz, .jnz, .jbe, .jnbe, .js, .jns, .jp, .jnp, .jl, .jnl, .jle,
        .jnle],
      decode z a (encode z a (op f) ++ rest) = some (op f, rest) := by
  intro op hop
  fin_cases hop
  all_goals
    cases f with
    | jb rel => rfl
    | jw rel =>
      change decode z a (_ :: _ :: (putImm _ _ ++ _)) = _
      simp [decode, decodeTwo, two8, takeRel_putImm h]

theorem decode_encode_jmp {f : JmpForm} (h : jmpFormOk z a f = true) :
    decode z a (encode z a (.jmp f) ++ rest) = some (.jmp f, rest) := by
  cases f with
  | jb rel => rfl
  | jw rel =>
    change decode z a (_ :: (putImm _ _ ++ _)) = _
    simp [decode, oneE, takeRel_putImm h]
  | pw off sel =>
    change decode z a (_ :: (putImm _ _ ++ _ ++ _)) = _
    simp [decode, oneE, takeImm_putImm h]
  | rmw rm =>
    change decode z a (_ :: (putRM _ _ ++ _)) = _
    simp [decode, oneF, takeRM_putRM h]
  | mp m =>
    change decode z a (_ :: (putM _ _ ++ _)) = _
    simp [decode, oneF, takeRM_putM h]

theorem decode_encode_call {f : CallForm} (h : callFormOk z a f = true) :
    decode z a (encode z a (.call f) ++ rest) = some (.call f, rest) := by
  cases f with
  | jw rel =>
    change decode z a (_ :: (putImm _ _ ++ _)) = _
    simp [decode, oneE, takeRel_putImm h]
  | pw off sel =>
    change decode z a (_ :: (putImm _ _ ++ _ ++ _)) = _
    simp [decode, one9, takeImm_putImm h]
  | rmw rm =>
    change decode z a (_ :: (putRM _ _ ++ _)) = _
    simp [decode, oneF, takeRM_putRM h]
  | mp m =>
    change decode z a (_ :: (putM _ _ ++ _)) = _
    simp [decode, oneF, takeRM_putM h]

theorem decode_encode_ret (f : RetForm) :
    ∀ op ∈ [Instr.ret, .retf], decode z a (encode z a (op f) ++ rest) = some (op f, rest) := by
  intro op hop
  fin_cases hop
  all_goals
    cases f with
    | plain => rfl
    | iw imm =>
      change decode z a (_ :: (put16 _ ++ _)) = _
      simp [decode, oneC]

theorem decode_encode_enter (imm16 : BitVec 16) (imm : BitVec 8) :
    decode z a (encode z a (.enter imm16 imm) ++ rest) = some (.enter imm16 imm, rest) := by
  change decode z a (_ :: (put16 _ ++ _ ++ _)) = _
  simp [decode, oneC]

/-! ### The FPU -/

theorem decode_encode_fArith {f : FArithForm} (h : fArithFormOk a f = true) :
    ∀ op ∈ [Instr.fadd, .fmul, .fsub, .fsubr, .fdiv, .fdivr],
      decode z a (encode z a (op f) ++ rest) = some (op f, rest) := by
  intro op hop
  fin_cases hop
  all_goals
    cases f with
    | mf32 m | mf64 m =>
      change decode z a (_ :: (putM _ _ ++ _)) = _
      simp [decode, oneD, takeRM_putM h]
    | st0St i | stSt0 i =>
      change decode z a (_ :: pack _ _ _ :: _) = _
      simp [decode, oneD, takeRM]

theorem decode_encode_fInt {f : FIntForm} (h : fIntFormOk a f = true) :
    ∀ op ∈ [Instr.fiadd, .fimul, .ficom, .ficomp, .fisub, .fisubr, .fidiv, .fidivr],
      decode z a (encode z a (op f) ++ rest) = some (op f, rest) := by
  intro op hop
  fin_cases hop
  all_goals
    cases f with
    | m32 m | m16 m =>
      change decode z a (_ :: (putM _ _ ++ _)) = _
      simp [decode, oneD, takeRM_putM h]

theorem decode_encode_fCom {f : FComForm} (h : fComFormOk a f = true) :
    ∀ op ∈ [Instr.fcom, .fcomp], decode z a (encode z a (op f) ++ rest) = some (op f, rest) := by
  intro op hop
  fin_cases hop
  all_goals
    cases f with
    | mf32 m | mf64 m =>
      change decode z a (_ :: (putM _ _ ++ _)) = _
      simp [decode, oneD, takeRM_putM h]
    | st i =>
      change decode z a (_ :: pack _ _ _ :: _) = _
      simp [decode, oneD, takeRM]

theorem decode_encode_fld {f : FldForm} (h : fldFormOk a f = true) :
    ∀ op ∈ [Instr.fld, .fstp], decode z a (encode z a (op f) ++ rest) = some (op f, rest) := by
  intro op hop
  fin_cases hop
  all_goals
    cases f with
    | mf32 m | mf64 m | mf80 m =>
      change decode z a (_ :: (putM _ _ ++ _)) = _
      simp [decode, oneD, takeRM_putM h]
    | st i =>
      change decode z a (_ :: pack _ _ _ :: _) = _
      simp [decode, oneD, takeRM]

theorem decode_encode_fst {f : FstForm} (h : fstFormOk a f = true) :
    decode z a (encode z a (.fst f) ++ rest) = some (.fst f, rest) := by
  cases f with
  | mf32 m | mf64 m =>
    change decode z a (_ :: (putM _ _ ++ _)) = _
    simp [decode, oneD, takeRM_putM h]
  | st i =>
    change decode z a (_ :: pack _ _ _ :: _) = _
    simp [decode, oneD, takeRM]

theorem decode_encode_fild {f : FildForm} (h : fildFormOk a f = true) :
    ∀ op ∈ [Instr.fild, .fistp], decode z a (encode z a (op f) ++ rest) = some (op f, rest) := by
  intro op hop
  fin_cases hop
  all_goals
    cases f with
    | m16 m | m32 m | m64 m =>
      change decode z a (_ :: (putM _ _ ++ _)) = _
      simp [decode, oneD, takeRM_putM h]

theorem decode_encode_fist {f : FistForm} (h : fistFormOk a f = true) :
    decode z a (encode z a (.fist f) ++ rest) = some (.fist f, rest) := by
  cases f with
  | m16 m | m32 m =>
    change decode z a (_ :: (putM _ _ ++ _)) = _
    simp [decode, oneD, takeRM_putM h]

theorem decode_encode_fnstsw {f : FnstswForm} (h : fnstswFormOk a f = true) :
    decode z a (encode z a (.fnstsw f) ++ rest) = some (.fnstsw f, rest) := by
  cases f with
  | m16 m =>
    change decode z a (_ :: (putM _ _ ++ _)) = _
    simp [decode, oneD, takeRM_putM h]
  | ax => rfl

/-- The FPU rows with a memory operand that have no form type. -/
theorem decode_encode_fpuMem {m : MemOp} (h : memOk a m = true) :
    ∀ op ∈ [Instr.fldenv, .fldcw, .fnstenv, .fnstcw, .frstor, .fnsave, .fbld, .fbstp],
      decode z a (encode z a (op m) ++ rest) = some (op m, rest) := by
  intro op hop
  fin_cases hop
  all_goals
    change decode z a (_ :: (putM _ _ ++ _)) = _
    simp [decode, oneD, takeRM_putM h]

/-- The FPU rows on one stack register that have no form type. -/
theorem decode_encode_fpuReg (i : StIndex) :
    ∀ op ∈ [Instr.fxch, .ffree, .fucom, .fucomp, .faddp, .fmulp, .fsubrp, .fsubp, .fdivrp, .fdivp],
      decode z a (encode z a (op i) ++ rest) = some (op i, rest) := by
  intro op hop
  fin_cases hop
  all_goals
    change decode z a (_ :: pack _ _ _ :: _) = _
    simp [decode, oneD, takeRM]

end

/-- Settles O2, form type by form type; the rows without operands or with byte fields only are read off
as they stand. -/
theorem decodeEncode : Obligations.DecodeEncode := by
  intro z a i rest h
  cases i with
  | add f | or f | adc f | sbb f | and f | sub f | xor f | cmp f =>
    exact decode_encode_alu rest h _ (by simp)
  | test f => exact decode_encode_test rest h
  | inc f | dec f => exact decode_encode_step rest h _ (by simp)
  | not f | neg f | mul f | div f | idiv f => exact decode_encode_unary rest h _ (by simp)
  | imul f => exact decode_encode_imul rest h
  | rol f | ror f | rcl f | rcr f | shl f | shr f | sar f =>
    exact decode_encode_shift rest h _ (by simp)
  | shld f | shrd f => exact decode_encode_doubleShift rest h _ (by simp)
  | bt f | bts f | btr f | btc f => exact decode_encode_bit rest h _ (by simp)
  | bsf r rm | bsr r rm => exact decode_encode_scan rest h _ (by simp)
  | seto rm | setno rm | setb rm | setnb rm | setz rm | setnz rm | setbe rm | setnbe rm | sets rm
  | setns rm | setp rm | setnp rm | setl rm | setnl rm | setle rm | setnle rm =>
    exact decode_encode_setcc rest h _ (by simp)
  | mov f => exact decode_encode_mov rest h
  | xchg f => exact decode_encode_xchg rest h
  | movzx f | movsx f => exact decode_encode_extend rest h _ (by simp)
  | push f => exact decode_encode_push rest h
  | pop f => exact decode_encode_pop rest h
  | bound r m | lea r m | les r m | lds r m | lss r m | lfs r m | lgs r m =>
    exact decode_encode_regMem rest h _ (by simp)
  | jo f | jno f | jb f | jnb f | jz f | jnz f | jbe f | jnbe f | js f | jns f | jp f | jnp f | jl f
  | jnl f | jle f | jnle f => exact decode_encode_jcc rest h _ (by simp)
  | jmp f => exact decode_encode_jmp rest h
  | call f => exact decode_encode_call rest h
  | ret f | retf f => exact decode_encode_ret rest f _ (by simp)
  | enter imm16 imm => exact decode_encode_enter rest imm16 imm
  | ins f | outs f | movs f | cmps f | stos f | lods f | scas f | inp f | out f => cases f <;> rfl
  | fadd f | fmul f | fsub f | fsubr f | fdiv f | fdivr f =>
    exact decode_encode_fArith rest h _ (by simp)
  | fiadd f | fimul f | ficom f | ficomp f | fisub f | fisubr f | fidiv f | fidivr f =>
    exact decode_encode_fInt rest h _ (by simp)
  | fcom f | fcomp f => exact decode_encode_fCom rest h _ (by simp)
  | fld f | fstp f => exact decode_encode_fld rest h _ (by simp)
  | fst f => exact decode_encode_fst rest h
  | fild f | fistp f => exact decode_encode_fild rest h _ (by simp)
  | fist f => exact decode_encode_fist rest h
  | fnstsw f => exact decode_encode_fnstsw rest h
  | fldenv m | fldcw m | fnstenv m | fnstcw m | frstor m | fnsave m | fbld m | fbstp m =>
    exact decode_encode_fpuMem rest h _ (by simp)
  | fxch i | ffree i | fucom i | fucomp i | faddp i | fmulp i | fsubrp i | fsubp i | fdivrp i
  | fdivp i => exact decode_encode_fpuReg rest i _ (by simp)
  | _ => rfl

end Sys2Proof
end

section
/-! Words of the opcode map, and the flag instructions. -/

namespace Sys2Proof.Machine

/-- Settles O1: each word is decoded as it stands. -/
theorem decodeWords : Obligations.DecodeWords :=
  ⟨rfl, rfl, rfl, rfl, rfl, rfl, rfl, rfl, rfl, rfl, rfl, rfl, rfl, rfl, rfl, rfl, rfl, rfl⟩

/-- Settles O47: the arms of `exec` and the rows F5 and F8 to FD. -/
theorem flagInstructions : Obligations.FlagInstructions :=
  fun _ => ⟨⟨rfl, rfl, rfl, rfl, rfl⟩, fun _ _ _ => ⟨rfl, rfl, rfl, rfl, rfl⟩⟩

/-- Settles O17: the template of the ALU operations writes `op`'s result and flags, which are sums and
differences with the carry as a number. -/
theorem aluResults : Obligations.AluResults := by
  refine ⟨fun s rm r ib iw => ⟨rfl, rfl, rfl, rfl, rfl, rfl, rfl, rfl, rfl⟩, fun f s => ?_⟩
  intro x logic cf
  have wrote {v : BitVec x.w.bits} {g : Flags} (out : BitVec x.w.bits × Flags) (hv : out.1 = v)
      (hg : out.2 = g) : ∃ t, s.finishRM x.w x.dst out = .next t ∧ Wrote s t x.w x.dst v g :=
    hv ▸ hg ▸ finishRM_wrote s x.w x.dst out
  have add0 : (flagsAdd s.flags x.a x.b false).1 = x.a + x.b := by simp [flagsAdd_fst]
  exact ⟨wrote _ add0 rfl, wrote _ (flagsAdd_fst ..) rfl, wrote _ (flagsSub_fst ..) rfl,
    wrote _ (flagsSub_borrow_fst ..) rfl, wrote _ rfl (flagsLogic_eq ..), wrote _ rfl (flagsLogic_eq ..),
    wrote _ rfl (flagsLogic_eq ..)⟩

end Sys2Proof.Machine
end

section
/-! MOV between registers, memory, immediates, control and debug registers. -/

namespace Sys2Proof.Machine

/-- Settles O28: every form writes one operand, or replaces one control or debug register. -/
theorem moves : Obligations.Moves := by
  intro s w put store
  have wrote (w : Width) (rm : RM) (v : BitVec w.bits) :
      Wrote s (s.writeRM w rm v).retire w rm v s.flags := wrote_writeRM s w rm v s.flags
  have stored (w : Width) (a : BitVec 32) (v : BitVec w.bits) :
      let t := (s.memWrite w a v).retire
      t.eip = s.nextEip ∧ t.memRead w a = v ∧ t.flags = s.flags ∧ t.gpr = s.gpr ∧
        SameMemExcept a w.bytes s t ∧ SameRest s t :=
    ⟨rfl, memRead_memWrite s w a v, rfl, rfl, sameMemExcept_memWrite s w a v,
      sameRest_memWrite s w a v⟩
  exact ⟨fun off => BitVec.toNat_add _ _, fun rm r => ⟨_, rfl, wrote ..⟩, fun rm r => ⟨_, rfl, wrote ..⟩,
    fun rm r => ⟨_, rfl, wrote _ (.reg r) _⟩, fun rm r => ⟨_, rfl, wrote _ (.reg r) _⟩,
    fun off => ⟨_, rfl, wrote _ (.reg .eax) _⟩, fun off => ⟨_, rfl, wrote _ (.reg .eax) _⟩,
    fun off => ⟨_, rfl, stored ..⟩, fun off => ⟨_, rfl, stored ..⟩,
    fun r imm => ⟨_, rfl, wrote _ (.reg r) _⟩, fun r imm => ⟨_, rfl, wrote _ (.reg r) _⟩,
    fun rm imm => ⟨_, rfl, wrote ..⟩, fun rm imm => ⟨_, rfl, wrote ..⟩,
    fun r c => ⟨_, rfl, wrote _ (.reg r) _⟩, fun r d => ⟨_, rfl, wrote _ (.reg r) _⟩,
    fun c r => ⟨_, rfl, Ctl.get_set_self .., fun _ => Ctl.get_set_of_ne _ _⟩,
    fun d r => ⟨_, rfl, Dbg.get_set_self .., fun _ => Dbg.get_set_of_ne _ _⟩⟩

end Sys2Proof.Machine
end


section
/-! The slots of the FPU stack, and its status and tag words (R46 to R53, R531, R532). -/

namespace Sys2Proof.Machine

section
variable (f : Fpu)

/-! ### Slots (R46 to R48) -/

@[simp] theorem Fpu.reg_setReg_self (k : BitVec 3) (v : F64) : (f.setReg k v).reg k = v := by
  simp [Fpu.reg, Fpu.setReg]

theorem Fpu.reg_setReg_of_ne {k q : BitVec 3} (v : F64) (h : q ≠ k) : (f.setReg k v).reg q = f.reg q :=
  Vector.getElem_set_ne k.isLt q.isLt fun e => h (BitVec.eq_of_toNat_eq e.symm)

@[simp] theorem Fpu.used_setReg (k q : BitVec 3) (v : F64) : (f.setReg k v).used q = f.used q := rfl

@[simp] theorem Fpu.used_setUsed_self (k : BitVec 3) (u : Bool) : (f.setUsed k u).used k = u := by
  simp [Fpu.used, Fpu.setUsed]

theorem Fpu.used_setUsed_of_ne {k q : BitVec 3} (u : Bool) (h : q ≠ k) :
    (f.setUsed k u).used q = f.used q :=
  Vector.getElem_set_ne k.isLt q.isLt fun e => h (BitVec.eq_of_toNat_eq e.symm)

@[simp] theorem Fpu.reg_setUsed (k q : BitVec 3) (u : Bool) : (f.setUsed k u).reg q = f.reg q := rfl

@[simp] theorem Fpu.setUsed_used (k : BitVec 3) : f.setUsed k (f.used k) = f := by
  simp [Fpu.used, Fpu.setUsed]

@[simp] theorem Fpu.slot_zero : f.slot 0 = f.FTOP := BitVec.add_zero _

theorem Fpu.st_zero : f.st 0 = f.reg f.FTOP := congrArg f.reg f.slot_zero

/-- A push sets the used bit and the value of the new top, whether it was used or not (R531). -/
theorem Fpu.push_eq (v : F64) :
    f.push v = ({ f with FTOP := f.FTOP - 1 }.setUsed (f.FTOP - 1) true).setReg (f.FTOP - 1) v := by
  have keep (g : Fpu) (h : g.used g.FTOP = true) : g.setUsed g.FTOP true = g :=
    (congrArg (g.setUsed g.FTOP) h).symm.trans (g.setUsed_used g.FTOP)
  change (if _ then Fpu.setReg _ _ v else _) = _
  split
  · next h => exact congrArg (Fpu.setReg · _ v) (keep _ h).symm
  · rfl

/-- Settles O50: a pop clears one used bit and moves the top. -/
theorem fpuPop : Obligations.FpuPop := by
  refine fun f => ⟨rfl, f.used_setUsed_self _ _, fun k hk => f.used_setUsed_of_ne _ hk, fun k => rfl,
    fun i => ?_, rfl, rfl, rfl, rfl, rfl⟩
  have h : f.FTOP + 1 + i = f.FTOP + (i + 1) := by rw [BitVec.add_assoc, BitVec.add_comm 1]
  exact congrArg f.reg h

/-! ### Status and tag words (R51, R53) -/

theorem Fpu.statusWord_writeStatus (v : BitVec 16) : (f.writeStatus v).statusWord = v &&& 0x7F00 := by
  apply BitVec.eq_of_getLsbD_eq
  intro i hi
  interval_cases i <;> simp [Fpu.statusWord, Fpu.writeStatus]

theorem extractLsb'_two_bne (v : BitVec 16) (n : Nat) :
    (v.extractLsb' n 2 != 3) = (v >>> n &&& 3 != 3) := by
  have h : (v.extractLsb' n 2).toNat = (v >>> n &&& 3).toNat := by
    rw [BitVec.extractLsb'_toNat, BitVec.toNat_and, BitVec.toNat_ushiftRight]
    exact (Nat.and_two_pow_sub_one_eq_mod _ 2).symm
  rw [Bool.eq_iff_iff, bne_iff_ne, bne_iff_ne, Ne, Ne, ← BitVec.toNat_inj, ← BitVec.toNat_inj, h]
  rfl

/-- A written tag word sets the used bits only, those of codes other than 3. -/
theorem Fpu.used_writeTags (v : BitVec 16) (k : BitVec 3) :
    (f.writeTags v).used k = (v >>> (2 * k.toNat) &&& 3 != 3) := by
  rw [← extractLsb'_two_bne]
  simp [Fpu.used, Fpu.writeTags]

end

end Sys2Proof.Machine
end

section
/-! The FPU instructions: loads, arithmetic, operations on the top of the stack, and what every one of
them leaves alone. -/

namespace Sys2Proof.Machine

/-! ### Loads (R531, R540 to R561) -/

/-- Packed BCD bytes in memory as a sum of digits, two to a byte (R552). -/
theorem bcdValue_readBytes (m : Memory) (n : Nat) (a : BitVec 32) : bcdValue (m.readBytes a n) =
    ((List.range (2 * n)).map fun k =>
      (m.get (a + BitVec.ofNat 32 (k / 2)).toNat).toNat / 16 ^ (k % 2) % 16 * 10 ^ k).sum := by
  induction n generalizing a with
  | zero => rfl
  | succ n ih =>
    have next (k : Nat) : (m.get (a + BitVec.ofNat 32 ((k + 1 + 1) / 2)).toNat).toNat /
          16 ^ ((k + 1 + 1) % 2) % 16 * 10 ^ (k + 1 + 1) =
        100 * ((m.get (a + 1 + BitVec.ofNat 32 (k / 2)).toNat).toNat / 16 ^ (k % 2) % 16 * 10 ^ k) := by
      rw [add_ofNat_succ, show (k + 1 + 1) / 2 = k / 2 + 1 by omega, show (k + 1 + 1) % 2 = k % 2 by omega]
      ring
    have hb : (m.get a.toNat).toNat / 16 % 16 = (m.get a.toNat).toNat / 16 := by
      have := (m.get a.toNat).isLt
      omega
    rw [Memory.readBytes, bcdValue, ih, Nat.mul_succ, List.range_succ_eq_map, List.range_succ_eq_map]
    simp only [List.map_cons, List.map_map, List.sum_cons, Function.comp_def, Nat.succ_eq_add_one, next,
      List.sum_map_mul_left]
    simp [hb]
    ring

theorem bcdToF64_readBytes (m : Memory) (a : BitVec 32) : bcdToF64 (m.readBytes a 10) =
    round64 (m.get (a + 9).toNat).msb ((List.range 18).map fun k =>
      (m.get (a + BitVec.ofNat 32 (k / 2)).toNat).toNat / 16 ^ (k % 2) % 16 * 10 ^ k).sum 0 := by
  have hsplit : m.readBytes a 10 = m.readBytes a 9 ++ [m.get (a + 9).toNat] := m.readBytes_append a 9 1
  have hlen : (m.readBytes a 9).length = 9 := m.readBytes_length a 9
  rw [bcdToF64, hsplit, List.take_left' hlen, bcdValue_readBytes, List.getD_append_right _ _ _ _ hlen.le,
    hlen]
  rfl

/-- Settles O51: a push is `Fpu.push_eq`; each load is the push of its converted operand. -/
theorem fpuLoads : Obligations.FpuLoads := by
  refine ⟨fun f v => ?_, fun s => ?_⟩
  · rw [Fpu.push_eq]
    have slot (i : BitVec 3) : f.FTOP - 1 + (i + 1) = f.FTOP + i := by
      rw [BitVec.add_comm i, ← BitVec.add_assoc, BitVec.sub_add_cancel]
    have below (i : BitVec 3) (hi : i ≠ 7) : f.FTOP + i ≠ f.FTOP - 1 := fun e =>
      hi (add_left_cancel (e.trans (sub_eq_add_neg f.FTOP 1)))
    refine ⟨rfl, ?_, Fpu.used_setUsed_self _ _ _,
      fun k hk => ⟨Fpu.reg_setReg_of_ne _ _ hk, Fpu.used_setUsed_of_ne _ _ hk⟩, fun i hi => ?_,
      rfl, rfl, rfl, rfl, rfl⟩
    · exact (Fpu.st_zero _).trans (Fpu.reg_setReg_self _ _ _)
    · exact (congrArg _ (slot i)).trans (Fpu.reg_setReg_of_ne _ _ (below i hi))
  · exact ⟨fun m => rfl, fun m => rfl, fun m => rfl, fun i => rfl, fun m => rfl, fun m => rfl,
      fun m => rfl, fun m => congrArg (fpuLoad · s) (bcdToF64_readBytes _ _), rfl, rfl, rfl, rfl, rfl, rfl,
      rfl⟩

/-! ### Arithmetic (R601 to R619) -/

/-- Settles O53: every form is `setSt` on its destination, the popping forms pop after it. -/
theorem fpuArithmetic : Obligations.FpuArithmetic := by
  refine fun s => ⟨fun form => ?_, fun form => ?_, fun i => ⟨rfl, rfl, rfl, rfl, rfl, rfl⟩⟩
  · cases form <;> exact ⟨rfl, rfl, rfl, rfl, rfl, rfl⟩
  · cases form <;> exact ⟨rfl, rfl, rfl, rfl, rfl, rfl⟩

/-! ### Operations on the top of the stack (R640 to R657) -/

theorem testBit_eq_beq (q k : Nat) : q.testBit k = (q / 2 ^ k % 2 == 1) := by
  rw [Nat.testBit_eq_decide_div_mod_eq, beq_eq_decide]

/-- Settles O57: FXAM by the class of the top, the remainders by whether they have a quotient. -/
theorem fpuUnary : Obligations.FpuUnary := by
  intro s f x y gives codes
  have hx : f.reg f.FTOP = x := f.st_zero.symm
  have fxam (g : Fpu) (h : f.examine = g) : gives .fxam g := h ▸ rfl
  have used (h : f.used f.FTOP = true) : f.examine = match F64.cls x with
      | .nan => codes false false true
      | .normal => codes false true false
      | .infinity => codes false true true
      | .zero => codes true false false
      | .subnormal => codes true true false := by
    rw [Fpu.examine, if_pos h, hx]
    cases F64.cls x <;> rfl
  refine ⟨fun h => fxam _ ?_, fun h => ?_, rfl, rfl, rfl, rfl, rfl, rfl, fun nearest => ?_,
    rfl, rfl, rfl, rfl, rfl, rfl, rfl, rfl⟩
  · rw [Fpu.examine, if_neg (by simp [h]), hx]
    rfl
  · exact ⟨fun hc => fxam _ (by rw [used h, hc]), fun hc => fxam _ (by rw [used h, hc]),
      fun hc => fxam _ (by rw [used h, hc]), fun hc => fxam _ (by rw [used h, hc]),
      fun hc => fxam _ (by rw [used h, hc])⟩
  · intro r i
    have hi (c : Fpu) (h : (f.setSt 0 r.1).quotientCodes r.2 = c) : gives i c := by
      subst h
      cases nearest <;> rfl
    refine ⟨fun q hq => hi _ ?_, fun hq => hi _ ?_⟩
    · rw [hq, Fpu.quotientCodes, testBit_eq_beq, testBit_eq_beq, testBit_eq_beq, pow_zero, Nat.div_one]
      rfl
    · rw [hq]
      rfl

end Sys2Proof.Machine
end

section
/-! What an FPU instruction leaves alone (R530): it retires, and stores to its operand at most. -/

namespace Sys2Proof.Machine

/-- From `s` to `t` an FPU instruction retired that wrote no general register and stored at most the
operand and the number of bytes given. -/
def FpuFrame (s t : State) (store : Option (MemOp × Nat)) : Prop :=
  t.eip = s.nextEip ∧ t.flags = s.flags ∧ SameSegs s t ∧ SameSystem s t ∧ t.gpr = s.gpr ∧
    (store = none → t.mem = s.mem) ∧
    ∀ m n, store = some (m, n) → SameMemExcept (s.memAddr m) n s t

theorem FpuFrame.none (s : State) (g : Fpu) :
    FpuFrame s { s with eip := s.nextEip, fpu := g } none :=
  ⟨rfl, rfl, ⟨rfl, rfl, rfl⟩, ⟨rfl, rfl, rfl, rfl, rfl, rfl, rfl⟩, rfl, fun _ => rfl, nofun⟩

theorem FpuFrame.word (s : State) (w : Width) (m : MemOp) (v : BitVec w.bits) (g : Fpu) :
    FpuFrame s { s.memWrite w (s.memAddr m) v with eip := s.nextEip, fpu := g } (some (m, w.bytes)) := by
  refine ⟨rfl, rfl, ⟨rfl, rfl, rfl⟩, ⟨rfl, rfl, rfl, rfl, rfl, rfl, rfl⟩, rfl, nofun, ?_⟩
  rintro _ _ ⟨⟩
  exact sameMemExcept_memWrite s w _ v

theorem sameMemExcept_memWriteSpan (s : State) (a : BitVec 32) {n : Nat} {bs : List Byte}
    (hn : bs.length = n) (hle : n ≤ 2 ^ 32) : SameMemExcept a n s (s.memWriteSpan a bs) := fun p hp =>
  (s.mem.get_writeBytes a bs (hn ▸ hle) p).2 fun k hk e => hp ⟨k, hn ▸ hk, e⟩

theorem FpuFrame.span (s : State) (m : MemOp) {n : Nat} {bs : List Byte} (hn : bs.length = n)
    (hle : n ≤ 2 ^ 32) (g : Fpu) :
    FpuFrame s { s.memWriteSpan (s.memAddr m) bs with eip := s.nextEip, fpu := g } (some (m, n)) := by
  refine ⟨rfl, rfl, ⟨rfl, rfl, rfl⟩, ⟨rfl, rfl, rfl, rfl, rfl, rfl, rfl⟩, rfl, nofun, ?_⟩
  rintro _ _ ⟨⟩
  exact sameMemExcept_memWriteSpan s _ hn hle

/-! ### The lengths of what is stored -/

theorem bcdBytes_length (n v : Nat) : (bcdBytes n v).length = n := by
  induction n generalizing v with
  | zero => rfl
  | succ n ih => rw [bcdBytes, List.length_cons, ih]

theorem f64ToBcd_length (rc : BitVec 2) (x : F64) : (f64ToBcd rc x).length = 10 := by
  unfold f64ToBcd
  split
  · split
    · rw [List.length_append, bcdBytes_length, List.length_singleton]
    · rfl
  · rfl

theorem Fpu.envBytes_length (f : Fpu) (z : Size) : (f.envBytes z).length = envSize z := by
  cases z <;> simp [Fpu.envBytes, envSize]

theorem Fpu.saveBytes_length (f : Fpu) (z : Size) : (f.saveBytes z).length = envSize z + 80 := by
  simp [Fpu.saveBytes, f.envBytes_length, stIndexes]

theorem envSize_le (z : Size) : envSize z ≤ 28 := by cases z <;> decide

/-! ### Every FPU instruction -/

theorem exec_fpuFrame {i : Instr} (hi : isFpu i = true) (hax : i ≠ .fnstsw .ax) (s : State) :
    ∃ t, exec i s = .next t ∧ FpuFrame s t (fpuStore s.opsz i) := by
  have henv := envSize_le s.opsz
  cases i with
  | fadd f | fmul f | fsub f | fsubr f | fdiv f | fdivr f | fiadd f | fimul f | fisub f | fisubr f
  | fidiv f | fidivr f | faddp f | fmulp f | fsubp f | fsubrp f | fdivp f | fdivrp f => exact ⟨_, rfl, .none s _⟩
  | fcom f | fcomp f | ficom f | ficomp f | fucom f | fucomp f | fcompp | fucompp | ftst | fxam =>
    exact ⟨_, rfl, .none s _⟩
  | fld f | fild f => cases f <;> exact ⟨_, rfl, .none s _⟩
  | fbld m | fldenv m | fldcw m | frstor m => exact ⟨_, rfl, .none s _⟩
  | fld1 | fldl2t | fldl2e | fldpi | fldlg2 | fldln2 | fldz => exact ⟨_, rfl, .none s _⟩
  | fxch i | ffree i | fdecstp | fincstp | fnop | feni | fdisi | fsetpm | fnclex | fninit =>
    exact ⟨_, rfl, .none s _⟩
  | fchs | fabs | f2xm1 | fyl2x | fptan | fpatan | fxtract | fprem1 | fprem | fyl2xp1 | fsqrt | fsincos
  | frndint | fscale | fsin | fcos => exact ⟨_, rfl, .none s _⟩
  | fst f =>
    cases f with
    | mf32 m => exact ⟨_, rfl, .word s .w32 m _ _⟩
    | mf64 m => exact ⟨_, rfl, .span s m (leBytes_length 8 _) (by norm_num) _⟩
    | st i => exact ⟨_, rfl, .none s _⟩
  | fstp f =>
    cases f with
    | mf32 m => exact ⟨_, rfl, .word s .w32 m _ _⟩
    | mf64 m => exact ⟨_, rfl, .span s m (leBytes_length 8 _) (by norm_num) _⟩
    | mf80 m => exact ⟨_, rfl, .span s m (leBytes_length 10 _) (by norm_num) _⟩
    | st i => exact ⟨_, rfl, .none s _⟩
  | fist f =>
    cases f with
    | m16 m => exact ⟨_, rfl, .word s .w16 m _ _⟩
    | m32 m => exact ⟨_, rfl, .word s .w32 m _ _⟩
  | fistp f =>
    cases f with
    | m16 m => exact ⟨_, rfl, .word s .w16 m _ _⟩
    | m32 m => exact ⟨_, rfl, .word s .w32 m _ _⟩
    | m64 m => exact ⟨_, rfl, .span s m (leBytes_length 8 _) (by norm_num) _⟩
  | fbstp m => exact ⟨_, rfl, .span s m (f64ToBcd_length _ _) (by norm_num) _⟩
  | fnstcw m => exact ⟨_, rfl, .word s .w16 m _ _⟩
  | fnstsw f =>
    cases f with
    | m16 m => exact ⟨_, rfl, .word s .w16 m _ _⟩
    | ax => exact absurd rfl hax
  | fnstenv m => exact ⟨_, rfl, .span s m (s.fpu.envBytes_length _) (by omega) _⟩
  | fnsave m => exact ⟨_, rfl, .span s m (s.fpu.saveBytes_length _) (by omega) _⟩
  | _ => exact nomatch hi

/-- Settles O49: every FPU instruction ends in an `FpuFrame`, but FNSTSW AX, which writes AX. -/
theorem fpuCompletes : Obligations.FpuCompletes := by
  intro i s hi
  by_cases hax : i = .fnstsw .ax
  · subst hax
    exact ⟨_, rfl, rfl, rfl, ⟨rfl, rfl, rfl⟩, ⟨rfl, rfl, rfl, rfl, rfl, rfl, rfl⟩,
      fun h => absurd rfl h, fun _ => onlyView_congr (onlyView_writeReg s .w16 .eax _) rfl rfl,
      fun _ => rfl, nofun⟩
  · obtain ⟨t, ht, heip, hflags, hsegs, hsys, hgpr, hnone, hsome⟩ := exec_fpuFrame hi hax s
    exact ⟨t, ht, heip, hflags, hsegs, hsys, fun _ => hgpr, fun h => absurd h hax, hnone, hsome⟩

end Sys2Proof.Machine
end

section
/-! The images of the FPU in memory: the words of the environment image (R575) and the values after them
(R578), each where it stands in the bytes written. -/

namespace Sys2Proof.Machine

/-! ### Parts of a written sequence -/

/-- `mid` stands at distance `n` in the bytes. -/
def StandsAt (bs mid : List Byte) (n : Nat) : Prop := ∃ pre post, bs = pre ++ mid ++ post ∧ pre.length = n

theorem StandsAt.append_right {bs mid : List Byte} {n : Nat} (h : StandsAt bs mid n) (cs : List Byte) :
    StandsAt (bs ++ cs) mid n := by
  obtain ⟨pre, post, rfl, hn⟩ := h
  exact ⟨pre, post ++ cs, by simp, hn⟩

theorem StandsAt.append_left {bs mid : List Byte} {n : Nat} (h : StandsAt bs mid n) (cs : List Byte) :
    StandsAt (cs ++ bs) mid (cs.length + n) := by
  obtain ⟨pre, post, rfl, hn⟩ := h
  exact ⟨cs ++ pre, post, by simp, by simp [hn]⟩

/-- In a sequence of parts of one length, each stands at its index times the length. -/
theorem standsAt_flatMap {α : Type} {g : α → List Byte} {d : Nat} (hd : ∀ x, (g x).length = d)
    (l : List α) (k : Nat) (hk : k < l.length) : StandsAt (l.flatMap g) (g l[k]) (k * d) := by
  induction l generalizing k with
  | nil => exact absurd hk (Nat.not_lt_zero k)
  | cons x l ih =>
    rw [List.flatMap_cons]
    cases k with
    | zero => exact ⟨[], l.flatMap g, rfl, (Nat.zero_mul d).symm⟩
    | succ k =>
      have h := (ih k (Nat.lt_of_succ_lt_succ hk)).append_left (g x)
      rwa [hd, Nat.add_comm, ← Nat.succ_mul] at h

/-- A part of a written sequence reads back. -/
theorem StandsAt.readBytes {bs mid : List Byte} {n : Nat} (h : StandsAt bs mid n)
    (hle : bs.length ≤ 2 ^ 32) (m : Memory) (a : BitVec 32) :
    (m.writeBytes a bs).readBytes (a + BitVec.ofNat 32 n) mid.length = mid := by
  obtain ⟨pre, post, rfl, rfl⟩ := h
  have h := m.readBytes_writeBytes a (pre ++ mid ++ post) hle
  rw [List.length_append, List.length_append, Memory.readBytes_append, Memory.readBytes_append] at h
  exact (List.append_inj' (List.append_inj' h (by simp)).1 (by simp)).2

/-! ### Words -/

theorem take_leBytes {d k : Nat} (h : k ≤ d) (v : Nat) : (leBytes d v).take k = leBytes k v := by
  induction d generalizing k v with
  | zero => rw [Nat.le_zero.1 h]; rfl
  | succ d ih =>
    cases k with
    | zero => rfl
    | succ k => rw [leBytes, leBytes, List.take_succ_cons, ih (Nat.le_of_succ_le_succ h)]

theorem take_readBytes {n k : Nat} (h : k ≤ n) (m : Memory) (a : BitVec 32) :
    (m.readBytes a n).take k = m.readBytes a k := by
  obtain ⟨j, rfl⟩ := Nat.exists_eq_add_of_le h
  rw [Memory.readBytes_append, List.take_left' (m.readBytes_length a k)]

/-- A 16-bit word stored in `d` bytes, read back as a word. -/
theorem StandsAt.memRead {bs : List Byte} {d n : Nat} {v : BitVec 16}
    (h : StandsAt bs (leBytes d v.toNat) n) (hd : 2 ≤ d) (hle : bs.length ≤ 2 ^ 32) (s : State)
    (a : BitVec 32) : (s.memWriteSpan a bs).memRead .w16 (a + BitVec.ofNat 32 n) = v := by
  have hr := h.readBytes hle s.mem a
  rw [leBytes_length] at hr
  have h2 : (s.memWriteSpan a bs).mem.readBytes (a + BitVec.ofNat 32 n) 2 = leBytes 2 v.toNat := by
    rw [← take_readBytes hd, ← take_leBytes hd]
    exact congrArg (List.take 2) hr
  change BitVec.ofNat 16 (leNat _) = v
  have hv : v.toNat % 256 ^ 2 = v.toNat := Nat.mod_eq_of_lt v.isLt
  rw [h2, leNat_leBytes, hv, BitVec.ofNat_toNat, BitVec.setWidth_eq]

/-- Byte `r` of a 16-bit word stored in `d` bytes. -/
theorem StandsAt.get {bs : List Byte} {d n r : Nat} {v : BitVec 16}
    (h : StandsAt bs (leBytes d v.toNat) n) (hr : r < d) (hle : bs.length ≤ 2 ^ 32) (s : State)
    (a : BitVec 32) : (s.memWriteSpan a bs).mem.get (a + BitVec.ofNat 32 (n + r)).toNat =
      BitVec.ofNat 8 (v.toNat / 256 ^ r) := by
  have hb := h.readBytes hle s.mem a
  rw [leBytes_length] at hb
  have hl : r < ((s.mem.writeBytes a bs).readBytes (a + BitVec.ofNat 32 n) d).length := by simpa using hr
  have hg := Memory.readBytes_getElem _ _ _ _ hl
  rw [BitVec.add_assoc, ← BitVec.ofNat_add] at hg
  rw [← leBytes_getElem d v.toNat r (by simpa using hr)]
  exact hg.symm.trans (List.getElem_of_eq hb hl)

/-! ### The environment image (R575) -/

/-- The words of the environment image. -/
def Fpu.envWord (f : Fpu) : Nat → BitVec 16
  | 0 => f.FCW
  | 1 => f.statusWord
  | 2 => f.tagWord
  | _ => 0

theorem Fpu.envBytes_eq (f : Fpu) (z : Size) :
    f.envBytes z = (List.range 7).flatMap fun k => leBytes (envStride z) (f.envWord k).toNat := by
  cases z <;> simp [Fpu.envBytes, Fpu.envWord, envStride, List.range_succ, leBytes]

theorem Fpu.standsAt_envBytes (f : Fpu) (z : Size) {k : Nat} (hk : k < 7) :
    StandsAt (f.envBytes z) (leBytes (envStride z) (f.envWord k).toNat) (k * envStride z) := by
  have h := standsAt_flatMap (g := fun k => leBytes (envStride z) (f.envWord k).toNat)
    (fun _ => leBytes_length _ _) (List.range 7) k (by simpa using hk)
  rwa [List.getElem_range, ← f.envBytes_eq z] at h

theorem two_le_envStride (z : Size) : 2 ≤ envStride z := by cases z <;> decide

theorem envSize_eq (z : Size) : envSize z = 7 * envStride z := by cases z <;> rfl

/-- Where the statements put word `k` of the image. -/
theorem envOffset_eq (z : Size) (k : Nat) : (if z = .s16 then 2 * k else 4 * k) = k * envStride z := by
  cases z <;> exact Nat.mul_comm _ _

/-- An image at `a` that begins with the environment of `f`: its three words, and 0 in every other byte of
the environment. -/
theorem memWriteSpan_env (f : Fpu) (z : Size) (s : State) (a : BitVec 32) (rest : List Byte)
    (hle : (f.envBytes z ++ rest).length ≤ 2 ^ 32) :
    let t := s.memWriteSpan a (f.envBytes z ++ rest)
    let word (k : Nat) : BitVec 32 := a + BitVec.ofNat 32 (if z = .s16 then 2 * k else 4 * k)
    (∀ k, k < 3 → t.memRead .w16 (word k) = f.envWord k) ∧
    ∀ p, InSpan a (envSize z) p → ¬ InSpan (word 0) 2 p → ¬ InSpan (word 1) 2 p → ¬ InSpan (word 2) 2 p →
      t.mem.get p = 0 := by
  intro t word
  have at_ {k : Nat} (hk : k < 7) := (f.standsAt_envBytes z hk).append_right rest
  have hd := two_le_envStride z
  have hword (k : Nat) : word k = a + BitVec.ofNat 32 (k * envStride z) := by
    simp only [word, envOffset_eq]
  refine ⟨fun k hk => ?_, ?_⟩
  · rw [hword]
    exact (at_ (by omega)).memRead hd hle s a
  · rintro p ⟨j, hj, rfl⟩ h0 h1 h2
    have hq : j / envStride z < 7 := Nat.div_lt_of_lt_mul (by rwa [Nat.mul_comm, ← envSize_eq])
    have hr : j % envStride z < envStride z := Nat.mod_lt _ (by omega)
    have hj' : j / envStride z * envStride z + j % envStride z = j := Nat.div_add_mod' _ _
    have hb := (at_ hq).get hr hle s a
    rw [hj'] at hb
    refine hb.trans ?_
    by_cases hlow : j % envStride z < 2
    · have hout (k : Nat) (h : ¬ InSpan (word k) 2 (a + BitVec.ofNat 32 j).toNat) :
          j / envStride z ≠ k := by
        rintro rfl
        refine h ⟨j % envStride z, hlow, ?_⟩
        rw [hword, BitVec.add_assoc, ← BitVec.ofNat_add, hj']
      have hzero : f.envWord (j / envStride z) = 0 := by
        unfold Fpu.envWord
        split
        · next e => exact absurd e (hout 0 h0)
        · next e => exact absurd e (hout 1 h1)
        · next e => exact absurd e (hout 2 h2)
        · rfl
      rw [hzero]
      simp
    · have hlt : (f.envWord (j / envStride z)).toNat < 256 ^ (j % envStride z) :=
        calc (f.envWord (j / envStride z)).toNat < 256 ^ 2 := (f.envWord _).isLt
          _ ≤ 256 ^ (j % envStride z) := Nat.pow_le_pow_right (by norm_num) (by omega)
      rw [Nat.div_eq_of_lt hlt]
      rfl

end Sys2Proof.Machine
end

section
/-! Exchange, stack control, and the control, status and tag words (R51, R53, R554, R562 to R577). -/

namespace Sys2Proof.Machine

section
variable (f : Fpu)

/-- The status word holds C0 to C3 and the top at their bits, and 0 elsewhere (R51). -/
theorem Fpu.statusWord_fields :
    f.statusWord.getLsbD 8 = f.C0 ∧ f.statusWord.getLsbD 9 = f.C1 ∧ f.statusWord.getLsbD 10 = f.C2 ∧
      f.statusWord.getLsbD 14 = f.C3 ∧ f.statusWord.extractLsb' 11 3 = f.FTOP ∧
      f.statusWord.extractLsb' 0 8 = 0 ∧ f.statusWord.getLsbD 15 = false := by
  refine ⟨by simp [Fpu.statusWord], by simp [Fpu.statusWord], by simp [Fpu.statusWord],
    by simp [Fpu.statusWord], ?_, ?_, by simp [Fpu.statusWord]⟩
  · apply BitVec.eq_of_getLsbD_eq
    intro i hi
    interval_cases i <;> simp [Fpu.statusWord]
  · apply BitVec.eq_of_getLsbD_eq
    intro i hi
    interval_cases i <;> simp [Fpu.statusWord]

/-- The tag word holds the code of each slot (R53). -/
theorem Fpu.extractLsb'_tagWord (k : BitVec 3) : f.tagWord.extractLsb' (2 * k.toNat) 2 = f.tag k := by
  apply BitVec.eq_of_getLsbD_eq
  intro i hi
  have cases8 : k = 0 ∨ k = 1 ∨ k = 2 ∨ k = 3 ∨ k = 4 ∨ k = 5 ∨ k = 6 ∨ k = 7 := by
    revert k
    decide
  simp only [BitVec.getLsbD_extractLsb', Fpu.tagWord, BitVec.getLsbD_append]
  rcases cases8 with rfl | rfl | rfl | rfl | rfl | rfl | rfl | rfl <;> interval_cases i <;> simp

theorem Fpu.tag_eq (k : BitVec 3) : f.tag k =
    if f.used k = false then 3
    else match F64.cls (f.reg k) with
      | .zero => 1
      | .nan => 2
      | .infinity => 2
      | .subnormal => 2
      | .normal => 0 := by
  unfold Fpu.tag
  cases f.used k
  · rfl
  · cases F64.cls (f.reg k) <;> rfl

end

/-- FXCH exchanges the values and the used bits of two slots (R554). -/
def Fpu.exchanged (f : Fpu) (i : StIndex) : Fpu :=
  (((f.setSt 0 (f.st i)).setSt i (f.st 0)).setUsed f.FTOP (f.used (f.slot i))).setUsed (f.slot i)
    (f.used f.FTOP)

theorem Fpu.exchanged_spec (f : Fpu) (i : StIndex) :
    (f.exchanged i).st i = f.st 0 ∧ (f.exchanged i).st 0 = f.st i ∧
    (f.exchanged i).used (f.FTOP + i) = f.used f.FTOP ∧
    (f.exchanged i).used f.FTOP = f.used (f.FTOP + i) ∧
    ∀ k, k ≠ f.FTOP → k ≠ f.FTOP + i → (f.exchanged i).reg k = f.reg k ∧ (f.exchanged i).used k = f.used k := by
  have hval (k : BitVec 3) :
      (f.exchanged i).reg k = ((f.setReg f.FTOP (f.st i)).setReg (f.FTOP + i) (f.st 0)).reg k := by
    have top : f.setSt 0 (f.st i) = f.setReg f.FTOP (f.st i) := congrArg (f.setReg · _) f.slot_zero
    rw [← top]
    rfl
  have hused (k : BitVec 3) : (f.exchanged i).used k =
      ((f.setUsed f.FTOP (f.used (f.FTOP + i))).setUsed (f.FTOP + i) (f.used f.FTOP)).used k := rfl
  refine ⟨(hval _).trans (Fpu.reg_setReg_self _ _ _), ?_, (hused _).trans (Fpu.used_setUsed_self _ _ _), ?_,
    fun k h0 hi => ⟨?_, ?_⟩⟩
  · refine (Fpu.st_zero _).trans ((hval _).trans ?_)
    by_cases h : f.FTOP = f.FTOP + i
    · rw [← h]
      exact (Fpu.reg_setReg_self _ _ _).trans (f.st_zero.trans (congrArg f.reg h))
    · exact (Fpu.reg_setReg_of_ne _ _ h).trans (Fpu.reg_setReg_self _ _ _)
  · rw [hused]
    by_cases h : f.FTOP = f.FTOP + i
    · rw [← h, Fpu.used_setUsed_self]
    · rw [Fpu.used_setUsed_of_ne _ _ h, Fpu.used_setUsed_self]
  · rw [hval, Fpu.reg_setReg_of_ne _ _ hi, Fpu.reg_setReg_of_ne _ _ h0]
  · rw [hused, Fpu.used_setUsed_of_ne _ _ hi, Fpu.used_setUsed_of_ne _ _ h0]

/-- What FLDENV loads (R577). -/
theorem Fpu.loadEnv_spec (f : Fpu) (s : State) (a : BitVec 32) :
    let g := f.loadEnv s.opsz s.mem a
    let word (k : Nat) : BitVec 32 := a + BitVec.ofNat 32 (if s.opsz = .s16 then 2 * k else 4 * k)
    g.FPR = f.FPR ∧ g.FCW = s.memRead .w16 (word 0) ∧
    g.statusWord = s.memRead .w16 (word 1) &&& 0x7F00 ∧
    ∀ k : BitVec 3, g.used k = (s.memRead .w16 (word 2) >>> (2 * k.toNat) &&& 3 != 3) := by
  simp only [envOffset_eq]
  exact ⟨rfl, rfl, Fpu.statusWord_writeStatus f _, Fpu.used_writeTags f _⟩

/-- Settles O59. -/
theorem fpuControl : Obligations.FpuControl := by
  intro s f gives
  refine ⟨f.statusWord_fields, fun k => (f.extractLsb'_tagWord k).trans (f.tag_eq k), rfl, rfl, rfl, rfl, rfl,
    rfl, rfl, fun i => rfl, fun m => rfl, ⟨f.init, rfl, rfl, rfl, rfl, by simp [Fpu.statusWord, Fpu.init], ?_⟩,
    fun i => ⟨f.exchanged i, rfl, rfl, rfl, rfl, f.exchanged_spec i⟩,
    fun m => ⟨_, rfl, f.loadEnv_spec s (s.memAddr m)⟩, fun m => ?_⟩
  · have unused (k : BitVec 3) : f.init.tag k = 3 := by
      have h : Fpu.reset.used k = false := by
        revert k
        decide
      exact (Fpu.tag_eq _ k).trans (if_pos h)
    simp only [Fpu.tagWord, unused]
    rfl
  · have hle : (f.envBytes s.opsz ++ []).length ≤ 2 ^ 32 := by
      have := envSize_le s.opsz
      simp [Fpu.envBytes_length]
      omega
    obtain ⟨hword, hzero⟩ := memWriteSpan_env f s.opsz s (s.memAddr m) [] hle
    rw [List.append_nil] at hword hzero
    exact ⟨_, rfl, rfl, hword 0 (by decide), hword 1 (by decide), hword 2 (by decide), hzero⟩

end Sys2Proof.Machine
end

section
/-! Delivery of a vector, the flags image, and what the host may do between steps. -/

namespace Sys2Proof.Machine

/-- A vector's entry as a number (R676). -/
theorem vectorAddr_eq (v : BitVec 8) : vectorAddr v = BitVec.ofNat 32 (4 * v.toNat) := by
  apply BitVec.eq_of_toNat_eq
  have := v.isLt
  simp only [vectorAddr, BitVec.toNat_shiftLeft, BitVec.toNat_setWidth, BitVec.toNat_ofNat,
    Nat.shiftLeft_eq]
  omega

/-- Settles O41: the frame of `pushFrame`, over which CS and EIP are loaded from the vector's entry. -/
theorem delivery : Obligations.Delivery := by
  refine fun v ip s => ⟨fun h => deliver_protected h v ip, fun h => ?_⟩
  obtain ⟨hip, hcs, hfl⟩ := frame_pushFrame s ip
  refine ⟨_, deliver_real h v ip, pushedSpace_congr (pushedSpace_pushFrame s ip) rfl rfl rfl rfl,
    (memRead_slot_congr rfl rfl rfl rfl .s16 2).trans hfl,
    (memRead_slot_congr rfl rfl rfl rfl .s16 1).trans hcs,
    (memRead_slot_congr rfl rfl rfl rfl .s16 0).trans hip, rfl, ?_, rfl,
    ⟨rfl, rfl, rfl, rfl, rfl, rfl, rfl⟩⟩
  rw [← vectorAddr_eq]
  exact ⟨rfl, rfl, rfl, rfl⟩

/-! ### The calls of a delivery (R100, R676) -/

/-- The address of a pushed word, counted down from the stack pointer before the pushes. -/
theorem PushedSpace.slot_eq {s t : State} {z : Size} {n : Nat} (h : PushedSpace s t z n)
    (hssB : t.ssB = s.ssB) (hss : t.seg.get .ss = s.seg.get .ss) {i : Nat} (hi : i ≤ n) :
    t.slot z i = s.lin .ss (s.spDown ((n - i) * z.bytes)) := by
  rw [State.slot, State.lin, State.lin, hss, spUp_of_down' hssB h.1 (Nat.mul_le_mul_right _ hi), Nat.sub_mul]

/-- A delivery that completes: real mode, and its calls are those of its frame and its vector's entry. -/
theorem deliver_next {v : BitVec 8} {ip : BitVec 32} {s t : State} (h : deliver v ip s = .next t) :
    s.deliveryAccesses v = [.write (t.slot .s16 2) 2, .write (t.slot .s16 1) 2, .write (t.slot .s16 0) 2,
      .read (BitVec.ofNat 32 (4 * v.toNat)) 2, .read (BitVec.ofNat 32 (4 * v.toNat) + 2) 2] := by
  cases hp : s.protectedMode with
  | true => exact nomatch (deliver_protected hp v ip).symm.trans h
  | false =>
    obtain ⟨t', ht, hpushed, -, -, -, -, ⟨-, hseg, -, hssB⟩, -⟩ := (delivery v ip s).2 hp
    obtain rfl := Host.Outcome.next.inj (ht.symm.trans h)
    have hss : t'.seg.get .ss = s.seg.get .ss := by rw [hseg, Segs.get_set_of_ne _ _ (by decide)]
    rw [hpushed.slot_eq hssB hss (i := 0) (by decide), hpushed.slot_eq hssB hss (i := 1) (by decide),
      hpushed.slot_eq hssB hss (i := 2) (by decide), ← vectorAddr_eq]
    rfl

theorem hostDeliver_of_next {v : BitVec 8} {s t : State} (h : deliver v s.eip s = .next t) :
    hostDeliver v s = .accepted (t.record (s.deliveryAccesses v)) := by
  rw [hostDeliver, h]

theorem hostDeliver_protected {s : State} (h : s.protectedMode = true) (v : BitVec 8) :
    hostDeliver v s = .refused .protectedInterrupt := by
  rw [hostDeliver, deliver_protected h]

/-! ### The flags image (R33) -/

theorem Flags.image_ofImage (v : BitVec 32) : (Flags.ofImage v).image = v &&& 0x7FD5 ||| 0x0002 := by
  apply BitVec.eq_of_getLsbD_eq
  intro i hi
  interval_cases i <;> simp [Flags.image, Flags.ofImage, flagBit]

/-! ### The host's operations (R23, R690, R691, R710) -/

/-- Settles O48: the host's interrupts are deliveries with their calls recorded; the register port reads
what it wrote. -/
theorem processorAndHost : Obligations.ProcessorAndHost := by
  intro v s t entry recorded
  have accepted (v : BitVec 8) (h : deliver v s.eip s = .next t) :
      hostDeliver v s = .accepted (recorded v) := by
    rw [hostDeliver_of_next h, deliver_next h]
    rfl
  refine ⟨rfl, rfl, rfl, rfl, fun h => if_neg (by simp [h]), fun h hd => (if_pos h).trans (accepted v hd),
    accepted 2, fun hp => ⟨hostDeliver_protected hp 2, fun h => (if_pos h).trans (hostDeliver_protected hp v)⟩,
    rfl, fun w r x => ⟨readReg_writeReg s w r x, onlyView_writeReg s w r x, rfl⟩, fun sr sel => ?_,
    fun x => ⟨rfl, Flags.image_ofImage x⟩, fun c x => Ctl.get_set_self _ _ _, fun d x => Dbg.get_set_self _ _ _,
    fun k x => Fpu.reg_setReg_self _ _ _, fun x => ⟨rfl, Fpu.statusWord_writeStatus _ _⟩,
    fun x k => Fpu.used_writeTags _ _ _⟩
  have hload := loadSeg_eq sr sel s
  cases hd : segmentFor s sr sel with
  | none => rwa [hd] at hload
  | some d =>
    rw [hd] at hload
    exact ⟨_, hload, congrArg Seg.sel (setSeg_get_self s sr sel _ _), setSeg_get_self s sr sel _ _,
      fun q hq => setSeg_get_of_ne s sel _ _ hq, rfl⟩

end Sys2Proof.Machine
end

section
/-! Rounding to a binary format: its magnitudes as real numbers, and the pattern `FFormat.round` gives as
the nearest one, ties to even (R534, R600(a)). -/

namespace Sys2Proof.Machine

/-! ### The magnitudes of a format -/

/-- The exponent of the unit in the last place of pattern `k`, above the least one. -/
def FFormat.expoNat (f : FFormat) (k : ℕ) : ℕ := k / 2 ^ f.frac - 1

/-- The exponent of the unit in the last place of pattern `k`. -/
def FFormat.expo (f : FFormat) (k : ℕ) : ℤ := f.emin + f.expoNat k

/-- The significand of pattern `k`, its leading bit included. -/
def FFormat.sig (f : FFormat) (k : ℕ) : ℕ := k % 2 ^ f.frac + if k / 2 ^ f.frac = 0 then 0 else 2 ^ f.frac

/-- The number pattern `k` (without its sign) denotes, as if the exponents of the format had no bound. -/
noncomputable def FFormat.mag (f : FFormat) (k : ℕ) : ℝ := f.sig k * 2 ^ f.expo k

section
variable (f : FFormat)

/-- A pattern taken apart: a significand that is normal, or any significand at the least exponent. -/
theorem FFormat.pattern_eq (k : ℕ) : k = f.expoNat k * 2 ^ f.frac + f.sig k ∧ f.sig k < 2 ^ (f.frac + 1) ∧
    (f.expoNat k = 0 ∨ 2 ^ f.frac ≤ f.sig k) := by
  have hk := Nat.div_add_mod' k (2 ^ f.frac)
  have hmod : k % 2 ^ f.frac < 2 ^ f.frac := Nat.mod_lt _ (by positivity)
  rw [pow_succ]
  unfold FFormat.expoNat FFormat.sig
  split
  · next h =>
    rw [h, zero_mul] at hk
    rw [h]
    exact ⟨by omega, by omega, .inl rfl⟩
  · next h =>
    have : k / 2 ^ f.frac * 2 ^ f.frac = (k / 2 ^ f.frac - 1) * 2 ^ f.frac + 2 ^ f.frac := by
      rw [← Nat.succ_mul, Nat.succ_eq_add_one, Nat.sub_add_cancel (Nat.pos_of_ne_zero h)]
    exact ⟨by omega, by omega, .inr (by omega)⟩

/-- The magnitude of a pattern put together; the significand may also be the next power of two. -/
theorem FFormat.mag_pattern {n j : ℕ} (hj : j ≤ 2 ^ (f.frac + 1)) (hn : n = 0 ∨ 2 ^ f.frac ≤ j) :
    f.mag (n * 2 ^ f.frac + j) = j * 2 ^ (f.emin + n) := by
  have hp : 0 < 2 ^ f.frac := by positivity
  have hdiv (i : ℕ) (hi : i < 2 ^ f.frac) (c : ℕ) : (c * 2 ^ f.frac + i) / 2 ^ f.frac = c ∧
      (c * 2 ^ f.frac + i) % 2 ^ f.frac = i := by
    rw [Nat.add_comm, Nat.add_mul_div_right _ _ hp, Nat.add_mul_mod_self_right, Nat.mod_eq_of_lt hi,
      Nat.div_eq_of_lt hi, Nat.zero_add]
    exact ⟨rfl, rfl⟩
  -- a normal significand: the exponent field is one more
  have normal (i : ℕ) (hi : i < 2 ^ f.frac) (c : ℕ) :
      f.mag ((c + 1) * 2 ^ f.frac + i) = ((2 ^ f.frac + i : ℕ) : ℝ) * 2 ^ (f.emin + c) := by
    obtain ⟨hq, hr⟩ := hdiv i hi (c + 1)
    simp only [FFormat.mag, FFormat.sig, FFormat.expo, FFormat.expoNat, hq, hr, Nat.succ_ne_zero, if_false,
      Nat.add_sub_cancel, Nat.add_comm i]
  rw [pow_succ] at hj
  rcases lt_or_ge j (2 ^ f.frac) with h | h
  · obtain rfl : n = 0 := hn.resolve_right (by omega)
    obtain ⟨hq, hr⟩ := hdiv j h 0
    simp only [FFormat.mag, FFormat.sig, FFormat.expo, FFormat.expoNat, hq, hr]
    rfl
  · obtain ⟨i, rfl⟩ := Nat.exists_eq_add_of_le h
    rcases (show i < 2 ^ f.frac ∨ i = 2 ^ f.frac by omega) with hi | rfl
    · rw [← normal i hi, Nat.succ_mul, Nat.add_assoc]
    · have h2 : n * 2 ^ f.frac + (2 ^ f.frac + 2 ^ f.frac) = (n + 1 + 1) * 2 ^ f.frac + 0 := by ring
      rw [h2, normal 0 hp, show f.emin + ((n + 1 : ℕ) : ℤ) = f.emin + n + 1 by push_cast; ring,
        zpow_add_one₀ (by norm_num)]
      push_cast
      ring

theorem FFormat.mag_eq (k : ℕ) : f.mag k = f.sig k * 2 ^ f.expo k := rfl

theorem FFormat.mag_succ (k : ℕ) : f.mag (k + 1) = (f.sig k + 1) * 2 ^ f.expo k := by
  obtain ⟨hk, hs, hn⟩ := f.pattern_eq k
  have h := f.mag_pattern (n := f.expoNat k) (j := f.sig k + 1) hs (hn.imp_right fun h => by omega)
  rw [← Nat.add_assoc, ← hk] at h
  exact_mod_cast h

theorem FFormat.mag_strictMono : StrictMono f.mag := by
  refine strictMono_nat_of_lt_succ fun k => ?_
  rw [f.mag_succ, f.mag_eq, add_mul, one_mul]
  exact lt_add_of_pos_right _ (by positivity)

@[simp] theorem FFormat.mag_zero : f.mag 0 = 0 := by simp [FFormat.mag, FFormat.sig]

theorem FFormat.mag_nonneg (k : ℕ) : 0 ≤ f.mag k := by
  unfold FFormat.mag
  positivity

theorem FFormat.expo_succ_le (k : ℕ) : f.expo (k + 1) ≤ f.expo k + 1 := by
  have : (k + 1) / 2 ^ f.frac ≤ k / 2 ^ f.frac + 1 := by
    rw [Nat.succ_div]
    split <;> omega
  unfold FFormat.expo FFormat.expoNat
  omega

/-- Every number with a significand that fits is a magnitude of the format. -/
theorem FFormat.exists_mag_eq (n : ℕ) {m : ℕ} (hm : m ≤ 2 ^ (f.frac + 1)) :
    ∃ k, f.mag k = m * 2 ^ (f.emin + n) := by
  induction n generalizing m with
  | zero => exact ⟨_, f.mag_pattern hm (.inl rfl)⟩
  | succ n ih =>
    rcases lt_or_ge m (2 ^ f.frac) with h | h
    · obtain ⟨k, hk⟩ := ih (m := 2 * m) (by rw [pow_succ]; omega)
      refine ⟨k, hk.trans ?_⟩
      rw [show f.emin + ((n + 1 : ℕ) : ℤ) = f.emin + n + 1 by push_cast; ring, zpow_add_one₀ (by norm_num)]
      push_cast
      ring
    · exact ⟨_, f.mag_pattern hm (.inr h)⟩

end

/-! ### The nearest pattern -/

/-- `R` is the pattern nearest to `q`, the even one at a tie: `q` lies between the midpoints to its two
neighbours, and strictly so if `R` is odd. -/
def FFormat.NearestEven (f : FFormat) (q : ℝ) (R : ℕ) : Prop :=
  (∀ k, k + 1 = R → f.mag k + f.mag R ≤ 2 * q ∧ (R % 2 = 1 → f.mag k + f.mag R < 2 * q)) ∧
  2 * q ≤ f.mag R + f.mag (R + 1) ∧ (R % 2 = 1 → 2 * q < f.mag R + f.mag (R + 1))

section
variable {f : FFormat} {q : ℝ} {R : ℕ}

theorem abs_sub_le_of_midpoint_le {a b : ℝ} (hab : a < b) (h : a + b ≤ 2 * q) : |q - b| ≤ |q - a| := by
  rw [abs_of_nonneg (a := q - a) (by linarith), abs_le]
  constructor <;> linarith

theorem abs_sub_le_of_le_midpoint {a b : ℝ} (hab : a < b) (h : 2 * q ≤ a + b) : |q - a| ≤ |q - b| := by
  rw [abs_of_nonpos (a := q - b) (by linarith), abs_le]
  constructor <;> linarith

theorem abs_sub_lt_of_midpoint_lt {a b : ℝ} (hab : a < b) (h : a + b < 2 * q) : |q - b| < |q - a| := by
  rw [abs_of_nonneg (a := q - a) (by linarith), abs_lt]
  constructor <;> linarith

theorem abs_sub_lt_of_lt_midpoint {a b : ℝ} (hab : a < b) (h : 2 * q < a + b) : |q - a| < |q - b| := by
  rw [abs_of_nonpos (a := q - b) (by linarith), abs_lt]
  constructor <;> linarith

/-- Every other pattern is further away, or as far and the nearest one is even. -/
theorem FFormat.NearestEven.abs_sub (h : f.NearestEven q R) {k : ℕ} (hk : k ≠ R) :
    |q - f.mag R| < |q - f.mag k| ∨ |q - f.mag R| = |q - f.mag k| ∧ R % 2 = 0 := by
  obtain ⟨hlow, hup, hupOdd⟩ := h
  have mono := f.mag_strictMono
  have close {a b : ℝ} (hle : a ≤ b) (hodd : R % 2 = 1 → a < b) : a < b ∨ a = b ∧ R % 2 = 0 := by
    rcases hle.lt_or_eq with h | h
    · exact .inl h
    · refine (Nat.mod_two_eq_zero_or_one R).elim (fun h0 => .inr ⟨h, h0⟩) fun h1 => .inl (hodd h1)
  rcases Nat.lt_or_gt_of_ne hk with hlt | hgt
  · obtain ⟨j, rfl⟩ := Nat.exists_eq_add_of_lt (Nat.zero_lt_of_lt hlt)
    rw [Nat.zero_add] at *
    obtain ⟨hmid, hmidOdd⟩ := hlow j rfl
    have hj : f.mag k ≤ f.mag j := mono.monotone (by omega)
    exact close (abs_sub_le_of_midpoint_le (mono hlt) (by linarith))
      fun h1 => abs_sub_lt_of_midpoint_lt (mono hlt) (by linarith [hmidOdd h1])
  · have hj : f.mag (R + 1) ≤ f.mag k := mono.monotone hgt
    exact close (abs_sub_le_of_le_midpoint (mono hgt) (by linarith))
      fun h1 => abs_sub_lt_of_lt_midpoint (mono hgt) (by linarith [hupOdd h1])

/-- A magnitude of the format is its own nearest pattern, and no other one is. -/
theorem FFormat.NearestEven.eq_of_mag_eq (h : f.NearestEven q R) {k : ℕ} (hq : q = f.mag k) : R = k := by
  by_contra hne
  have hle : |q - f.mag R| ≤ |q - f.mag k| := (h.abs_sub (Ne.symm hne)).elim le_of_lt fun h => h.1.le
  rw [hq, sub_self, abs_zero, abs_nonpos_iff, sub_eq_zero] at hle
  exact hne (f.mag_strictMono.injective hle).symm

/-- An even pattern is reached from the midpoint below it on. -/
theorem FFormat.NearestEven.lt_iff (h : f.NearestEven q R) {n : ℕ} (hn : n % 2 = 1) :
    R ≤ n ↔ 2 * q < f.mag n + f.mag (n + 1) := by
  obtain ⟨hlow, hup, hupOdd⟩ := h
  have mono := f.mag_strictMono
  constructor
  · intro hle
    rcases hle.lt_or_eq with hlt | rfl
    · have h1 := mono hlt
      have h2 : f.mag (R + 1) < f.mag (n + 1) := mono (Nat.succ_lt_succ hlt)
      linarith
    · exact hupOdd hn
  · intro hq
    by_contra hlt
    obtain ⟨j, rfl⟩ := Nat.exists_eq_add_of_lt (Nat.lt_of_not_le hlt)
    have h1 : f.mag n ≤ f.mag (n + j) := mono.monotone (by omega)
    have h2 : f.mag (n + 1) ≤ f.mag (n + j + 1) := mono.monotone (by omega)
    linarith [(hlow (n + j) rfl).1]

end

/-! ### `FFormat.round` -/

/-- `roundShift` is the integer nearest to `m / 2 ^ k`, the even one at a tie. -/
theorem roundShift_spec (m k : ℕ) :
    let q := m / 2 ^ k
    (roundShift m k = q ∧ 2 * m ≤ (2 * q + 1) * 2 ^ k ∧ (q % 2 = 1 → 2 * m < (2 * q + 1) * 2 ^ k)) ∨
    (roundShift m k = q + 1 ∧ (2 * q + 1) * 2 ^ k ≤ 2 * m ∧ (q % 2 = 0 → (2 * q + 1) * 2 ^ k < 2 * m)) := by
  intro q
  cases k with
  | zero =>
    left
    simp [roundShift, q]
  | succ k =>
    have hm := Nat.div_add_mod' m (2 ^ (k + 1))
    have hq : q = m / 2 ^ (k + 1) := rfl
    rw [← hq] at hm
    have e : (2 * q + 1) * 2 ^ (k + 1) = 2 * (q * 2 ^ (k + 1)) + 2 * 2 ^ k := by ring
    simp only [roundShift, Nat.shiftRight_eq_div_pow, ← hq, Nat.succ_ne_zero, if_false, Nat.add_sub_cancel, e]
    split
    · next h => exact .inr ⟨rfl, by omega, by omega⟩
    · next h => exact .inl ⟨rfl, by omega, by omega⟩

section
variable {f : FFormat} {x : ℝ} {n j : ℕ}

/-- A pattern and the one after it, from their significand and exponent. -/
theorem FFormat.mag_pattern_succ (hj : j < 2 ^ (f.frac + 1)) (hn : n = 0 ∨ 2 ^ f.frac ≤ j) :
    f.mag (n * 2 ^ f.frac + j + 1) = (j + 1) * 2 ^ (f.emin + n) := by
  have h := f.mag_pattern (n := n) (j := j + 1) hj (hn.imp_right fun h => by omega)
  exact_mod_cast h

/-- What lies above a pattern and below the midpoint to the next one is rounded down to it. -/
theorem FFormat.nearestEven_down (hfrac : 0 < f.frac) (hj : j < 2 ^ (f.frac + 1))
    (hn : n = 0 ∨ 2 ^ f.frac ≤ j) (hlow : j * 2 ^ (f.emin + n) ≤ x)
    (hup : 2 * x ≤ (2 * j + 1) * 2 ^ (f.emin + n))
    (hodd : j % 2 = 1 → 2 * x < (2 * j + 1) * 2 ^ (f.emin + n)) :
    f.NearestEven x (n * 2 ^ f.frac + j) := by
  have hmag := f.mag_pattern hj.le hn
  have hpar : (n * 2 ^ f.frac + j) % 2 = j % 2 := by
    obtain ⟨c, hc⟩ : 2 ∣ n * 2 ^ f.frac := (dvd_pow_self 2 hfrac.ne').mul_left n
    omega
  have hmid : f.mag (n * 2 ^ f.frac + j) + f.mag (n * 2 ^ f.frac + j + 1) =
      (2 * j + 1) * 2 ^ (f.emin + n) := by
    rw [hmag, FFormat.mag_pattern_succ hj hn]
    ring
  refine ⟨fun k hk => ?_, hmid ▸ hup, fun h => hmid ▸ hodd (hpar ▸ h)⟩
  have := f.mag_strictMono (show k < n * 2 ^ f.frac + j by omega)
  exact ⟨by linarith, fun _ => by linarith⟩

/-- What lies between the midpoint to the next pattern and that pattern is rounded up to it. -/
theorem FFormat.nearestEven_up (hfrac : 0 < f.frac) (hj : j < 2 ^ (f.frac + 1))
    (hn : n = 0 ∨ 2 ^ f.frac ≤ j) (hup : x ≤ (j + 1) * 2 ^ (f.emin + n))
    (hlow : (2 * j + 1) * 2 ^ (f.emin + n) ≤ 2 * x)
    (heven : j % 2 = 0 → (2 * j + 1) * 2 ^ (f.emin + n) < 2 * x) :
    f.NearestEven x (n * 2 ^ f.frac + j + 1) := by
  have hmag := FFormat.mag_pattern_succ hj hn
  have hpar : (n * 2 ^ f.frac + j + 1) % 2 = (j + 1) % 2 := by
    obtain ⟨c, hc⟩ : 2 ∣ n * 2 ^ f.frac := (dvd_pow_self 2 hfrac.ne').mul_left n
    omega
  have hmid : f.mag (n * 2 ^ f.frac + j) + f.mag (n * 2 ^ f.frac + j + 1) =
      (2 * j + 1) * 2 ^ (f.emin + n) := by
    rw [hmag, f.mag_pattern hj.le hn]
    ring
  have := f.mag_strictMono (Nat.lt_succ_self (n * 2 ^ f.frac + j + 1))
  refine ⟨fun k hk => ?_, by linarith, fun _ => by linarith⟩
  obtain rfl : k = n * 2 ^ f.frac + j := by omega
  exact ⟨hmid ▸ hlow, fun h => hmid ▸ heven (by omega)⟩

end

/-- The exponent `FFormat.round` chooses, above the least one. -/
def FFormat.roundExpo (f : FFormat) (m : ℕ) (e : ℤ) : ℤ :=
  max (e + (Nat.log2 m + 1 : ℕ) - 1 - f.frac) f.emin

/-- `FFormat.round` before an overflow is cut to the infinity. -/
def FFormat.roundRaw (f : FFormat) (m : ℕ) (e : ℤ) : ℕ :=
  let p := Nat.log2 m + 1
  let q := f.roundExpo m e
  let shift := q - e
  (q - f.emin).toNat * 2 ^ f.frac +
    if shift ≤ 0 then m <<< (-shift).toNat
    else if (p : Int) < shift then 0
    else roundShift m shift.toNat

theorem FFormat.round_eq (f : FFormat) {m : ℕ} (hm : m ≠ 0) (e : ℤ) :
    f.round m e = min (f.roundRaw m e) f.infinity := by
  unfold FFormat.round
  exact if_neg hm

theorem zpow_eq_pow_mul_zpow {a b : ℤ} {k : ℕ} (h : b = a + k) : (2 : ℝ) ^ b = 2 ^ k * 2 ^ a := by
  rw [h, zpow_add₀ (by norm_num), zpow_natCast, mul_comm]

/-- Before an overflow is cut, `FFormat.round` gives the nearest pattern. -/
theorem FFormat.roundRaw_nearestEven {f : FFormat} (hfrac : 0 < f.frac) {m : ℕ} (hm : m ≠ 0) (e : ℤ) :
    f.NearestEven (m * 2 ^ e) (f.roundRaw m e) := by
  have hlo : 2 ^ Nat.log2 m ≤ m := Nat.log2_self_le hm
  have hhi : m < 2 ^ (Nat.log2 m + 1) := Nat.lt_log2_self
  set l := Nat.log2 m with hl
  -- the exponent: it is the least one, or the significand is normal
  obtain ⟨n, hn⟩ : ∃ n : ℕ, f.roundExpo m e = f.emin + n :=
    ⟨(f.roundExpo m e - f.emin).toNat, by unfold FFormat.roundExpo; omega⟩
  have hexpo : e + l - f.frac ≤ f.emin + n ∧ (n = 0 ∨ f.emin + n = e + l - f.frac) := by
    unfold FFormat.roundExpo at hn
    omega
  obtain ⟨hle, hnorm⟩ := hexpo
  have hR : f.roundRaw m e = n * 2 ^ f.frac +
      if f.emin + n - e ≤ 0 then m <<< (-(f.emin + n - e)).toNat
      else if ((l + 1 : ℕ) : ℤ) < f.emin + n - e then 0
      else roundShift m (f.emin + n - e).toNat := by
    unfold FFormat.roundRaw
    simp only [hn, add_sub_cancel_left, Int.toNat_natCast, ← hl]
  rw [hR]
  clear hR hn
  split
  · next hs =>
    -- exact
    obtain ⟨k, hk⟩ : ∃ k : ℕ, -(f.emin + n - e) = k := ⟨_, (Int.toNat_of_nonneg (by omega)).symm⟩
    rw [hk, Int.toNat_natCast, Nat.shiftLeft_eq]
    have hx : (m : ℝ) * 2 ^ e = (m * 2 ^ k : ℕ) * 2 ^ (f.emin + n) := by
      rw [zpow_eq_pow_mul_zpow (show e = f.emin + n + k by omega)]
      push_cast
      ring
    have hu : (0 : ℝ) < 2 ^ (f.emin + n) := by positivity
    refine f.nearestEven_down hfrac ?_ (hnorm.imp_right fun h => ?_) hx.ge ?_ fun _ => ?_
    · calc m * 2 ^ k < 2 ^ (l + 1) * 2 ^ k := by gcongr
        _ = 2 ^ (l + 1 + k) := (pow_add ..).symm
        _ ≤ 2 ^ (f.frac + 1) := Nat.pow_le_pow_right (by norm_num) (by omega)
    · calc 2 ^ f.frac = 2 ^ l * 2 ^ k := by rw [← pow_add]; congr 1; omega
        _ ≤ m * 2 ^ k := by gcongr
    all_goals
      rw [hx]
      linarith
  · next hs =>
    obtain ⟨k, hk⟩ : ∃ k : ℕ, f.emin + n - e = k := ⟨_, (Int.toNat_of_nonneg (by omega)).symm⟩
    rw [hk, Int.toNat_natCast]
    have hu : (0 : ℝ) < 2 ^ e := by positivity
    have hunit : (2 : ℝ) ^ (f.emin + n) = 2 ^ k * 2 ^ e := zpow_eq_pow_mul_zpow (by omega)
    split
    · next hp =>
      -- less than half of the unit: rounded to zero
      have hn0 : n = 0 := hnorm.resolve_right (by omega)
      have h2 : 2 * (m : ℝ) < 2 ^ k := by
        have : 2 * m < 2 ^ k := by
          calc 2 * m < 2 ^ (l + 1) * 2 := by omega
            _ = 2 ^ (l + 2) := (pow_succ ..).symm
            _ ≤ 2 ^ k := Nat.pow_le_pow_right (by norm_num) (by omega)
        exact_mod_cast this
      have h3 : 2 * (m * (2 : ℝ) ^ e) < 2 ^ (f.emin + n) := by
        rw [hunit, ← mul_assoc]
        exact mul_lt_mul_of_pos_right h2 hu
      have h4 : (0 : ℝ) ≤ m * 2 ^ e := by positivity
      refine f.nearestEven_down hfrac (by positivity) (.inl hn0) ?_ ?_ fun _ => ?_
      all_goals
        push_cast
        linarith
    · next hp =>
      have hdm := Nat.div_add_mod' m (2 ^ k)
      have hmod : m % 2 ^ k < 2 ^ k := Nat.mod_lt _ (by positivity)
      have hj : m / 2 ^ k < 2 ^ (f.frac + 1) := by
        refine Nat.div_lt_of_lt_mul (hhi.trans_le ?_)
        rw [← pow_add]
        exact Nat.pow_le_pow_right (by norm_num) (by omega)
      have hnj : n = 0 ∨ 2 ^ f.frac ≤ m / 2 ^ k := hnorm.imp_right fun h => by
        rw [Nat.le_div_iff_mul_le (by positivity), ← pow_add]
        exact (Nat.pow_le_pow_right (by norm_num) (by omega)).trans hlo
      -- the four comparisons, in units of the last place of `m`
      have scale (a b : ℕ) : (a * (2 : ℝ) ^ (f.emin + n) ≤ b * 2 ^ e ↔ a * 2 ^ k ≤ b) ∧
          (a * (2 : ℝ) ^ (f.emin + n) < b * 2 ^ e ↔ a * 2 ^ k < b) ∧
          (b * (2 : ℝ) ^ e ≤ a * 2 ^ (f.emin + n) ↔ b ≤ a * 2 ^ k) ∧
          (b * (2 : ℝ) ^ e < a * 2 ^ (f.emin + n) ↔ b < a * 2 ^ k) := by
        rw [hunit, ← mul_assoc, mul_le_mul_iff_left₀ hu, mul_lt_mul_iff_left₀ hu, mul_le_mul_iff_left₀ hu,
          mul_lt_mul_iff_left₀ hu]
        norm_cast
      have hmid : 2 * (m * (2 : ℝ) ^ e) = (2 * m : ℕ) * 2 ^ e := by push_cast; ring
      have hodd : 2 * ((m / 2 ^ k : ℕ) : ℝ) + 1 = (2 * (m / 2 ^ k) + 1 : ℕ) := by push_cast; ring
      rcases roundShift_spec m k with ⟨h1, h2, h3⟩ | ⟨h1, h2, h3⟩
      · rw [h1]
        refine f.nearestEven_down hfrac hj hnj ((scale _ _).1.2 (by omega)) ?_ fun h => ?_
        · rw [hmid, hodd]
          exact (scale _ _).2.2.1.2 h2
        · rw [hmid, hodd]
          exact (scale _ _).2.2.2.2 (h3 h)
      · rw [h1, ← Nat.add_assoc]
        refine f.nearestEven_up hfrac hj hnj ?_ ?_ fun h => ?_
        · have : m ≤ (m / 2 ^ k + 1) * 2 ^ k := by rw [Nat.succ_mul]; omega
          exact_mod_cast (scale _ _).2.2.1.2 this
        · rw [hmid, hodd]
          exact (scale _ _).1.2 h2
        · rw [hmid, hodd]
          exact (scale _ _).2.1.2 (h3 h)

/-- `FFormat.round` gives the nearest pattern, the even one at a tie, or the infinity from there on. -/
theorem FFormat.round_spec {f : FFormat} (hfrac : 0 < f.frac) (m : ℕ) (e : ℤ) :
    ∃ R, f.round m e = min R f.infinity ∧ f.NearestEven (m * 2 ^ e) R := by
  rcases eq_or_ne m 0 with rfl | hm
  · refine ⟨0, by simp [FFormat.round], fun k hk => absurd hk k.succ_ne_zero, ?_, nofun⟩
    simpa using f.mag_nonneg 1
  · exact ⟨_, f.round_eq hm e, f.roundRaw_nearestEven hfrac hm e⟩

/-- What a sticky bit stands for does not change the nearest pattern: `M` has more bits than the format,
and `x` is `M * 2 ^ e` exactly if `M` is even, strictly between its even neighbours if it is odd. -/
theorem FFormat.NearestEven.of_sticky {f : FFormat} {Q R : ℕ} {e : ℤ} {inexact : Bool} {x : ℝ}
    (hM : 2 ^ (f.frac + 3) ≤ withSticky Q inexact)
    (h : f.NearestEven (withSticky Q inexact * 2 ^ e) R)
    (hx : if inexact then (2 * Q : ℕ) * 2 ^ e < x ∧ x < (2 * Q + 2 : ℕ) * 2 ^ e else x = (2 * Q : ℕ) * 2 ^ e) :
    f.NearestEven x R := by
  cases inexact with
  | false =>
    obtain rfl : x = _ := hx
    exact h
  | true =>
    obtain ⟨hlo, hhi⟩ : _ ∧ _ := hx
    change 2 ^ (f.frac + 3) ≤ 2 * Q + 1 at hM
    change f.NearestEven ((2 * Q + 1 : ℕ) * 2 ^ e) R at h
    -- a midpoint is an even multiple of `2 ^ e`, from the exponent of `R` and of its predecessor on
    have mid (k : ℕ) (hk : e + 1 < f.expo k) : ∃ T : ℕ, f.mag k + f.mag (k + 1) = 2 * ((2 * T : ℕ) * 2 ^ e) := by
      obtain ⟨c, hc⟩ := Int.le.dest hk
      refine ⟨(2 * f.sig k + 1) * 2 ^ c, ?_⟩
      rw [f.mag_eq, f.mag_succ, ← hc, show e + 1 + 1 + (c : ℤ) = e + (c + 2 : ℕ) by push_cast; ring,
        zpow_add₀ (by norm_num), zpow_natCast, pow_add]
      push_cast
      ring
    obtain ⟨hlow, hup, hupOdd⟩ := h
    have hR : e + 2 < f.expo R := by
      obtain ⟨-, hs, -⟩ := f.pattern_eq R
      rw [f.mag_eq, f.mag_succ] at hup
      have h1 : ((2 ^ (f.frac + 3) : ℕ) : ℝ) ≤ (2 * Q + 1 : ℕ) := by exact_mod_cast hM
      have h2 : ((2 * f.sig R + 1 : ℕ) : ℝ) < (2 ^ (f.frac + 2) : ℕ) := by
        rw [pow_succ] at *
        exact_mod_cast (by omega)
      have h3 : (2 : ℝ) ^ ((f.frac : ℤ) + 4 + e) < 2 ^ ((f.frac : ℤ) + 2 + f.expo R) := by
        calc (2 : ℝ) ^ ((f.frac : ℤ) + 4 + e) = 2 * ((2 ^ (f.frac + 3) : ℕ) * 2 ^ e) := by
              rw [zpow_add₀ (by norm_num), show (f.frac : ℤ) + 4 = ((f.frac + 3 + 1 : ℕ) : ℤ) by push_cast; ring,
                zpow_natCast, pow_succ]
              push_cast
              ring
          _ ≤ 2 * ((2 * Q + 1 : ℕ) * 2 ^ e) := by gcongr
          _ ≤ (2 * f.sig R + 1 : ℕ) * 2 ^ f.expo R := by push_cast at hup ⊢; linarith
          _ < (2 ^ (f.frac + 2) : ℕ) * 2 ^ f.expo R := by gcongr
          _ = _ := by
              rw [zpow_add₀ (by norm_num), show (f.frac : ℤ) + 2 = ((f.frac + 2 : ℕ) : ℤ) by push_cast; ring,
                zpow_natCast]
              push_cast
              ring
      have := (zpow_lt_zpow_iff_right₀ (by norm_num)).1 h3
      omega
    have hu : (0 : ℝ) < 2 ^ e := by positivity
    -- so it does not lie between the two even neighbours of `M`
    have above (T : ℕ) (h : ((2 * T : ℕ) : ℝ) * 2 ^ e ≤ (2 * Q + 1 : ℕ) * 2 ^ e) : (2 * T : ℕ) * 2 ^ e < x := by
      rw [mul_le_mul_iff_left₀ hu, Nat.cast_le] at h
      refine lt_of_le_of_lt ?_ hlo
      rw [mul_le_mul_iff_left₀ hu, Nat.cast_le]
      omega
    have below (T : ℕ) (h : ((2 * Q + 1 : ℕ) : ℝ) * 2 ^ e ≤ (2 * T : ℕ) * 2 ^ e) : x < (2 * T : ℕ) * 2 ^ e := by
      rw [mul_le_mul_iff_left₀ hu, Nat.cast_le] at h
      refine lt_of_lt_of_le hhi ?_
      rw [mul_le_mul_iff_left₀ hu, Nat.cast_le]
      omega
    have upper : 2 * x < f.mag R + f.mag (R + 1) := by
      obtain ⟨T, hT⟩ := mid R (by omega)
      rw [hT] at hup ⊢
      linarith [below T (by linarith)]
    refine ⟨fun k hk => ?_, upper.le, fun _ => upper⟩
    have lower : f.mag k + f.mag R < 2 * x := by
      subst hk
      have := f.expo_succ_le k
      obtain ⟨T, hT⟩ := mid k (by omega)
      have hle := (hlow k rfl).1
      rw [hT] at hle ⊢
      linarith [above T (by linarith)]
    exact ⟨lower.le, fun _ => lower⟩

end Sys2Proof.Machine
end

section
/-! The binary64 patterns, their values, and the patterns an exact number rounds to (R45, R56, R600(a)). -/

namespace Sys2Proof.Machine

/-! ### Patterns -/

theorem FFormat.f64_infinity : FFormat.f64.infinity = 2047 * 2 ^ 52 := rfl

theorem FFormat.f64_frac : FFormat.f64.frac = 52 := rfl

theorem FFormat.f64_emin : FFormat.f64.emin = -1074 := rfl

section
variable (neg : Bool) {k : ℕ}

theorem signed64_toNat (hk : k < 2 ^ 63) : (signed64 neg k).toNat = neg.toNat * 2 ^ 63 + k := by
  have h : (signed64 neg k).toNat = (BitVec.ofBool neg).toNat <<< 63 ||| (BitVec.ofNat 63 k).toNat :=
    BitVec.toNat_append ..
  rw [h, BitVec.toNat_ofBool, BitVec.toNat_ofNat, Nat.mod_eq_of_lt hk, ← Nat.shiftLeft_add_eq_or_of_lt hk,
    Nat.shiftLeft_eq]

@[simp] theorem signed64_msb (k : ℕ) : (signed64 neg k).msb = neg := by
  have h : (signed64 neg k).msb = if 1 = 0 then (BitVec.ofNat 63 k).msb else (BitVec.ofBool neg).msb :=
    BitVec.msb_append
  rw [h, if_neg one_ne_zero, BitVec.msb_ofBool]

theorem eq_signed64 (x : F64) : x = signed64 x.msb (x.toNat % 2 ^ 63) := by
  refine BitVec.eq_of_toNat_eq ?_
  have hlt : x.toNat < 2 * 2 ^ 63 := x.isLt
  rw [signed64_toNat _ (Nat.mod_lt _ (by norm_num)), BitVec.msb_eq_decide]
  by_cases h : 2 ^ 63 ≤ x.toNat
  · simp only [show (64 - 1 : ℕ) = 63 from rfl, h, decide_true, Bool.toNat_true]
    omega
  · simp only [show (64 - 1 : ℕ) = 63 from rfl, h, decide_false, Bool.toNat_false]
    omega

/-- A binary64 pattern is its sign and 63 bits. -/
theorem exists_signed64 (x : F64) : ∃ neg k, k < 2 ^ 63 ∧ x = signed64 neg k :=
  ⟨_, _, Nat.mod_lt _ (by norm_num), eq_signed64 x⟩

@[simp] theorem sign_signed64 (k : ℕ) : F64.sign (signed64 neg k) = neg := signed64_msb neg k

theorem expo_signed64 (hk : k < 2 ^ 63) : F64.expo (signed64 neg k) = k / 2 ^ 52 := by
  unfold F64.expo
  rw [BitVec.extractLsb'_toNat, signed64_toNat neg hk, Nat.shiftRight_eq_div_pow]
  omega

theorem fraction_signed64 (hk : k < 2 ^ 63) : F64.fraction (signed64 neg k) = k % 2 ^ 52 := by
  unfold F64.fraction
  rw [BitVec.extractLsb'_toNat, signed64_toNat neg hk, Nat.shiftRight_zero]
  omega

theorem signed64_getLsbD_zero (hk : k < 2 ^ 63) : (signed64 neg k).getLsbD 0 = decide (k % 2 = 1) := by
  rw [BitVec.getLsbD, signed64_toNat neg hk, Nat.testBit_zero]
  congr 2
  omega

theorem infinity_lt : FFormat.f64.infinity < 2 ^ 63 := by decide

/-- Below the infinity a pattern denotes its magnitude with its sign. -/
theorem val_signed64 (hk : k < FFormat.f64.infinity) :
    F64.val (signed64 neg k) = .fin neg (FFormat.f64.sig k) (FFormat.f64.expo k) := by
  rw [FFormat.f64_infinity] at hk
  have hlt : k < 2 ^ 63 := by omega
  have hexpo : k / 2 ^ 52 ≠ 0x7FF := by omega
  unfold F64.val
  rw [expo_signed64 neg hlt, fraction_signed64 neg hlt, sign_signed64, if_neg hexpo]
  unfold FFormat.sig FFormat.expo FFormat.expoNat
  rw [FFormat.f64_frac, FFormat.f64_emin]
  split
  · next h => rw [h]; rfl
  · next h => congr 1; omega

@[simp] theorem val_f64Inf : F64.val (f64Inf neg) = .inf neg := by
  cases neg <;> decide

/-- Above the infinity the patterns are NaNs. -/
theorem val_signed64_nan (hk : FFormat.f64.infinity < k) (hlt : k < 2 ^ 63) :
    F64.val (signed64 neg k) = .nan := by
  rw [FFormat.f64_infinity] at hk
  have hexpo : k / 2 ^ 52 = 0x7FF := by omega
  unfold F64.val
  rw [expo_signed64 neg hlt, fraction_signed64 neg hlt, if_pos hexpo, if_neg (by omega)]

end

/-- A pattern denotes a number, is an infinity, or is a NaN. -/
theorem F64.rec_pattern {motive : F64 → Prop} (number : ∀ neg k, k < FFormat.f64.infinity → motive (signed64 neg k))
    (inf : ∀ neg, motive (f64Inf neg))
    (nan : ∀ neg k, FFormat.f64.infinity < k → k < 2 ^ 63 → motive (signed64 neg k)) (x : F64) : motive x := by
  obtain ⟨neg, k, hk, rfl⟩ := exists_signed64 x
  rcases Nat.lt_trichotomy k FFormat.f64.infinity with h | rfl | h
  · exact number neg k h
  · exact inf neg
  · exact nan neg k h hk

theorem finite_iff_val {x : F64} : F64.finite x = true ↔ ∃ s m e, F64.val x = .fin s m e := by
  unfold F64.finite
  cases F64.val x <;> simp [FVal.isFinite]

/-- A finite pattern is a sign and a magnitude below the infinity. -/
theorem exists_of_finite {x : F64} (hx : F64.finite x = true) :
    ∃ neg k, k < FFormat.f64.infinity ∧ x = signed64 neg k := by
  cases x using F64.rec_pattern with
  | number neg k hk => exact ⟨neg, k, hk, rfl⟩
  | inf neg => simp [F64.finite, FVal.isFinite] at hx
  | nan neg k hk hlt => simp [F64.finite, val_signed64_nan neg hk hlt, FVal.isFinite] at hx

theorem finite_signed64 (neg : Bool) {k : ℕ} (hk : k < FFormat.f64.infinity) :
    F64.finite (signed64 neg k) = true := by
  rw [F64.finite, val_signed64 neg hk]
  rfl

theorem toRat_eq_of_val {x : F64} {s : Bool} {m : ℕ} {e : ℤ} (h : F64.val x = .fin s m e) :
    F64.toRat x = (if s then -1 else 1) * m * 2 ^ e := by
  rw [F64.toRat, h]
  rfl

/-- The number a finite pattern denotes, as a real one. -/
theorem toRat_signed64 (neg : Bool) {k : ℕ} (hk : k < FFormat.f64.infinity) :
    (F64.toRat (signed64 neg k) : ℝ) = (if neg then -1 else 1) * FFormat.f64.mag k := by
  rw [toRat_eq_of_val (val_signed64 neg hk), FFormat.mag_eq]
  push_cast
  split <;> ring

theorem cls_eq_nan_iff {x : F64} : F64.cls x = .nan ↔ F64.val x = .nan := by
  unfold F64.cls F64.val
  split_ifs <;> simp_all

theorem cls_eq_infinity_iff {x : F64} : F64.cls x = .infinity ↔ ∃ n, F64.val x = .inf n := by
  unfold F64.cls F64.val
  split_ifs <;> simp_all

/-- The only pattern of an infinity. -/
theorem eq_f64Inf_of_val {x : F64} {n : Bool} (h : F64.val x = .inf n) : x = f64Inf n := by
  cases x using F64.rec_pattern with
  | number neg k hk => simp [val_signed64 neg hk] at h
  | inf neg =>
    rw [val_f64Inf] at h
    cases h
    rfl
  | nan neg k hk hlt => simp [val_signed64_nan neg hk hlt] at h

/-- The sign of a value is the sign bit of its pattern. -/
theorem msb_of_val_fin {x : F64} {s : Bool} {m : ℕ} {e : ℤ} (h : F64.val x = .fin s m e) : x.msb = s := by
  obtain ⟨neg, k, hk, rfl⟩ := exists_of_finite (finite_iff_val.2 ⟨s, m, e, h⟩)
  rw [val_signed64 neg hk] at h
  cases h
  exact signed64_msb _ _

/-! ### The nearest pattern, with a sign -/

/-- Every other number of the format is further away, or as far and the nearest pattern is even; with a
sign on either side. -/
theorem FFormat.NearestEven.abs_sub_signed {f : FFormat} {q : ℝ} {R k : ℕ} {s t : Bool} (hq : 0 ≤ q)
    (h : f.NearestEven q R)
    (hne : (if t then -1 else 1 : ℝ) * f.mag k ≠ (if s then -1 else 1) * f.mag R) :
    |(if s then -1 else 1) * q - (if s then -1 else 1) * f.mag R| <
        |(if s then -1 else 1) * q - (if t then -1 else 1) * f.mag k| ∨
      |(if s then -1 else 1) * q - (if s then -1 else 1) * f.mag R| =
        |(if s then -1 else 1) * q - (if t then -1 else 1) * f.mag k| ∧ R % 2 = 0 := by
  have hs (a : ℝ) : |(if s then -1 else 1) * q - (if s then -1 else 1) * a| = |q - a| := by
    cases s
    · simp
    · rw [abs_sub_comm q a]
      simp [add_comm, sub_eq_add_neg]
  rw [hs]
  by_cases hst : s = t
  · subst hst
    rw [hs]
    exact h.abs_sub fun hk => hne (by rw [hk])
  · -- on the other side of zero: no nearer than zero itself
    have hfar : |(if s then -1 else 1) * q - (if t then -1 else 1) * f.mag k| = q + f.mag k := by
      have := f.mag_nonneg k
      cases s <;> cases t <;> simp at hst
      · simp only [Bool.false_eq_true, if_true, if_false]
        rw [one_mul, neg_one_mul, sub_neg_eq_add, abs_of_nonneg (by positivity)]
      · simp only [Bool.false_eq_true, if_true, if_false]
        rw [one_mul, neg_one_mul, abs_of_nonpos (by linarith)]
        ring
    have hk := f.mag_nonneg k
    rw [hfar]
    rcases Nat.eq_zero_or_pos R with rfl | hR
    · have : f.mag k ≠ 0 := fun h0 => hne (by simp [h0])
      rw [f.mag_zero, sub_zero, abs_of_nonneg hq]
      exact .inl (lt_add_of_pos_right q (hk.lt_of_ne' this))
    · have h0 := h.abs_sub hR.ne
      rw [f.mag_zero, sub_zero, abs_of_nonneg hq] at h0
      rcases h0 with h0 | ⟨h0, heven⟩
      · exact .inl (by linarith)
      · rcases hk.lt_or_eq with h1 | h1
        · exact .inl (by linarith)
        · exact .inr ⟨by linarith, heven⟩

/-- The infinity stands where the next power of two would. -/
theorem mag_f64_infinity : FFormat.f64.mag FFormat.f64.infinity = 2 ^ 1024 := by
  have h : FFormat.f64.infinity = 2046 * 2 ^ FFormat.f64.frac + 2 ^ 52 := rfl
  rw [h, FFormat.mag_pattern _ (by decide) (.inr (by decide)), FFormat.f64_emin,
    show (-1074 + (2046 : ℕ) : ℤ) = (972 : ℕ) by norm_num, zpow_natCast, Nat.cast_pow, Nat.cast_ofNat,
    ← pow_add]

/-- Where binary64 rounding reaches the infinity: halfway from the greatest number to it. -/
theorem two_mul_overflow : FFormat.f64.mag (FFormat.f64.infinity - 1) + FFormat.f64.mag FFormat.f64.infinity =
    2 * (2 ^ 1024 - 2 ^ 970) := by
  have h : FFormat.f64.infinity - 1 = 2045 * 2 ^ FFormat.f64.frac + (2 ^ 53 - 1) := rfl
  have hpow (n : ℕ) : (2 : ℝ) ^ (970 + n) = 2 ^ 970 * 2 ^ n := pow_add ..
  rw [mag_f64_infinity, h, FFormat.mag_pattern _ (by decide) (.inr (by decide)), FFormat.f64_emin,
    show (-1074 + (2045 : ℕ) : ℤ) = (971 : ℕ) by norm_num, zpow_natCast, hpow 1, hpow 54]
  generalize (2 : ℝ) ^ 970 = c
  norm_num
  ring

theorem nearestEven_lt_infinity {q : ℝ} {R : ℕ} (h : FFormat.f64.NearestEven q R) :
    R < FFormat.f64.infinity ↔ q < 2 ^ 1024 - 2 ^ 970 := by
  have hodd : (FFormat.f64.infinity - 1) % 2 = 1 := by decide
  calc R < FFormat.f64.infinity ↔ R ≤ FFormat.f64.infinity - 1 := Nat.lt_succ_iff
    _ ↔ 2 * q < 2 * (2 ^ 1024 - 2 ^ 970) := two_mul_overflow ▸ h.lt_iff hodd
    _ ↔ q < 2 ^ 1024 - 2 ^ 970 := mul_lt_mul_iff_right₀ two_pos

/-- The nearest pattern with the number's sign is what it rounds to. -/
theorem roundsTo_signed64 {q : ℝ} {R : ℕ} (neg : Bool) (hq : 0 ≤ q) (h : FFormat.f64.NearestEven q R) :
    RoundsTo ((if neg then -1 else 1) * q) neg (signed64 neg (min R FFormat.f64.infinity)) := by
  have habs : |(if neg then -1 else 1) * q| = q := by
    cases neg <;> simp [abs_of_nonneg hq]
  refine ⟨fun _ => signed64_msb _ _, fun hlt => ?_, fun hgt => ?_, fun hbig => ?_, fun hsmall => ?_⟩
  · cases neg with
    | false => exact absurd hlt (by simpa using hq)
    | true => exact signed64_msb _ _
  · cases neg with
    | false => exact signed64_msb _ _
    | true => exact absurd hgt (by simpa using hq)
  · rw [habs] at hbig
    rw [Nat.min_eq_right (Nat.le_of_not_lt fun hlt => not_lt.2 hbig ((nearestEven_lt_infinity h).1 hlt))]
    exact (val_f64Inf neg).trans (congrArg _ (signed64_msb _ _).symm)
  · rw [habs] at hsmall
    have hR := (nearestEven_lt_infinity h).2 hsmall
    rw [Nat.min_eq_left hR.le]
    refine ⟨finite_signed64 neg hR, fun y hy hne => ?_⟩
    obtain ⟨t, k, hk, rfl⟩ := exists_of_finite hy
    rw [← Rat.cast_injective (α := ℝ) |>.ne_iff, toRat_signed64 t hk, toRat_signed64 neg hR] at hne
    rw [toRat_signed64 t hk, toRat_signed64 neg hR, signed64_getLsbD_zero neg (hR.trans infinity_lt)]
    refine (h.abs_sub_signed hq hne).imp_right fun ⟨h1, h2⟩ => ⟨h1, ?_⟩
    simp [h2]

/-- `round64` rounds. -/
theorem roundsTo_round64 (neg : Bool) (m : ℕ) (e : ℤ) :
    RoundsTo ((if neg then -1 else 1) * m * 2 ^ e) neg (round64 neg m e) := by
  obtain ⟨R, hR, h⟩ := FFormat.round_spec (f := FFormat.f64) (by decide) m e
  rw [round64, hR, mul_assoc]
  exact roundsTo_signed64 neg (by positivity) h

/-- `round64` of a number with a sticky bit rounds the number the sticky bit stands for. -/
theorem roundsTo_round64_sticky (neg : Bool) {Q : ℕ} {e : ℤ} {inexact : Bool} {x : ℝ} (hx0 : 0 ≤ x)
    (hM : 2 ^ 55 ≤ withSticky Q inexact)
    (hx : if inexact then (2 * Q : ℕ) * 2 ^ e < x ∧ x < (2 * Q + 2 : ℕ) * 2 ^ e else x = (2 * Q : ℕ) * 2 ^ e) :
    RoundsTo ((if neg then -1 else 1) * x) neg (round64 neg (withSticky Q inexact) e) := by
  obtain ⟨R, hR, h⟩ := FFormat.round_spec (f := FFormat.f64) (by decide) (withSticky Q inexact) e
  rw [round64, hR]
  exact roundsTo_signed64 neg hx0 (h.of_sticky hM hx)

/-- The sign `RoundsTo` names matters for zero only. -/
theorem RoundsTo.of_ne_zero {q : ℝ} {neg neg' : Bool} {x : F64} (h : RoundsTo q neg x) (hq : q ≠ 0) :
    RoundsTo q neg' x :=
  ⟨fun h0 => absurd h0 hq, h.2⟩

/-- A magnitude below the infinity rounds to itself. -/
theorem round64_eq_of_mag_eq {neg : Bool} {m : ℕ} {e : ℤ} {k : ℕ} (hk : k < FFormat.f64.infinity)
    (h : (m : ℝ) * 2 ^ e = FFormat.f64.mag k) : round64 neg m e = signed64 neg k := by
  obtain ⟨R, hR, hnear⟩ := FFormat.round_spec (f := FFormat.f64) (by decide) m e
  rw [round64, hR, hnear.eq_of_mag_eq h, Nat.min_eq_left hk.le]

/-- What `round64` gives of a number with at most 53 significant bits in the range of the format: that
number, with its sign. -/
theorem round64_exact {m : ℕ} {e : ℤ} (neg : Bool) {m' : ℕ} {e' : ℤ} (hm : m' ≤ 2 ^ 53) (he : -1074 ≤ e')
    (heq : (m : ℝ) * 2 ^ e = m' * 2 ^ e') (hlt : (m : ℝ) * 2 ^ e < 2 ^ 1024) :
    F64.finite (round64 neg m e) = true ∧ (round64 neg m e).msb = neg ∧
      F64.toRat (round64 neg m e) = (if neg then -1 else 1) * m * 2 ^ e := by
  obtain ⟨n, hn⟩ := Int.le.dest he
  obtain ⟨k, hk⟩ := FFormat.f64.exists_mag_eq n (m := m') hm
  rw [FFormat.f64_emin, hn, ← heq] at hk
  have hklt : k < FFormat.f64.infinity :=
    FFormat.f64.mag_strictMono.lt_iff_lt.1 (by rw [hk, mag_f64_infinity]; exact hlt)
  rw [round64_eq_of_mag_eq hklt hk.symm]
  refine ⟨finite_signed64 neg hklt, signed64_msb _ _, ?_⟩
  have h := toRat_signed64 neg hklt
  rw [hk, ← mul_assoc] at h
  rify
  split at h <;> simpa [*] using h

end Sys2Proof.Machine
end

section
/-! The binary64 arithmetic rounds the exact result, and its special cases (R600(a), (b)). -/

namespace Sys2Proof.Machine

/-! ### Exact sums and products -/

theorem FVal.toRat_fin (s : Bool) (m : ℕ) (e : ℤ) :
    (FVal.fin s m e).toRat = (if s then -1 else 1) * m * 2 ^ e := rfl

/-- `unitsAt` is the number in units of `2 ^ u`. -/
theorem unitsAt_mul {u e : ℤ} (h : u ≤ e) (s : Bool) (m : ℕ) :
    (unitsAt u s m e : ℚ) * 2 ^ u = (FVal.fin s m e).toRat := by
  obtain ⟨k, rfl⟩ := Int.le.dest h
  unfold unitsAt
  rw [FVal.toRat_fin, add_sub_cancel_left, Int.toNat_natCast, zpow_add₀ (by norm_num), zpow_natCast]
  cases s
  · simp only [Bool.false_eq_true, if_false]
    push_cast
    ring
  · simp only [if_true]
    push_cast
    ring

/-- An integer is its sign and its magnitude, whatever the sign of zero. -/
theorem sign_mul_natAbs (i : ℤ) (b : Bool) :
    (if (if i = 0 then b else decide (i < 0)) then -1 else 1) * (i.natAbs : ℚ) = i := by
  rcases lt_trichotomy i 0 with h | rfl | h
  · rw [if_neg h.ne, decide_eq_true h, if_pos rfl, Nat.cast_natAbs, abs_of_neg h]
    push_cast
    ring
  · simp
  · rw [if_neg h.ne', decide_eq_false h.le.not_gt, if_neg Bool.false_ne_true, Nat.cast_natAbs, abs_of_pos h,
      one_mul]

theorem FVal.toRat_add_fin (s t : Bool) (m n : ℕ) (e d : ℤ) :
    ((FVal.fin s m e).add (.fin t n d)).toRat = (FVal.fin s m e).toRat + (FVal.fin t n d).toRat := by
  rw [← unitsAt_mul (min_le_left e d), ← unitsAt_mul (min_le_right e d), ← add_mul, ← Int.cast_add,
    ← sign_mul_natAbs _ (s && t)]
  rfl

theorem FVal.toRat_mul_fin (s t : Bool) (m n : ℕ) (e d : ℤ) :
    ((FVal.fin s m e).mul (.fin t n d)).toRat = (FVal.fin s m e).toRat * (FVal.fin t n d).toRat := by
  change (FVal.fin (s ^^ t) (m * n) (e + d)).toRat = _
  simp only [FVal.toRat_fin]
  rw [zpow_add₀ (by norm_num)]
  cases s <;> cases t
  all_goals
    simp only [Bool.bne_true, Bool.bne_false, Bool.not_true, Bool.not_false, Bool.false_eq_true, if_true, if_false]
    push_cast
    ring

theorem FVal.toRat_neg_fin (s : Bool) (m : ℕ) (e : ℤ) :
    (FVal.fin s m e).neg.toRat = -(FVal.fin s m e).toRat := by
  change (FVal.fin (!s) m e).toRat = _
  cases s <;> simp [FVal.toRat_fin]

theorem FVal.toRat_fin_eq_zero {s : Bool} {m : ℕ} {e : ℤ} : (FVal.fin s m e).toRat = 0 ↔ m = 0 := by
  have h2 : (2 : ℚ) ^ e ≠ 0 := by positivity
  rw [FVal.toRat_fin]
  cases s <;> simp [h2]

/-! ### The rounded results -/

/-- A finite value rounds, and the sign named for zero is that of the value. -/
theorem roundsTo_packResult_fin (op : FpOp) (a b : F64) (s : Bool) (m : ℕ) (e : ℤ) :
    RoundsTo ((FVal.fin s m e).toRat : ℝ) s (packResult op a b (.fin s m e)) := by
  have h := roundsTo_round64 s m e
  have hq : (((FVal.fin s m e).toRat : ℚ) : ℝ) = (if s then -1 else 1) * m * 2 ^ e := by
    rw [FVal.toRat_fin]
    cases s <;> simp
  rw [hq]
  exact h

theorem roundsTo_packResult_add (op : FpOp) (a b : F64) (s t : Bool) (m n : ℕ) (e d : ℤ) :
    RoundsTo ((FVal.fin s m e).toRat + (FVal.fin t n d).toRat : ℝ) (s && t)
      (packResult op a b ((FVal.fin s m e).add (.fin t n d))) := by
  rw [← Rat.cast_add, ← FVal.toRat_add_fin]
  unfold FVal.add
  dsimp only
  set i := unitsAt (min e d) s m e + unitsAt (min e d) t n d with hi
  have h := roundsTo_packResult_fin op a b (if i = 0 then s && t else decide (i < 0)) i.natAbs (min e d)
  by_cases h0 : i = 0
  · rw [if_pos h0] at h ⊢
    exact h
  · refine h.of_ne_zero ?_
    rw [Rat.cast_ne_zero, Ne, FVal.toRat_fin_eq_zero, Int.natAbs_eq_zero]
    exact h0

theorem roundsTo_packResult_mul (op : FpOp) (a b : F64) (s t : Bool) (m n : ℕ) (e d : ℤ) :
    RoundsTo ((FVal.fin s m e).toRat * (FVal.fin t n d).toRat : ℝ) (s ^^ t)
      (packResult op a b ((FVal.fin s m e).mul (.fin t n d))) := by
  rw [← Rat.cast_mul, ← FVal.toRat_mul_fin]
  exact roundsTo_packResult_fin op a b _ _ _

/-- The significand and the exponent of a finite pattern. -/
theorem val_fin_bounds {x : F64} {s : Bool} {m : ℕ} {e : ℤ} (h : F64.val x = .fin s m e) :
    m < 2 ^ 53 ∧ -1074 ≤ e ∧ (e = -1074 ∨ 2 ^ 52 ≤ m) ∧ e ≤ 971 := by
  obtain ⟨neg, k, hk, rfl⟩ := exists_of_finite (finite_iff_val.2 ⟨s, m, e, h⟩)
  rw [val_signed64 neg hk] at h
  cases h
  obtain ⟨-, hs, hn⟩ := FFormat.f64.pattern_eq k
  rw [FFormat.f64_infinity] at hk
  unfold FFormat.expo
  refine ⟨hs, ?_, ?_, ?_⟩
  · rw [FFormat.f64_emin]
    omega
  · rw [FFormat.f64_emin]
    exact hn.imp_left fun h => by rw [h]; rfl
  · rw [FFormat.f64_emin]
    unfold FFormat.expoNat
    rw [FFormat.f64_frac]
    omega

/-- A quotient of numbers rounds: the quotient of the integers has more bits than the format, and the
sticky bit stands for the remainder. -/
theorem roundsTo_packResult_div (op : FpOp) (a b : F64) (s t : Bool) {m n : ℕ} (e d : ℤ) (hn0 : n ≠ 0)
    (hn : n < 2 ^ 53) :
    RoundsTo ((FVal.fin s m e).toRat / (FVal.fin t n d).toRat : ℝ) (s ^^ t)
      (packResult op a b ((FVal.fin s m e).div (.fin t n d))) := by
  have hdiv : (FVal.fin s m e).div (.fin t n d) =
      .fin (s ^^ t) (withSticky ((m <<< 110) / n) ((m <<< 110) % n != 0)) (e - d - 111) := if_neg hn0
  have hq : ((FVal.fin s m e).toRat / (FVal.fin t n d).toRat : ℝ) =
      (if (s ^^ t) then -1 else 1) * (m / n * 2 ^ (e - d)) := by
    have h2 : (2 : ℝ) ^ d ≠ 0 := by positivity
    rw [FVal.toRat_fin, FVal.toRat_fin, zpow_sub₀ (by norm_num)]
    cases s <;> cases t
    all_goals
      simp only [Bool.bne_true, Bool.bne_false, Bool.not_true, Bool.not_false, Bool.false_eq_true, if_true, if_false]
      push_cast
      field_simp
  rw [hdiv, hq, Nat.shiftLeft_eq]
  change RoundsTo _ _ (round64 _ _ _)
  rcases Nat.eq_zero_or_pos m with rfl | hm
  · have h := roundsTo_round64 (s ^^ t) 0 (e - d - 111)
    simpa [withSticky] using h
  have hnpos : (0 : ℝ) < n := by exact_mod_cast Nat.pos_of_ne_zero hn0
  have hunit : (2 : ℝ) ^ (e - d) = 2 ^ 111 * 2 ^ (e - d - 111) := zpow_eq_pow_mul_zpow (by push_cast; ring)
  have hu : (0 : ℝ) < 2 ^ (e - d - 111) := by positivity
  have hdm := Nat.div_add_mod' (m * 2 ^ 110) n
  have hmod : m * 2 ^ 110 % n < n := Nat.mod_lt _ (Nat.pos_of_ne_zero hn0)
  have hx : (m / n * 2 ^ (e - d) : ℝ) = (2 * (m * 2 ^ 110 : ℕ) : ℝ) / n * 2 ^ (e - d - 111) := by
    rw [hunit]
    push_cast
    ring
  have hQ : 2 ^ 57 ≤ m * 2 ^ 110 / n := by
    rw [Nat.le_div_iff_mul_le (Nat.pos_of_ne_zero hn0)]
    omega
  refine roundsTo_round64_sticky _ (by positivity) (by unfold withSticky; omega) ?_
  rw [hx]
  by_cases hr : m * 2 ^ 110 % n = 0
  · rw [hr, bne_self_eq_false, if_neg Bool.false_ne_true, mul_left_inj' hu.ne', div_eq_iff hnpos.ne']
    exact_mod_cast (by rw [Nat.mul_assoc]; omega : 2 * (m * 2 ^ 110) = 2 * (m * 2 ^ 110 / n) * n)
  · rw [if_pos (bne_iff_ne.2 hr), mul_lt_mul_iff_left₀ hu, mul_lt_mul_iff_left₀ hu, lt_div_iff₀ hnpos,
      div_lt_iff₀ hnpos]
    constructor
    · exact_mod_cast (by rw [Nat.mul_assoc]; omega : 2 * (m * 2 ^ 110 / n) * n < 2 * (m * 2 ^ 110))
    · exact_mod_cast (by rw [Nat.add_mul, Nat.mul_assoc]; omega : 2 * (m * 2 ^ 110) < (2 * (m * 2 ^ 110 / n) + 2) * n)

/-! ### The obligation -/

/-- The infinities written out. -/
theorem f64Inf_eq (n : Bool) : f64Inf n = if n then 0xFFF0000000000000 else 0x7FF0000000000000 := by
  cases n <;> rfl

theorem round64_zero (s : Bool) (e : ℤ) : round64 s 0 e = if s then 0x8000000000000000 else 0 := by
  rw [round64, FFormat.round, if_pos rfl]
  cases s <;> rfl

/-- Among the patterns below the infinity no other is as near, unless at a tie the even one. -/
theorem round_nearest (m : ℕ) (e : ℤ) (p : ℕ) (hr : FFormat.f64.round m e < FFormat.f64.infinity)
    (hp : p < FFormat.f64.infinity) :
    |(m * 2 ^ e : ℚ) - F64.toRat (signed64 false (FFormat.f64.round m e))| ≤
        |(m * 2 ^ e : ℚ) - F64.toRat (signed64 false p)| ∧
      (p ≠ FFormat.f64.round m e → |(m * 2 ^ e : ℚ) - F64.toRat (signed64 false (FFormat.f64.round m e))| =
        |(m * 2 ^ e : ℚ) - F64.toRat (signed64 false p)| → FFormat.f64.round m e % 2 = 0) := by
  obtain ⟨R, hR, h⟩ := FFormat.round_spec (f := FFormat.f64) (by decide) m e
  rw [show FFormat.f64.round m e = R by omega] at hr ⊢
  simp only [← Rat.cast_le (K := ℝ), ← Rat.cast_inj (α := ℝ)]
  push_cast
  rw [toRat_signed64 false hr, toRat_signed64 false hp]
  simp only [Bool.false_eq_true, if_false, one_mul]
  rcases eq_or_ne p R with rfl | hne
  · exact ⟨le_rfl, fun h => absurd rfl h⟩
  · rcases h.abs_sub hne with hlt | ⟨heq, heven⟩
    · exact ⟨hlt.le, fun _ h => absurd h hlt.ne⟩
    · exact ⟨heq.le, fun _ _ => heven⟩

/-- Settles O54. -/
theorem roundsToNearest : Obligations.RoundsToNearest := by
  refine ⟨round_nearest, ?_, roundsTo_round64, fun a b => ⟨?_, ?_, ?_, ?_⟩⟩
  · intro x y hx hy
    cases x <;> cases hx
    cases y <;> cases hy
    exact ⟨FVal.toRat_add_fin .., FVal.toRat_mul_fin .., rfl, rfl⟩
  · intro ha hb
    obtain ⟨s, m, e, hx⟩ := finite_iff_val.1 ha
    obtain ⟨t, n, d, hy⟩ := finite_iff_val.1 hb
    obtain ⟨hn, -⟩ := val_fin_bounds hy
    have hneg := roundsTo_packResult_add .sub a b s (!t) m n e d
    have hnegRat := FVal.toRat_neg_fin t n d
    have hdiv := fun h => roundsTo_packResult_div .div a b s t (m := m) e d h hn
    unfold fadd64 fsub64 fmul64 fdiv64 F64.toRat
    simp only [msb_of_val_fin hx, msb_of_val_fin hy, hx, hy, Rat.cast_eq_zero, FVal.toRat_fin_eq_zero, ne_eq]
    refine ⟨roundsTo_packResult_add _ _ _ s t m n e d, ?_, roundsTo_packResult_mul _ _ _ s t m n e d, hdiv, ?_, ?_⟩
    · rw [sub_eq_add_neg, ← Rat.cast_neg, ← hnegRat]
      exact hneg
    · rintro rfl hm
      exact (congrArg _ (if_neg hm)).trans (f64Inf_eq _)
    · rintro rfl rfl
      rfl
  · intro n ha hb
    obtain ⟨t, k, d, hy⟩ := finite_iff_val.1 hb
    have hmsb : a.msb = n := by rw [eq_f64Inf_of_val ha]; exact signed64_msb _ _
    unfold fadd64 fsub64 fmul64 fdiv64 F64.toRat
    simp only [hmsb, msb_of_val_fin hy, ha, hy, Rat.cast_eq_zero, FVal.toRat_fin_eq_zero, ← f64Inf_eq,
      ← round64_zero _ 0]
    have hswap : (t ^^ n) = (n ^^ t) := Bool.xor_comm ..
    refine ⟨rfl, rfl, rfl, rfl, rfl, congrArg (round64 · 0 0) hswap, ?_, ?_⟩
    · exact apply_ite (packResult .mul a b) ..
    · rw [← hswap]
      exact apply_ite (packResult .mul b a) ..
  · intro n k ha hb
    have hmsb {x : F64} {n : Bool} (h : F64.val x = .inf n) : x.msb = n := by
      rw [eq_f64Inf_of_val h]; exact signed64_msb _ _
    unfold fadd64 fsub64 fmul64 fdiv64
    rw [hmsb ha, hmsb hb, ha, hb]
    cases n <;> cases k <;> exact ⟨rfl, rfl, rfl, rfl⟩
  · intro h
    unfold fadd64 fsub64 fmul64 fdiv64
    rcases h with h | h <;> rw [cls_eq_nan_iff.1 h]
    · exact ⟨rfl, rfl, rfl, rfl⟩
    · cases F64.val a <;> exact ⟨rfl, rfl, rfl, rfl⟩

end Sys2Proof.Machine
end

section
/-! The FPU compares (R619 to R629). -/

namespace Sys2Proof.Machine

/-- Numbers compare as the rational numbers they denote. -/
theorem FVal.cmp_fin (s t : Bool) (m n : ℕ) (e d : ℤ) :
    (FVal.fin s m e).cmp (.fin t n d) =
      some (if (FVal.fin s m e).toRat < (FVal.fin t n d).toRat then .lt
        else if (FVal.fin s m e).toRat = (FVal.fin t n d).toRat then .eq else .gt) := by
  have hu : (0 : ℚ) < 2 ^ min e d := by positivity
  rw [← unitsAt_mul (min_le_left e d), ← unitsAt_mul (min_le_right e d)]
  simp only [mul_lt_mul_iff_left₀ hu, mul_left_inj' hu.ne', Int.cast_lt, Int.cast_inj]
  rfl

/-- The codes as functions of the order: C2 for none, C0 also for below, C3 also for equal. -/
theorem Fpu.compare_eq (f : Fpu) (a b : F64) {o : Option Ordering} (h : (F64.val a).cmp (F64.val b) = o) :
    f.compare a b = f.setCodes (o == some .eq || o == none) (o == none) (o == some .lt || o == none) := by
  subst h
  unfold Fpu.compare
  rcases (F64.val a).cmp (F64.val b) with _ | _ | _ | _ <;> rfl

theorem isFinite_iff {v : FVal} : v.isFinite = true ↔ ∃ s m e, v = .fin s m e := by
  cases v <;> simp [FVal.isFinite]

theorem FVal.cmp_eq_none {v w : FVal} (h : v = .nan ∨ w = .nan) : v.cmp w = none := by
  rcases h with rfl | rfl
  · rfl
  · cases v <;> rfl

/-- Settles O56: the order of the values, case by case; each form is the compare of its source. -/
theorem fpuCompare : Obligations.FpuCompare := by
  refine ⟨fun f a b => ⟨?_, fun h => ?_, fun ha hb => ?_, fun n ha hb => ?_, fun n ha hb => ?_, fun n k ha hb => ?_⟩,
    fun s => ⟨fun form => ?_, fun form => ?_, fun i => ⟨rfl, rfl⟩, rfl, rfl, rfl⟩⟩
  · rw [f.compare_eq a b rfl]
    rfl
  · rw [cls_eq_nan_iff, cls_eq_nan_iff] at h
    rw [f.compare_eq a b (FVal.cmp_eq_none h)]
    exact ⟨rfl, rfl, rfl⟩
  · obtain ⟨s, m, e, ha⟩ := isFinite_iff.1 ha
    obtain ⟨t, n, d, hb⟩ := isFinite_iff.1 hb
    rw [f.compare_eq a b (by rw [ha, hb, FVal.cmp_fin]), ha, hb]
    rcases lt_trichotomy (FVal.fin s m e).toRat (FVal.fin t n d).toRat with h | h | h
    · rw [if_pos h, decide_eq_true h, decide_eq_false h.ne]
      exact ⟨rfl, rfl, rfl⟩
    · rw [if_neg h.not_lt, if_pos h, decide_eq_true h, decide_eq_false h.not_lt]
      exact ⟨rfl, rfl, rfl⟩
    · rw [if_neg h.not_gt, if_neg h.ne', decide_eq_false h.not_gt, decide_eq_false h.ne']
      exact ⟨rfl, rfl, rfl⟩
  · obtain ⟨t, m, d, hb⟩ := isFinite_iff.1 hb
    rw [f.compare_eq a b (by rw [ha, hb])]
    cases n <;> exact ⟨rfl, rfl, rfl⟩
  · obtain ⟨s, m, e, ha⟩ := isFinite_iff.1 ha
    rw [f.compare_eq a b (by rw [ha, hb])]
    cases n <;> exact ⟨rfl, rfl, rfl⟩
  · rw [f.compare_eq a b (by rw [ha, hb])]
    cases n <;> cases k <;> exact ⟨rfl, rfl, rfl⟩
  · cases form <;> exact ⟨rfl, rfl⟩
  · cases form <;> exact ⟨rfl, rfl⟩

end Sys2Proof.Machine
end

section
/-! Rounding to integers (R535), and the integer and packed BCD stores (R536, R553). -/

namespace Sys2Proof.Machine

/-! ### The rounded integer is the only one -/

theorem rc_cases (rc : BitVec 2) : rc = 0 ∨ rc = 1 ∨ rc = 2 ∨ rc = 3 := by
  revert rc
  decide

/-- `IntRounds` determines the integer. -/
theorem IntRounds.unique {rc : BitVec 2} {q : ℚ} {i j : ℤ} (hi : IntRounds rc q i) (hj : IntRounds rc q j) :
    i = j := by
  obtain ⟨hi0, hi1, hi2, hi3⟩ := hi
  obtain ⟨hj0, hj1, hj2, hj3⟩ := hj
  rcases rc_cases rc with h | h | h | h
  · -- to nearest: at most one apart, and if one apart both are even
    obtain ⟨hi, hie⟩ := hi0 h
    obtain ⟨hj, hje⟩ := hj0 h
    have hi' := abs_le.1 hi
    have hj' := abs_le.1 hj
    have h1 : (i : ℚ) ≤ j + 1 := by linarith
    have h2 : (j : ℚ) ≤ i + 1 := by linarith
    norm_cast at h1 h2
    rcases (by omega : i = j ∨ i = j + 1 ∨ j = i + 1) with h | rfl | rfl
    · exact h
    · push_cast at *
      have e1 : q - (j + 1) = -(1 / 2) := by linarith
      have e2 : q - j = 1 / 2 := by linarith
      have := hie (by rw [e1]; norm_num)
      have := hje (by rw [e2]; norm_num)
      omega
    · push_cast at *
      have e1 : q - (i + 1) = -(1 / 2) := by linarith
      have e2 : q - i = 1 / 2 := by linarith
      have := hje (by rw [e1]; norm_num)
      have := hie (by rw [e2]; norm_num)
      omega
  · obtain ⟨h1, h2⟩ := hi1 h
    obtain ⟨h3, h4⟩ := hj1 h
    exact (Int.floor_eq_iff.2 ⟨h1, h2⟩).symm.trans (Int.floor_eq_iff.2 ⟨h3, h4⟩)
  · obtain ⟨h1, h2⟩ := hi2 h
    obtain ⟨h3, h4⟩ := hj2 h
    exact (Int.ceil_eq_iff.2 ⟨h2, h1⟩).symm.trans (Int.ceil_eq_iff.2 ⟨h4, h3⟩)
  · -- toward zero: the magnitude is that of the floor, and the sign that of `q`
    obtain ⟨h1, h2, h3⟩ := hi3 h
    obtain ⟨h4, h5, h6⟩ := hj3 h
    have h7 : |(i : ℚ)| < |(j : ℚ)| + 1 := h1.trans_lt h5
    have h8 : |(j : ℚ)| < |(i : ℚ)| + 1 := h4.trans_lt h2
    norm_cast at h7 h8
    rcases abs_eq_abs.1 (by omega : |i| = |j|) with h | rfl
    · exact h
    · push_cast at *
      have h9 : q * j = 0 := by linarith
      rcases mul_eq_zero.1 h9 with rfl | h9
      · rw [abs_zero] at h4
        have : (j : ℚ) = 0 := abs_nonpos_iff.1 h4
        norm_cast at this
        omega
      · norm_cast at h9
        omega

/-! ### `roundIntMag` -/

/-- An integer rounds to itself. -/
theorem intRounds_self (rc : BitVec 2) (i : ℤ) : IntRounds rc i i := by
  refine ⟨fun _ => ?_, fun _ => ?_, fun _ => ?_, fun _ => ?_⟩
  · rw [sub_self, abs_zero]
    exact ⟨by norm_num, fun h => absurd h (by norm_num)⟩
  · exact ⟨le_rfl, by linarith⟩
  · exact ⟨le_rfl, by linarith⟩
  · exact ⟨le_rfl, by linarith, mul_self_nonneg _⟩

/-- The integer of a sign and a magnitude. -/
def signedInt (s : Bool) (n : ℕ) : ℤ := if s then -n else n

theorem signedInt_cast (s : Bool) (n : ℕ) : (signedInt s n : ℚ) = (if s then -1 else 1) * n := by
  cases s <;> simp [signedInt]

@[simp] theorem signedInt_natAbs (s : Bool) (n : ℕ) : (signedInt s n).natAbs = n := by
  cases s <;> simp [signedInt]

theorem signedInt_emod_two (s : Bool) (n : ℕ) : signedInt s n % 2 = 0 ↔ n % 2 = 0 := by
  cases s <;> simp only [signedInt, Bool.false_eq_true, if_true, if_false] <;> omega

/-- The magnitude each rounding control chooses between the integer part `Q` and `Q + 1`, `t` being the
fraction. -/
theorem intRounds_of_parts {rc : BitVec 2} {s : Bool} {Q R : ℕ} {t : ℚ} (h0 : 0 ≤ t) (h1 : t < 1)
    (hR : (R = Q ∧ (rc = 0 → 2 * t ≤ 1 ∧ (Q % 2 = 1 → 2 * t < 1)) ∧ (rc = 1 → s = false ∨ t = 0) ∧
        (rc = 2 → s = true ∨ t = 0)) ∨
      (R = Q + 1 ∧ (rc = 0 → 1 ≤ 2 * t ∧ (Q % 2 = 0 → 1 < 2 * t)) ∧ (rc = 1 → s = true ∧ t ≠ 0) ∧
        (rc = 2 → s = false ∧ t ≠ 0) ∧ rc ≠ 3)) :
    IntRounds rc ((if s then -1 else 1) * (Q + t)) (signedInt s R) := by
  have hdist : |((if s then -1 else 1) * (Q + t) - (signedInt s R : ℚ))| = |Q + t - R| := by
    rw [signedInt_cast, ← mul_sub, abs_mul]
    cases s <;> simp
  have hQ : (0 : ℚ) ≤ Q := Nat.cast_nonneg Q
  refine ⟨fun hrc => ?_, fun hrc => ?_, fun hrc => ?_, fun hrc => ?_⟩
  · rw [hdist, signedInt_emod_two]
    rcases hR with ⟨rfl, h, -⟩ | ⟨rfl, h, -⟩
    · obtain ⟨h2, h3⟩ := h hrc
      rw [add_sub_cancel_left, abs_of_nonneg h0]
      refine ⟨by linarith, fun ht => ?_⟩
      by_contra hodd
      linarith [h3 (by omega)]
    · obtain ⟨h2, h3⟩ := h hrc
      rw [show (Q + t - (Q + 1 : ℕ) : ℚ) = -(1 - t) by push_cast; ring, abs_neg, abs_of_pos (by linarith)]
      refine ⟨by linarith, fun ht => ?_⟩
      by_contra hodd
      linarith [h3 (by omega)]
  · rw [signedInt_cast]
    rcases hR with ⟨rfl, -, h, -⟩ | ⟨rfl, -, h, -⟩
    · rcases h hrc with rfl | rfl
      · simp only [Bool.false_eq_true, if_false]
        constructor <;> linarith
      · rw [add_zero]
        constructor <;> linarith
    · obtain ⟨rfl, ht⟩ := h hrc
      have := h0.lt_of_ne' ht
      rw [if_pos rfl]
      push_cast
      constructor <;> linarith
  · rw [signedInt_cast]
    rcases hR with ⟨rfl, -, -, h⟩ | ⟨rfl, -, -, h, -⟩
    · rcases h hrc with rfl | rfl
      · rw [if_pos rfl]
        constructor <;> linarith
      · rw [add_zero]
        constructor <;> linarith
    · obtain ⟨rfl, ht⟩ := h hrc
      have := h0.lt_of_ne' ht
      simp only [Bool.false_eq_true, if_false]
      push_cast
      constructor <;> linarith
  · rcases hR with ⟨rfl, -⟩ | ⟨-, -, -, -, h⟩
    · have hs (a : ℚ) (ha : 0 ≤ a) : |(if s then -1 else 1) * a| = a := by
        cases s <;> simp [abs_of_nonneg ha]
      rw [signedInt_cast, hs _ hQ, hs _ (by linarith)]
      refine ⟨by linarith, by linarith, ?_⟩
      have : (0 : ℚ) ≤ (R + t) * R := by positivity
      cases s
      · simpa using this
      · simp only [if_true]
        linarith
    · exact absurd hrc h

/-- `roundIntMag` rounds as the rounding control says. -/
theorem intRounds_roundIntMag (rc : BitVec 2) (s : Bool) (m : ℕ) (e : ℤ) :
    IntRounds rc (FVal.fin s m e).toRat (signedInt s (roundIntMag rc s m e)) := by
  rw [FVal.toRat_fin]
  rcases le_or_gt 0 e with he | he
  · rw [roundIntMag, if_pos he]
    obtain ⟨k, rfl⟩ := Int.eq_ofNat_of_zero_le he
    have h := intRounds_self rc (signedInt s (m <<< k))
    rw [signedInt_cast, Nat.shiftLeft_eq] at h
    push_cast at h
    rw [mul_assoc, zpow_natCast, Int.toNat_natCast, Nat.shiftLeft_eq]
    exact h
  · rw [roundIntMag, if_neg he.not_ge]
    obtain ⟨k, hk⟩ : ∃ k : ℕ, -e = k := ⟨_, (Int.toNat_of_nonneg (by omega)).symm⟩
    have hu : (0 : ℚ) < 2 ^ k := by positivity
    have hdm := Nat.div_add_mod' m (2 ^ k)
    have hmod : m % 2 ^ k < 2 ^ k := Nat.mod_lt _ (by positivity)
    rw [hk, Int.toNat_natCast]
    dsimp only
    rw [Nat.shiftRight_eq_div_pow]
    -- the integer part and the fraction
    have hval : (if s then -1 else 1) * (m : ℚ) * 2 ^ e =
        (if s then -1 else 1) * ((m / 2 ^ k : ℕ) + (m % 2 ^ k : ℕ) / 2 ^ k) := by
      rw [show e = -(k : ℤ) by omega, zpow_neg, zpow_natCast, mul_assoc]
      congr 1
      field_simp
      rw [mul_comm ((2 : ℚ) ^ k)]
      exact_mod_cast hdm.symm
    rw [hval]
    have h0 : (0 : ℚ) ≤ (m % 2 ^ k : ℕ) / 2 ^ k := by positivity
    have h1 : ((m % 2 ^ k : ℕ) / 2 ^ k : ℚ) < 1 := by
      rw [div_lt_one hu]
      exact_mod_cast hmod
    have hzero : ((m % 2 ^ k : ℕ) / 2 ^ k : ℚ) = 0 ↔ m % 2 ^ k = 0 := by
      rw [div_eq_zero_iff, or_iff_left hu.ne', Nat.cast_eq_zero]
    refine intRounds_of_parts h0 h1 ?_
    rw [hzero]
    rcases rc_cases rc with rfl | rfl | rfl | rfl
    · have half : 2 * ((m % 2 ^ k : ℕ) / 2 ^ k : ℚ) = (2 * (m % 2 ^ k) : ℕ) / 2 ^ k := by push_cast; ring
      rw [half, div_le_one hu, div_lt_one hu, one_le_div hu, one_lt_div hu]
      norm_cast
      have e : (2 * (m / 2 ^ k) + 1) * 2 ^ k = 2 * (m / 2 ^ k * 2 ^ k) + 2 ^ k := by ring
      rcases roundShift_spec m k with ⟨h2, h3, h4⟩ | ⟨h2, h3, h4⟩
      · exact .inl ⟨h2, fun _ => ⟨by omega, fun h => by have := h4 h; omega⟩, nofun, nofun⟩
      · exact .inr ⟨h2, fun _ => ⟨by omega, fun h => by have := h4 h; omega⟩, nofun, nofun, nofun⟩
    · change (if (s && (m % 2 ^ k != 0)) = true then _ else _) = _ ∧ _ ∨ (if (s && (m % 2 ^ k != 0)) = true then _ else _) = _ ∧ _
      split
      · next h => exact .inr ⟨rfl, nofun, fun _ => by simpa using h, nofun, nofun⟩
      · next h => exact .inl ⟨rfl, nofun, fun _ => by cases s <;> simp_all, nofun⟩
    · change (if (!s && (m % 2 ^ k != 0)) = true then _ else _) = _ ∧ _ ∨ (if (!s && (m % 2 ^ k != 0)) = true then _ else _) = _ ∧ _
      split
      · next h => exact .inr ⟨rfl, nofun, nofun, fun _ => by simpa using h, nofun⟩
      · next h => exact .inl ⟨rfl, nofun, nofun, fun _ => by cases s <;> simp_all⟩
    · exact .inl ⟨rfl, nofun, nofun, nofun⟩

/-- `roundToInt` of a number is the integer `IntRounds` names. -/
theorem roundToInt_eq {rc : BitVec 2} {x : F64} {i : ℤ} (hx : F64.finite x = true)
    (hi : IntRounds rc (F64.toRat x) i) : roundToInt rc x = some i := by
  obtain ⟨s, m, e, hv⟩ := finite_iff_val.1 hx
  rw [F64.toRat, hv] at hi
  rw [roundToInt, hv, hi.unique (intRounds_roundIntMag rc s m e)]
  rfl

theorem roundToInt_eq_none {rc : BitVec 2} {x : F64} (hx : F64.finite x = false) : roundToInt rc x = none := by
  unfold F64.finite at hx
  unfold roundToInt
  cases hv : F64.val x <;> simp_all [FVal.isFinite]

/-! ### Packed BCD -/

/-- Byte `j` holds the decimal digits `2j` and `2j + 1`. -/
theorem bcdBytes_getD {n j : ℕ} (hj : j < n) (v : ℕ) (rest : List Byte) :
    ((bcdBytes n v ++ rest).getD j 0).toNat = v / 100 ^ j % 10 + 16 * (v / 100 ^ j / 10 % 10) := by
  induction n generalizing j v with
  | zero => exact absurd hj j.not_lt_zero
  | succ n ih =>
    cases j with
    | zero =>
      change (BitVec.ofNat 8 _).toNat = _
      rw [BitVec.toNat_ofNat, pow_zero, Nat.div_one]
      omega
    | succ j =>
      rw [pow_succ', ← Nat.div_div_eq_div_mul, ← ih (by omega) (v / 100)]
      rfl

/-- Nibble `k` of the packed digits is decimal digit `k`. -/
theorem bcdBytes_digit {n k : ℕ} (hk : k < 2 * n) (v : ℕ) (rest : List Byte) :
    ((bcdBytes n v ++ rest).getD (k / 2) 0).toNat / 16 ^ (k % 2) % 16 = v / 10 ^ k % 10 := by
  rw [bcdBytes_getD (by omega)]
  have hpow : v / 10 ^ k = v / 100 ^ (k / 2) / 10 ^ (k % 2) := by
    rw [Nat.div_div_eq_div_mul, show 100 = 10 ^ 2 by norm_num, ← pow_mul, ← pow_add, Nat.div_add_mod]
  rw [hpow]
  generalize v / 100 ^ (k / 2) = w
  rcases Nat.mod_two_eq_zero_or_one k with h | h <;> rw [h]
  · rw [pow_zero, Nat.div_one, pow_zero, Nat.div_one]
    omega
  · rw [pow_one, pow_one]
    omega

end Sys2Proof.Machine
end

section
/-! The binary32 and extended patterns, and the conversions from and to them (R534). -/

namespace Sys2Proof.Machine

theorem toNat_append_eq {n m : ℕ} (x : BitVec n) (y : BitVec m) : (x ++ y).toNat = x.toNat * 2 ^ m + y.toNat := by
  rw [BitVec.toNat_append, ← Nat.shiftLeft_add_eq_or_of_lt y.isLt, Nat.shiftLeft_eq]

/-- A pattern that is no NaN is what its value packs to. -/
theorem packResult_val (op : FpOp) (a b x : F64) (hx : F64.cls x ≠ .nan) : packResult op a b (F64.val x) = x := by
  rw [Ne, cls_eq_nan_iff] at hx
  cases x using F64.rec_pattern with
  | number neg k hk =>
    rw [val_signed64 neg hk]
    exact round64_eq_of_mag_eq hk rfl
  | inf neg =>
    rw [val_f64Inf]
    rfl
  | nan neg k hk hlt => exact absurd (val_signed64_nan neg hk hlt) hx

/-- A finite value packs back with any scaling of its significand. -/
theorem round64_eq_of_val {x : F64} {s : Bool} {m : ℕ} {e : ℤ} (hx : F64.val x = .fin s m e) {m' : ℕ} {e' : ℤ}
    (h : (m' : ℝ) * 2 ^ e' = m * 2 ^ e) : round64 s m' e' = x := by
  obtain ⟨neg, k, hk, rfl⟩ := exists_of_finite (finite_iff_val.2 ⟨s, m, e, hx⟩)
  rw [val_signed64 neg hk] at hx
  cases hx
  exact round64_eq_of_mag_eq hk h

/-! ### Integers -/

theorem roundsTo_intToF64 (i : ℤ) : RoundsTo i false (intToF64 i) := by
  have h := roundsTo_round64 (decide (i < 0)) i.natAbs 0
  rw [zpow_zero, mul_one] at h
  rcases lt_or_ge i 0 with hi | hi
  · rw [decide_eq_true hi, if_pos rfl, Nat.cast_natAbs, abs_of_neg hi] at h
    rw [intToF64, decide_eq_true hi]
    push_cast at h
    rw [neg_one_mul, neg_neg] at h
    exact h.of_ne_zero (by exact_mod_cast hi.ne)
  · rw [decide_eq_false hi.not_gt, if_neg Bool.false_ne_true, one_mul, Nat.cast_natAbs, abs_of_nonneg hi] at h
    rw [intToF64, decide_eq_false hi.not_gt]
    exact h

/-- A number of at most 53 bits below `2 ^ 1024` packs exactly. -/
theorem toRat_round64 {m : ℕ} {e : ℤ} (neg : Bool) (hm : m ≤ 2 ^ 53) (he : -1074 ≤ e) (he' : e ≤ 970) :
    F64.finite (round64 neg m e) = true ∧ (round64 neg m e).msb = neg ∧
      F64.toRat (round64 neg m e) = (if neg then -1 else 1) * m * 2 ^ e := by
  refine round64_exact neg hm he rfl ?_
  calc (m : ℝ) * 2 ^ e ≤ (2 ^ 53 : ℕ) * 2 ^ (970 : ℤ) := by
        gcongr
        norm_num
    _ < 2 ^ (54 : ℕ) * 2 ^ (970 : ℕ) := by
        rw [show (970 : ℤ) = (970 : ℕ) from rfl, zpow_natCast]
        gcongr
        norm_num
    _ = 2 ^ 1024 := (pow_add ..).symm

theorem toRat_intToF64 {i : ℤ} (h1 : -(2 ^ 53) ≤ i) (h2 : i ≤ 2 ^ 53) : F64.toRat (intToF64 i) = i := by
  obtain ⟨-, -, h⟩ := toRat_round64 (m := i.natAbs) (e := 0) (decide (i < 0)) (by omega) (by norm_num) (by norm_num)
  have hs : (if i = 0 then false else decide (i < 0)) = decide (i < 0) := by
    split
    · next h0 => simp [h0]
    · rfl
  rw [intToF64, h, zpow_zero, mul_one, ← hs, sign_mul_natAbs]

/-! ### binary32 -/

/-- The fields of a binary32 pattern. -/
theorem f32_fields (b : BitVec 32) : (b.extractLsb' 23 8).toNat = b.toNat / 2 ^ 23 % 2 ^ 8 ∧
    (b.extractLsb' 0 23).toNat = b.toNat % 2 ^ 23 := by
  rw [BitVec.extractLsb'_toNat, BitVec.extractLsb'_toNat, Nat.shiftRight_eq_div_pow, Nat.shiftRight_zero]
  exact ⟨rfl, rfl⟩

/-- A binary32 pattern from its sign and the rest. -/
def signed32 (neg : Bool) (mag : ℕ) : BitVec 32 := BitVec.ofBool neg ++ BitVec.ofNat 31 mag

section
variable (neg : Bool) {k : ℕ}

theorem signed32_toNat (hk : k < 2 ^ 31) : (signed32 neg k).toNat = neg.toNat * 2 ^ 31 + k := by
  have h : (signed32 neg k).toNat = (BitVec.ofBool neg).toNat * 2 ^ 31 + (BitVec.ofNat 31 k).toNat :=
    toNat_append_eq ..
  rw [h, BitVec.toNat_ofBool, BitVec.toNat_ofNat, Nat.mod_eq_of_lt hk]

@[simp] theorem signed32_msb (k : ℕ) : (signed32 neg k).msb = neg := by
  have h : (signed32 neg k).msb = if 1 = 0 then (BitVec.ofNat 31 k).msb else (BitVec.ofBool neg).msb :=
    BitVec.msb_append
  rw [h, if_neg one_ne_zero, BitVec.msb_ofBool]

theorem exists_signed32 (b : BitVec 32) : ∃ k < 2 ^ 31, b = signed32 b.msb k := by
  refine ⟨b.toNat % 2 ^ 31, Nat.mod_lt _ (by norm_num), BitVec.eq_of_toNat_eq ?_⟩
  have hlt : b.toNat < 2 * 2 ^ 31 := b.isLt
  rw [signed32_toNat _ (Nat.mod_lt _ (by norm_num)), BitVec.msb_eq_decide]
  by_cases h : 2 ^ 31 ≤ b.toNat
  · simp only [show (32 - 1 : ℕ) = 31 from rfl, h, decide_true, Bool.toNat_true]
    omega
  · simp only [show (32 - 1 : ℕ) = 31 from rfl, h, decide_false, Bool.toNat_false]
    omega

theorem FFormat.f32_infinity : FFormat.f32.infinity = 255 * 2 ^ 23 := rfl

/-- The fields of a sign and a magnitude. -/
theorem signed32_fields (hk : k < 2 ^ 31) : ((signed32 neg k).extractLsb' 23 8).toNat = k / 2 ^ 23 ∧
    ((signed32 neg k).extractLsb' 0 23).toNat = k % 2 ^ 23 := by
  obtain ⟨h1, h2⟩ := f32_fields (signed32 neg k)
  rw [h1, h2, signed32_toNat neg hk]
  omega

theorem signed32_expo_ne_iff (hk : k < 2 ^ 31) :
    (signed32 neg k).extractLsb' 23 8 ≠ 0xFF ↔ k < FFormat.f32.infinity := by
  obtain ⟨h1, -⟩ := signed32_fields neg hk
  rw [Ne, ← BitVec.toNat_inj, h1, FFormat.f32_infinity]
  change ¬k / 2 ^ 23 = 255 ↔ _
  omega

/-- Below the infinity a pattern denotes its magnitude with its sign. -/
theorem toRat_signed32 (hk : k < FFormat.f32.infinity) :
    (F32.toRat (signed32 neg k) : ℝ) = (if neg then -1 else 1) * FFormat.f32.mag k := by
  rw [FFormat.f32_infinity] at hk
  obtain ⟨h1, h2⟩ := signed32_fields neg (k := k) (by omega)
  unfold F32.toRat FFormat.mag FFormat.sig FFormat.expo FFormat.expoNat
  rw [h1, h2, signed32_msb, show FFormat.f32.frac = 23 from rfl, show FFormat.f32.emin = -149 from rfl]
  dsimp only
  by_cases h : k / 2 ^ 23 = 0
  · rw [h, if_pos rfl, if_pos rfl]
    cases neg <;> simp
  · rw [if_neg h, if_neg h, show (k / 2 ^ 23 : ℕ) - (150 : ℤ) = -149 + (k / 2 ^ 23 - 1 : ℕ) by omega]
    cases neg <;> norm_num

/-- Where binary32 rounding reaches the infinity. -/
theorem nearestEven_lt_infinity32 {q : ℝ} {R : ℕ} (h : FFormat.f32.NearestEven q R) :
    R < FFormat.f32.infinity ↔ q < 2 ^ 128 - 2 ^ 103 := by
  have hodd : (FFormat.f32.infinity - 1) % 2 = 1 := by decide
  have h1 : FFormat.f32.infinity - 1 = 253 * 2 ^ FFormat.f32.frac + (2 ^ 24 - 1) := rfl
  have h2 : FFormat.f32.infinity - 1 + 1 = 254 * 2 ^ FFormat.f32.frac + 2 ^ 23 := rfl
  have hmid : FFormat.f32.mag (FFormat.f32.infinity - 1) + FFormat.f32.mag (FFormat.f32.infinity - 1 + 1) =
      2 * (2 ^ 128 - 2 ^ 103) := by
    rw [h2, FFormat.mag_pattern _ (by decide) (.inr (by decide)), h1,
      FFormat.mag_pattern _ (by decide) (.inr (by decide)), show FFormat.f32.emin = -149 from rfl,
      show (-149 + (253 : ℕ) : ℤ) = (104 : ℕ) by norm_num, show (-149 + (254 : ℕ) : ℤ) = (105 : ℕ) by norm_num,
      zpow_natCast, zpow_natCast]
    norm_num
  calc R < FFormat.f32.infinity ↔ R ≤ FFormat.f32.infinity - 1 := Nat.lt_succ_iff
    _ ↔ 2 * q < 2 * (2 ^ 128 - 2 ^ 103) := hmid ▸ h.lt_iff hodd
    _ ↔ q < 2 ^ 128 - 2 ^ 103 := mul_lt_mul_iff_right₀ two_pos

end

/-- binary32 to binary64 is exact. -/
theorem f32ToF64_finite {b : BitVec 32} (hb : b.extractLsb' 23 8 ≠ 0xFF) : F64.finite (f32ToF64 b) = true ∧
    F64.toRat (f32ToF64 b) = F32.toRat b ∧ (f32ToF64 b).msb = b.msb := by
  have hexpo : (b.extractLsb' 23 8).toNat ≠ 0xFF := fun h => hb (BitVec.eq_of_toNat_eq h)
  have hexpoLt : (b.extractLsb' 23 8).toNat < 2 ^ 8 := BitVec.isLt _
  have hfrac : (b.extractLsb' 0 23).toNat < 2 ^ 23 := BitVec.isLt _
  unfold f32ToF64 F32.toRat
  dsimp only
  rw [if_neg hexpo]
  split
  · next h =>
    obtain ⟨h1, h2, h3⟩ := toRat_round64 (m := (b.extractLsb' 0 23).toNat) (e := -149) b.msb (by omega)
      (by norm_num) (by norm_num)
    exact ⟨h1, by rw [h3, mul_assoc], h2⟩
  · next h =>
    obtain ⟨h1, h2, h3⟩ := toRat_round64 (m := (b.extractLsb' 0 23).toNat + 2 ^ 23)
      (e := (b.extractLsb' 23 8).toNat - 150) b.msb (by omega) (by omega) (by omega)
    exact ⟨h1, by rw [h3, mul_assoc]; push_cast; rfl, h2⟩

/-- Infinities and NaNs keep their sign and their fraction. -/
theorem f32ToF64_special {b : BitVec 32} (hb : b.extractLsb' 23 8 = 0xFF) :
    f32ToF64 b = BitVec.ofBool b.msb ++ 0x7FF#11 ++ b.extractLsb' 0 23 ++ 0#29 := by
  have hfrac : (b.extractLsb' 0 23).toNat < 2 ^ 23 := BitVec.isLt _
  unfold f32ToF64
  dsimp only
  rw [if_pos (by rw [hb]; rfl)]
  apply BitVec.eq_of_toNat_eq
  rw [signed64_toNat _ (by rw [FFormat.f64_infinity]; omega), toNat_append_eq, toNat_append_eq, toNat_append_eq,
    BitVec.toNat_ofBool, FFormat.f64_infinity]
  change _ = ((b.msb.toNat * 2 ^ 11 + 0x7FF) * 2 ^ 23 + (b.extractLsb' 0 23).toNat) * 2 ^ 29 + 0
  omega

end Sys2Proof.Machine
end

section
/-! The conversions to binary32, and from and to the extended format (R534 to R536, R553, R580). -/

namespace Sys2Proof.Machine

/-! ### binary64 to binary32 -/

theorem signed32_getLsbD_zero (neg : Bool) {k : ℕ} (hk : k < 2 ^ 31) :
    (signed32 neg k).getLsbD 0 = decide (k % 2 = 1) := by
  rw [BitVec.getLsbD, signed32_toNat neg hk, Nat.testBit_zero]
  congr 2
  omega

/-- The bits without the sign. -/
theorem signed32_magnitude (neg : Bool) {k : ℕ} (hk : k < 2 ^ 31) :
    ((signed32 neg k).extractLsb' 0 31).toNat = k := by
  rw [BitVec.extractLsb'_toNat, signed32_toNat neg hk, Nat.shiftRight_zero]
  omega

theorem f64ToF32_msb (x : F64) : (f64ToF32 x).msb = x.msb := signed32_msb (F64.sign x) _

theorem f64ToF32_fin {x : F64} {s : Bool} {m : ℕ} {e : ℤ} (h : F64.val x = .fin s m e) :
    f64ToF32 x = signed32 s (FFormat.f32.round m e) := by
  have hs : F64.sign x = s := msb_of_val_fin h
  unfold f64ToF32
  rw [h, hs]
  rfl

theorem abs_toRat_fin (s : Bool) (m : ℕ) (e : ℤ) : |(FVal.fin s m e).toRat| = m * 2 ^ e := by
  have h : (0 : ℚ) ≤ m * 2 ^ e := by positivity
  rw [FVal.toRat_fin, mul_assoc]
  cases s <;> simp [abs_of_nonneg h]

/-- A number below the overflow threshold goes to the nearest binary32 number, the even one at a tie. -/
theorem f64ToF32_nearest {x : F64} (hx : F64.finite x = true) (hlt : |F64.toRat x| < 2 ^ 128 - 2 ^ 103) :
    (f64ToF32 x).extractLsb' 23 8 ≠ 0xFF ∧
      ∀ b : BitVec 32, b.extractLsb' 23 8 ≠ 0xFF → F32.toRat b ≠ F32.toRat (f64ToF32 x) →
        |F64.toRat x - F32.toRat (f64ToF32 x)| < |F64.toRat x - F32.toRat b| ∨
          |F64.toRat x - F32.toRat (f64ToF32 x)| = |F64.toRat x - F32.toRat b| ∧
            (f64ToF32 x).getLsbD 0 = false := by
  obtain ⟨s, m, e, hv⟩ := finite_iff_val.1 hx
  obtain ⟨R, hR, h⟩ := FFormat.round_spec (f := FFormat.f32) (by decide) m e
  rw [F64.toRat, hv] at hlt ⊢
  rw [abs_toRat_fin] at hlt
  have hRlt : R < FFormat.f32.infinity := (nearestEven_lt_infinity32 h).2 (by rify at hlt; exact hlt)
  have hR31 : R < 2 ^ 31 := hRlt.trans (by decide)
  rw [f64ToF32_fin hv, hR, Nat.min_eq_left hRlt.le]
  refine ⟨(signed32_expo_ne_iff s hR31).2 hRlt, fun b hb hne => ?_⟩
  obtain ⟨k, hk, hbk⟩ := exists_signed32 b
  generalize b.msb = t at hbk
  subst hbk
  have hklt := (signed32_expo_ne_iff t hk).1 hb
  have hcast : ((FVal.fin s m e).toRat : ℝ) = (if s then -1 else 1) * (m * 2 ^ e) := by
    rw [FVal.toRat_fin]
    cases s <;> simp
  rw [← Rat.cast_injective (α := ℝ) |>.ne_iff, toRat_signed32 t hklt, toRat_signed32 s hRlt] at hne
  simp only [← Rat.cast_lt (K := ℝ), ← Rat.cast_inj (α := ℝ), Rat.cast_abs, Rat.cast_sub]
  rw [toRat_signed32 t hklt, toRat_signed32 s hRlt, hcast, signed32_getLsbD_zero s hR31]
  refine (h.abs_sub_signed (by positivity) hne).imp_right fun ⟨h1, h2⟩ => ⟨h1, ?_⟩
  simp [h2]

theorem f64ToF32_overflow {x : F64} (hx : F64.finite x = true) (hle : 2 ^ 128 - 2 ^ 103 ≤ |F64.toRat x|) :
    (f64ToF32 x).extractLsb' 0 31 = 0x7F800000 := by
  obtain ⟨s, m, e, hv⟩ := finite_iff_val.1 hx
  obtain ⟨R, hR, h⟩ := FFormat.round_spec (f := FFormat.f32) (by decide) m e
  rw [F64.toRat, hv, abs_toRat_fin] at hle
  have hinf : FFormat.f32.infinity ≤ R := Nat.le_of_not_lt fun hlt => by
    have := (nearestEven_lt_infinity32 h).1 hlt
    exact not_lt.2 hle (by rify; exact this)
  rw [f64ToF32_fin hv, hR, Nat.min_eq_right hinf]
  exact BitVec.eq_of_toNat_eq (signed32_magnitude s (by decide))

theorem f64ToF32_infinity {x : F64} (hx : F64.cls x = .infinity) : (f64ToF32 x).extractLsb' 0 31 = 0x7F800000 := by
  obtain ⟨n, hn⟩ := cls_eq_infinity_iff.1 hx
  unfold f64ToF32
  rw [hn]
  exact BitVec.eq_of_toNat_eq (signed32_magnitude (F64.sign x) (k := FFormat.f32.infinity) (by decide))

/-- A NaN keeps the top of its fraction, bit 22 set if that is 0. -/
theorem f64ToF32_nan {x : F64} (hx : F64.cls x = .nan) : (f64ToF32 x).extractLsb' 23 8 = 0xFF ∧
    (f64ToF32 x).extractLsb' 0 23 = if x.extractLsb' 29 23 = 0 then 0x400000 else x.extractLsb' 29 23 := by
  have hfrac : F64.fraction x / 2 ^ 29 = (x.extractLsb' 29 23).toNat := by
    unfold F64.fraction
    rw [BitVec.extractLsb'_toNat, BitVec.extractLsb'_toNat, Nat.shiftRight_zero, Nat.shiftRight_eq_div_pow]
    omega
  have hlt : (x.extractLsb' 29 23).toNat < 2 ^ 23 := BitVec.isLt _
  have hr : f64ToF32 x = signed32 (F64.sign x) (FFormat.f32.infinity +
      if (x.extractLsb' 29 23).toNat = 0 then 2 ^ 22 else (x.extractLsb' 29 23).toNat) := by
    rw [← hfrac]
    unfold f64ToF32
    rw [cls_eq_nan_iff.1 hx]
    rfl
  have hzero : x.extractLsb' 29 23 = 0 ↔ (x.extractLsb' 29 23).toNat = 0 := by
    rw [← BitVec.toNat_inj]
    rfl
  obtain ⟨h1, h2⟩ := signed32_fields (F64.sign x) (k := FFormat.f32.infinity +
    if (x.extractLsb' 29 23).toNat = 0 then 2 ^ 22 else (x.extractLsb' 29 23).toNat)
    (by rw [FFormat.f32_infinity]; split <;> omega)
  rw [← hr] at h1 h2
  constructor <;> apply BitVec.eq_of_toNat_eq
  · rw [h1, FFormat.f32_infinity]
    change _ = 255
    split <;> omega
  · rw [h2, FFormat.f32_infinity, apply_ite BitVec.toNat]
    simp only [hzero]
    change _ = if (x.extractLsb' 29 23).toNat = 0 then 0x400000 else _
    split <;> omega

/-! ### The extended format -/

/-- An extended pattern from its sign, exponent and significand. -/
def pack80 (neg : Bool) (expo m : ℕ) : BitVec 80 := BitVec.ofBool neg ++ BitVec.ofNat 15 expo ++ BitVec.ofNat 64 m

section
variable (neg : Bool) {expo m : ℕ}

theorem pack80_toNat (he : expo < 2 ^ 15) (hm : m < 2 ^ 64) :
    (pack80 neg expo m).toNat = (neg.toNat * 2 ^ 15 + expo) * 2 ^ 64 + m := by
  unfold pack80
  rw [toNat_append_eq, toNat_append_eq, BitVec.toNat_ofBool, BitVec.toNat_ofNat, BitVec.toNat_ofNat,
    Nat.mod_eq_of_lt he, Nat.mod_eq_of_lt hm]

@[simp] theorem pack80_msb (expo m : ℕ) : (pack80 neg expo m).msb = neg := by
  have h : (pack80 neg expo m).msb =
      if 1 + 15 = 0 then (BitVec.ofNat 64 m).msb else (BitVec.ofBool neg ++ BitVec.ofNat 15 expo).msb :=
    BitVec.msb_append
  have h' : (BitVec.ofBool neg ++ BitVec.ofNat 15 expo).msb =
      if 1 = 0 then (BitVec.ofNat 15 expo).msb else (BitVec.ofBool neg).msb := BitVec.msb_append
  rw [h, if_neg (by decide), h', if_neg one_ne_zero, BitVec.msb_ofBool]

/-- The fields of an extended pattern. -/
theorem pack80_fields (he : expo < 2 ^ 15) (hm : m < 2 ^ 64) :
    ((pack80 neg expo m).extractLsb' 64 15).toNat = expo ∧ ((pack80 neg expo m).extractLsb' 0 64).toNat = m ∧
      ((pack80 neg expo m).extractLsb' 0 79).toNat = expo * 2 ^ 64 + m ∧
      (pack80 neg expo m).getLsbD 63 = decide (2 ^ 63 ≤ m) := by
  rw [BitVec.extractLsb'_toNat, BitVec.extractLsb'_toNat, BitVec.extractLsb'_toNat, pack80_toNat neg he hm,
    Nat.shiftRight_eq_div_pow, Nat.shiftRight_zero, BitVec.getLsbD, pack80_toNat neg he hm,
    Nat.testBit_eq_decide_div_mod_eq]
  refine ⟨by omega, by omega, by omega, ?_⟩
  congr 1
  apply propext
  omega

end

/-- The number an extended pattern denotes, from its fields. -/
theorem F80.toRat_eq {v : BitVec 80} {expo m : ℕ} (he : (v.extractLsb' 64 15).toNat = expo)
    (hm : (v.extractLsb' 0 64).toNat = m) :
    F80.toRat v = (if v.msb then -1 else 1) * m * 2 ^ (((max expo 1 : ℕ) : ℤ) - 16383 - 63) := by
  subst he hm
  rfl

/-- Extended numbers round to binary64. -/
theorem f80ToF64_finite {v : BitVec 80} {expo m : ℕ} (he : (v.extractLsb' 64 15).toNat = expo)
    (hm : (v.extractLsb' 0 64).toNat = m) (h : expo ≠ 0x7FFF) :
    f80ToF64 v = round64 v.msb m (((max expo 1 : ℕ) : ℤ) - 16383 - 63) := by
  subst he hm
  exact if_neg h

theorem roundsTo_f80ToF64 {v : BitVec 80} (hv : v.extractLsb' 64 15 ≠ 0x7FFF) :
    RoundsTo (F80.toRat v) v.msb (f80ToF64 v) := by
  have h : (v.extractLsb' 64 15).toNat ≠ 0x7FFF := fun h => hv (BitVec.eq_of_toNat_eq h)
  rw [f80ToF64_finite rfl rfl h, F80.toRat_eq rfl rfl]
  have hr := roundsTo_round64 v.msb (v.extractLsb' 0 64).toNat
    (((max (v.extractLsb' 64 15).toNat 1 : ℕ) : ℤ) - 16383 - 63)
  rw [Rat.cast_mul, Rat.cast_mul, Rat.cast_zpow, Rat.cast_natCast, Rat.cast_ofNat, apply_ite Rat.cast,
    Rat.cast_neg, Rat.cast_one]
  exact hr

/-- The infinities and the NaNs keep what fits of their fraction. -/
theorem f80ToF64_special {v : BitVec 80} (hv : v.extractLsb' 64 15 = 0x7FFF) :
    f80ToF64 v = BitVec.ofBool v.msb ++ 0x7FF#11 ++
      (if v.extractLsb' 0 63 = 0 then 0#52
       else if v.extractLsb' 11 52 = 0 then 0x8000000000000#52 else v.extractLsb' 11 52) := by
  have hm : (v.extractLsb' 0 64).toNat % 2 ^ 63 = (v.extractLsb' 0 63).toNat := by
    rw [BitVec.extractLsb'_toNat, BitVec.extractLsb'_toNat, Nat.shiftRight_zero]
    omega
  have hfrac : (v.extractLsb' 0 63).toNat / 2 ^ 11 = (v.extractLsb' 11 52).toNat := by
    rw [BitVec.extractLsb'_toNat, BitVec.extractLsb'_toNat, Nat.shiftRight_zero, Nat.shiftRight_eq_div_pow]
    omega
  have hlt : (v.extractLsb' 11 52).toNat < 2 ^ 52 := BitVec.isLt _
  have hzero {n : ℕ} (b : BitVec n) : b = 0 ↔ b.toNat = 0 := by
    rw [← BitVec.toNat_inj]
    simp
  have hinf : FFormat.f64.infinity = 0x7FF * 2 ^ 52 := rfl
  unfold f80ToF64
  dsimp only
  rw [if_pos (by rw [hv]; rfl), hm, hfrac]
  apply BitVec.eq_of_toNat_eq
  rw [toNat_append_eq, toNat_append_eq, BitVec.toNat_ofBool, BitVec.toNat_ofNat]
  simp only [hzero]
  split
  · unfold f64Inf
    rw [signed64_toNat _ infinity_lt, hinf]
    change _ = _ + 0
    omega
  · split
    · rw [signed64_toNat _ (by omega), hinf]
      change _ = _ + 2 ^ 51
      omega
    · rw [signed64_toNat _ (by omega), hinf]
      omega

/-! ### binary64 to the extended format -/

/-- The extended pattern of a number: its significand moved up until bit 63 is set. -/
theorem f64ToF80_fin {x : F64} {s : Bool} {m : ℕ} {e : ℤ} (h : F64.val x = .fin s m e) :
    f64ToF80 x = if m = 0 then pack80 s 0 0
      else pack80 s (e + Nat.log2 m + 16383).toNat (m * 2 ^ (63 - Nat.log2 m)) := by
  have hfrac : F64.fraction x < 2 ^ 52 := BitVec.isLt _
  unfold F64.val at h
  unfold f64ToF80 F64.cls
  split at h
  · split at h <;> exact absurd h (by simp)
  · next hinf =>
    split at h
    · next h0 =>
      -- a zero or a subnormal number
      cases h
      rw [if_pos h0]
      by_cases hz : F64.fraction x = 0
      · rw [if_pos hz, if_pos hz]
        rfl
      · rw [if_neg hz, if_neg hz, show (-1074 + (Nat.log2 (F64.fraction x) : ℤ) + 16383).toNat =
          16383 - 1074 + Nat.log2 (F64.fraction x) by omega, ← Nat.shiftLeft_eq]
        rfl
    · next h0 =>
      -- a normal number: bit 52 is its leading one
      cases h
      have hlog : Nat.log2 (F64.fraction x + 2 ^ 52) = 52 :=
        (Nat.log2_eq_iff (by omega)).2 ⟨by omega, by omega⟩
      rw [if_neg h0, if_neg hinf, if_neg (by omega), hlog,
        show ((F64.expo x : ℤ) - 1075 + (52 : ℕ) + 16383).toNat = F64.expo x + 16383 - 1023 by omega,
        show (F64.fraction x + 2 ^ 52) * 2 ^ (63 - 52) = 2 ^ 63 + F64.fraction x * 2 ^ 11 by omega]
      rfl

/-- The extended pattern of an infinity or a NaN. -/
theorem f64ToF80_special {x : F64} (hx : F64.finite x = false) :
    f64ToF80 x = pack80 (F64.sign x) 0x7FFF (2 ^ 63 + F64.fraction x * 2 ^ 11) := by
  have hexpo : F64.expo x = 0x7FF := by
    by_contra h
    rw [F64.finite, F64.val, if_neg h] at hx
    split at hx <;> exact absurd hx (by simp [FVal.isFinite])
  unfold f64ToF80 F64.cls
  rw [if_neg (by omega), if_pos hexpo]
  by_cases h0 : F64.fraction x = 0
  · rw [if_pos h0, h0]
    rfl
  · rw [if_neg h0]
    rfl

/-- An infinity or a NaN is a sign and a fraction. -/
theorem exists_of_not_finite {x : F64} (hx : F64.finite x = false) :
    x = signed64 (F64.sign x) (FFormat.f64.infinity + F64.fraction x) := by
  cases x using F64.rec_pattern with
  | number neg k hk => exact absurd hx (by simp [finite_signed64 neg hk])
  | inf neg =>
    unfold f64Inf
    rw [sign_signed64, fraction_signed64 neg infinity_lt]
    rfl
  | nan neg k hk hlt =>
    rw [sign_signed64, fraction_signed64 neg hlt]
    congr 1
    rw [FFormat.f64_infinity] at *
    omega

/-- The normalised significand and its exponent. -/
theorem normalize_spec {m : ℕ} (h0 : m ≠ 0) (hm : m < 2 ^ 53) : Nat.log2 m ≤ 52 ∧
    2 ^ 63 ≤ m * 2 ^ (63 - Nat.log2 m) ∧ m * 2 ^ (63 - Nat.log2 m) < 2 ^ 64 := by
  have hlo : 2 ^ Nat.log2 m ≤ m := Nat.log2_self_le h0
  have hhi : m < 2 ^ (Nat.log2 m + 1) := Nat.lt_log2_self
  have hl : Nat.log2 m ≤ 52 := Nat.lt_succ_iff.1 ((Nat.log2_lt h0).2 hm)
  refine ⟨hl, ?_, ?_⟩
  · calc 2 ^ 63 = 2 ^ Nat.log2 m * 2 ^ (63 - Nat.log2 m) := by rw [← pow_add]; congr 1; omega
      _ ≤ _ := by gcongr
  · calc m * 2 ^ (63 - Nat.log2 m) < 2 ^ (Nat.log2 m + 1) * 2 ^ (63 - Nat.log2 m) := by gcongr
      _ = 2 ^ 64 := by rw [← pow_add]; congr 1; omega

/-- The extended pattern of a number other than zero: its fields, and its value. -/
theorem f64ToF80_ne_zero {x : F64} {s : Bool} {m : ℕ} {e : ℤ} (h : F64.val x = .fin s m e) (h0 : m ≠ 0) :
    ∃ expo M : ℕ, f64ToF80 x = pack80 s expo M ∧ 0 < expo ∧ expo < 0x7FFF ∧ 2 ^ 63 ≤ M ∧ M < 2 ^ 64 ∧
      (M : ℚ) * 2 ^ (((max expo 1 : ℕ) : ℤ) - 16383 - 63) = m * 2 ^ e := by
  obtain ⟨hm, he, -, he'⟩ := val_fin_bounds h
  obtain ⟨hl, hM, hM'⟩ := normalize_spec h0 hm
  have hf := f64ToF80_fin h
  rw [if_neg h0] at hf
  refine ⟨_, _, hf, by omega, by omega, hM, hM', ?_⟩
  rw [show (((max (e + Nat.log2 m + 16383).toNat 1 : ℕ) : ℤ) - 16383 - 63) = e - (63 - Nat.log2 m : ℕ) by omega,
    zpow_sub₀ (by norm_num), zpow_natCast]
  push_cast
  field_simp

/-- Every binary64 pattern survives the way to the extended format and back. -/
theorem f80ToF64_f64ToF80 (x : F64) : f80ToF64 (f64ToF80 x) = x := by
  by_cases hx : F64.finite x = true
  · obtain ⟨s, m, e, hv⟩ := finite_iff_val.1 hx
    rcases eq_or_ne m 0 with rfl | h0
    · obtain ⟨h1, h2, -⟩ := pack80_fields s (expo := 0) (m := 0) (by norm_num) (by norm_num)
      rw [f64ToF80_fin hv, if_pos rfl, f80ToF64_finite h1 h2 (by norm_num), pack80_msb]
      exact round64_eq_of_val hv (by simp)
    · obtain ⟨expo, M, hf, hpos, hexpo, -, hM, hval⟩ := f64ToF80_ne_zero hv h0
      obtain ⟨h1, h2, -⟩ := pack80_fields s (expo := expo) (by omega) hM
      rw [hf, f80ToF64_finite h1 h2 hexpo.ne, pack80_msb]
      refine round64_eq_of_val hv ?_
      simpa only [Rat.cast_mul, Rat.cast_natCast, Rat.cast_zpow, Rat.cast_ofNat] using congrArg (Rat.cast (K := ℝ)) hval
  · rw [Bool.not_eq_true] at hx
    have hfrac : F64.fraction x < 2 ^ 52 := BitVec.isLt _
    obtain ⟨h1, h2, -⟩ := pack80_fields (F64.sign x) (expo := 0x7FFF) (m := 2 ^ 63 + F64.fraction x * 2 ^ 11)
      (by norm_num) (by omega)
    unfold f80ToF64
    rw [f64ToF80_special hx, h1, h2, pack80_msb]
    dsimp only
    rw [if_pos rfl, show (2 ^ 63 + F64.fraction x * 2 ^ 11) % 2 ^ 63 = F64.fraction x * 2 ^ 11 by omega,
      Nat.mul_div_cancel _ (by norm_num)]
    conv_rhs => rw [exists_of_not_finite hx]
    split
    · next h =>
      rw [show F64.fraction x = 0 by omega]
      rfl
    · next h => rw [if_neg (by omega)]

theorem f64ToF80_msb (x : F64) : (f64ToF80 x).msb = x.msb := by
  have h (v : BitVec 80) (neg : Bool) (he : ∃ expo m, v = pack80 neg expo m) : v.msb = neg := by
    obtain ⟨expo, m, rfl⟩ := he
    exact pack80_msb neg expo m
  exact h _ (F64.sign x) ⟨_, _, rfl⟩

/-- The extended pattern of a number denotes it, and has bit 63 set unless it is zero. -/
theorem f64ToF80_finite {x : F64} (hx : F64.finite x = true) :
    (f64ToF80 x).extractLsb' 64 15 ≠ 0x7FFF ∧ F80.toRat (f64ToF80 x) = F64.toRat x ∧
      (F64.toRat x = 0 → (f64ToF80 x).extractLsb' 0 79 = 0) ∧
      (F64.toRat x ≠ 0 → (f64ToF80 x).getLsbD 63 = true) := by
  obtain ⟨s, m, e, hv⟩ := finite_iff_val.1 hx
  have hne {v : BitVec 15} {expo : ℕ} (h : v.toNat = expo) (he : expo ≠ 0x7FFF) : v ≠ 0x7FFF := fun h0 =>
    he (h.symm.trans (congrArg _ h0))
  rw [F64.toRat, hv]
  simp only [ne_eq, FVal.toRat_fin_eq_zero]
  rcases eq_or_ne m 0 with rfl | h0
  · obtain ⟨h1, h2, h3, -⟩ := pack80_fields s (expo := 0) (m := 0) (by norm_num) (by norm_num)
    rw [f64ToF80_fin hv, if_pos rfl]
    refine ⟨hne h1 (by norm_num), ?_, fun _ => BitVec.eq_of_toNat_eq h3, fun h => absurd rfl h⟩
    rw [F80.toRat_eq h1 h2, FVal.toRat_fin]
    simp
  · obtain ⟨expo, M, hf, hpos, hexpo, hM, hM', hval⟩ := f64ToF80_ne_zero hv h0
    obtain ⟨h1, h2, -, h4⟩ := pack80_fields s (expo := expo) (by omega) hM'
    rw [hf]
    refine ⟨hne h1 hexpo.ne, ?_, fun h => absurd h h0, fun _ => h4.trans (decide_eq_true hM)⟩
    rw [F80.toRat_eq h1 h2, pack80_msb, mul_assoc, hval, ← mul_assoc, FVal.toRat_fin]

theorem f64ToF80_not_finite {x : F64} (hx : F64.finite x = false) :
    (f64ToF80 x).extractLsb' 0 79 = 0x7FFF#15 ++ 1#1 ++ x.extractLsb' 0 52 ++ 0#11 := by
  have hfrac : F64.fraction x < 2 ^ 52 := BitVec.isLt _
  obtain ⟨-, -, h3, -⟩ := pack80_fields (F64.sign x) (expo := 0x7FFF) (m := 2 ^ 63 + F64.fraction x * 2 ^ 11)
    (by norm_num) (by omega)
  rw [f64ToF80_special hx]
  apply BitVec.eq_of_toNat_eq
  rw [h3, toNat_append_eq, toNat_append_eq, toNat_append_eq]
  change _ = ((0x7FFF * 2 ^ 1 + 1) * 2 ^ 52 + F64.fraction x) * 2 ^ 11 + 0
  omega

/-! ### Integer and packed BCD stores -/

theorem storeInt_eq {rc : BitVec 2} {x : F64} {i : ℤ} (h : roundToInt rc x = some i) (n : ℕ) :
    storeInt rc x n = if -(2 ^ (n - 1)) ≤ i ∧ i < 2 ^ (n - 1) then BitVec.ofInt n i
      else BitVec.ofNat n (2 ^ (n - 1)) := by
  rw [storeInt, h]

theorem f64ToBcd_eq {rc : BitVec 2} {x : F64} {i : ℤ} (h : roundToInt rc x = some i) :
    f64ToBcd rc x = if i.natAbs ≤ 10 ^ 18 - 1 then bcdBytes 9 i.natAbs ++ [if F64.sign x then 0x80 else 0x00]
      else bcdIndefinite := by
  rw [f64ToBcd, h]

/-- Settles O55: the pattern nearest to a value is unique, so a value goes back to its own pattern; the
rounded integer is unique, so a store is the one its rounding names. -/
theorem conversions : Obligations.Conversions := by
  refine ⟨packResult_val, f80ToF64_f64ToF80, fun i => toRat_intToF64, roundsTo_intToF64,
    fun b => ⟨f32ToF64_finite, f32ToF64_special⟩,
    fun x => ⟨f64ToF32_msb x, f64ToF32_nearest, f64ToF32_overflow, f64ToF32_infinity, f64ToF32_nan⟩,
    fun v => ⟨roundsTo_f80ToF64, f80ToF64_special⟩,
    fun x => ⟨f64ToF80_msb x, f64ToF80_finite, f64ToF80_not_finite⟩,
    fun rc x i hx hi => ?_, fun rc x hx => ?_⟩
  · have h := roundToInt_eq hx hi
    rw [f64ToBcd_eq h]
    refine ⟨fun n _ => storeInt_eq h n, fun hlt => ?_, fun hle => if_neg (by omega)⟩
    rw [if_pos (by omega)]
    refine ⟨by rw [List.length_append, bcdBytes_length]; rfl, fun k hk => bcdBytes_digit (by omega) _ _, ?_⟩
    rw [List.getD_append_right _ _ _ _ (bcdBytes_length ..).le, bcdBytes_length]
    rfl
  · have h := roundToInt_eq_none (rc := rc) hx
    refine ⟨fun n _ => ?_, ?_⟩
    · rw [storeInt, h]
    · rw [f64ToBcd, h]
      rfl

end Sys2Proof.Machine
end

section
/-! FNSAVE and FRSTOR (R578 to R580). -/

namespace Sys2Proof.Machine

/-! ### The values of a save image -/

/-- A sequence of writes to stack places: the other fields stay, and each place gets its value. -/
theorem foldl_setSt (v : StIndex → F64) (l : List StIndex) (f : Fpu) :
    (∃ r, l.foldl (fun g i => g.setSt i (v i)) f = { f with FPR := r }) ∧
      ∀ i, (l.foldl (fun g i => g.setSt i (v i)) f).st i = if i ∈ l then v i else f.st i := by
  induction l generalizing f with
  | nil => exact ⟨⟨f.FPR, rfl⟩, fun i => rfl⟩
  | cons a l ih =>
    obtain ⟨⟨r, hr⟩, hst⟩ := ih (f.setSt a (v a))
    refine ⟨⟨r, hr⟩, fun i => (hst i).trans ?_⟩
    have one : (f.setSt a (v a)).st i = if i = a then v a else f.st i := by
      by_cases h : i = a
      · subst h
        rw [if_pos rfl]
        exact f.reg_setReg_self _ _
      · rw [if_neg h]
        exact f.reg_setReg_of_ne _ fun e => h ((BitVec.add_right_inj _).1 e)
    rw [one]
    by_cases hl : i ∈ l
    · rw [if_pos hl, if_pos (List.mem_cons_of_mem a hl)]
    · rw [if_neg hl]
      by_cases ha : i = a
      · rw [if_pos ha, if_pos (List.mem_cons.2 (.inl ha)), ha]
      · rw [if_neg ha, if_neg fun h => (List.mem_cons.1 h).elim ha hl]

theorem stIndexes_getElem? (i : StIndex) : stIndexes[i.toNat]? = some i := by
  revert i
  decide

theorem mem_stIndexes (i : StIndex) : i ∈ stIndexes := List.mem_of_getElem? (stIndexes_getElem? i)

/-- FRSTOR writes the values only, each to the place its part of the image stands for. -/
theorem Fpu.loadRegs_spec (f : Fpu) (z : Size) (m : Memory) (a : BitVec 32) :
    (∃ r, f.loadRegs z m a = { f with FPR := r }) ∧ ∀ i, (f.loadRegs z m a).st i =
      f80ToF64 (BitVec.ofNat 80 (leNat (m.readBytes (a + BitVec.ofNat 32 (envSize z + 10 * i.toNat)) 10))) := by
  obtain ⟨hr, hst⟩ := foldl_setSt
    (fun i => f80ToF64 (BitVec.ofNat 80 (leNat (m.readBytes (a + BitVec.ofNat 32 (envSize z + 10 * i.toNat)) 10))))
    stIndexes f
  exact ⟨hr, fun i => (hst i).trans (if_pos (mem_stIndexes i))⟩

/-- Where the value of each place stands in the image. -/
theorem Fpu.standsAt_saveBytes (f : Fpu) (z : Size) (i : StIndex) :
    StandsAt (f.saveBytes z) (leBytes 10 (f64ToF80 (f.st i)).toNat) (envSize z + 10 * i.toNat) := by
  obtain ⟨hlt, hi⟩ := List.getElem?_eq_some_iff.1 (stIndexes_getElem? i)
  have h := (standsAt_flatMap (g := fun i => leBytes 10 (f64ToF80 (f.st i)).toNat) (fun _ => leBytes_length _ _)
    stIndexes i.toNat hlt).append_left (f.envBytes z)
  rwa [hi, f.envBytes_length, Nat.mul_comm] at h

/-- The values of a saved image read back. -/
theorem memReadSpan_saveBytes (f : Fpu) (z : Size) (s : State) (a : BitVec 32) (i : StIndex) :
    (s.memWriteSpan a (f.saveBytes z)).memReadSpan 10 (a + BitVec.ofNat 32 (envSize z + 10 * i.toNat)) =
      (f64ToF80 (f.st i)).toNat := by
  have hle : (f.saveBytes z).length ≤ 2 ^ 32 := by
    have := envSize_le z
    rw [f.saveBytes_length]
    omega
  have h := (f.standsAt_saveBytes z i).readBytes hle s.mem a
  rw [leBytes_length] at h
  change leNat _ = _
  rw [State.memWriteSpan, h, leNat_leBytes]
  exact Nat.mod_eq_of_lt (BitVec.isLt _)

/-! ### The whole state of the FPU -/

theorem Fpu.eq_of_parts {f g : Fpu} (hst : ∀ i, f.st i = g.st i) (hused : ∀ k, f.used k = g.used k)
    (htop : f.FTOP = g.FTOP) (hfcw : f.FCW = g.FCW) (h0 : f.C0 = g.C0) (h1 : f.C1 = g.C1) (h2 : f.C2 = g.C2)
    (h3 : f.C3 = g.C3) : f = g := by
  have hreg (k : BitVec 3) : f.reg k = g.reg k := by
    have h := hst (k - f.FTOP)
    unfold Fpu.st Fpu.slot at h
    rwa [← htop, BitVec.add_comm, BitVec.sub_add_cancel] at h
  have hfpr : f.FPR = g.FPR := Vector.ext fun k hk => hreg (BitVec.ofNatLT k hk)
  have hfused : f.FUSED = g.FUSED := Vector.ext fun k hk => hused (BitVec.ofNatLT k hk)
  cases f
  cases g
  simp_all

theorem Fpu.tag_bne_three (f : Fpu) (k : BitVec 3) : (f.tag k != 3) = f.used k := by
  rw [f.tag_eq]
  cases f.used k
  · rfl
  · cases F64.cls (f.reg k) <;> rfl

/-- Loading an image that holds the words and the values of `f` gives `f`, whatever was there before. -/
theorem Fpu.restore_eq (f g : Fpu) (t : State) (a : BitVec 32)
    (hword : ∀ k, k < 3 → t.memRead .w16 (a + BitVec.ofNat 32 (k * envStride t.opsz)) = f.envWord k)
    (hval : ∀ i, t.memReadSpan 10 (a + BitVec.ofNat 32 (envSize t.opsz + 10 * i.toNat)) =
      (f64ToF80 (f.st i)).toNat) :
    (g.loadEnv t.opsz t.mem a).loadRegs t.opsz t.mem a = f := by
  obtain ⟨⟨r, hr⟩, hst⟩ := Fpu.loadRegs_spec (g.loadEnv t.opsz t.mem a) t.opsz t.mem a
  obtain ⟨c0, c1, c2, c3, top, -, -⟩ := f.statusWord_fields
  have w1 : t.memRead .w16 (a + BitVec.ofNat 32 (1 * envStride t.opsz)) = f.statusWord := hword 1 (by decide)
  have w2 : t.memRead .w16 (a + BitVec.ofNat 32 (2 * envStride t.opsz)) = f.tagWord := hword 2 (by decide)
  have used (k : BitVec 3) : (g.loadEnv t.opsz t.mem a).used k = f.used k := by
    refine (Fpu.used_writeTags _ _ k).trans ?_
    change (t.memRead .w16 (a + BitVec.ofNat 32 (2 * envStride t.opsz)) >>> _ &&& 3 != 3) = _
    rw [w2, ← extractLsb'_two_bne, f.extractLsb'_tagWord, f.tag_bne_three]
  refine Fpu.eq_of_parts (fun i => (hst i).trans ?_) ?_ ?_ ?_ ?_ ?_ ?_ ?_
  · change f80ToF64 (BitVec.ofNat 80 (t.memReadSpan 10 _)) = _
    rw [hval, BitVec.ofNat_toNat, BitVec.setWidth_eq, f80ToF64_f64ToF80]
  all_goals rw [hr]
  · exact used
  · exact (congrArg (BitVec.extractLsb' 11 3) w1).trans top
  · exact hword 0 (by decide)
  · exact (congrArg (·.getLsbD 8) w1).trans c0
  · exact (congrArg (·.getLsbD 9) w1).trans c1
  · exact (congrArg (·.getLsbD 10) w1).trans c2
  · exact (congrArg (·.getLsbD 14) w1).trans c3

/-- The state after FNSAVE. -/
def State.fnsaved (s : State) (a : BitVec 32) : State :=
  { s.memWriteSpan a (s.fpu.saveBytes s.opsz) with eip := s.nextEip, fpu := s.fpu.init }

theorem exec_fnsave (m : MemOp) (s : State) : exec (.fnsave m) s = .next (s.fnsaved (s.memAddr m)) := rfl

theorem exec_frstor (m : MemOp) (s : State) : exec (.frstor m) s = .next { s with
    eip := s.nextEip
    fpu := (s.fpu.loadEnv s.opsz s.mem (s.memAddr m)).loadRegs s.opsz s.mem (s.memAddr m) } := rfl

theorem memAddr_fnsaved (m : MemOp) (s : State) (a : BitVec 32) : (s.fnsaved a).memAddr m = s.memAddr m := rfl

/-- FNSAVE leaves the words and the values of the FPU at their places, and 0 between the words. -/
theorem fnsaved_image (s : State) (a : BitVec 32) :
    let word (k : Nat) : BitVec 32 := a + BitVec.ofNat 32 (if s.opsz = .s16 then 2 * k else 4 * k)
    (∀ k, k < 3 → (s.fnsaved a).memRead .w16 (word k) = s.fpu.envWord k) ∧
    (∀ p, InSpan a (envSize s.opsz) p → ¬ InSpan (word 0) 2 p → ¬ InSpan (word 1) 2 p →
      ¬ InSpan (word 2) 2 p → (s.fnsaved a).mem.get p = 0) ∧
    (∀ i : StIndex, (s.fnsaved a).memReadSpan 10 (a + BitVec.ofNat 32 (envSize s.opsz + 10 * i.toNat)) =
      (f64ToF80 (s.fpu.st i)).toNat) ∧
    SameMemExcept a (envSize s.opsz + 80) s (s.fnsaved a) := by
  have hlen := s.fpu.saveBytes_length s.opsz
  have hle := envSize_le s.opsz
  obtain ⟨hword, hzero⟩ := memWriteSpan_env s.fpu s.opsz s a
    (stIndexes.flatMap fun i => leBytes 10 (f64ToF80 (s.fpu.st i)).toNat)
    (by change (s.fpu.saveBytes s.opsz).length ≤ _; omega)
  exact ⟨hword, hzero, memReadSpan_saveBytes s.fpu s.opsz s a, sameMemExcept_memWriteSpan s a hlen (by omega)⟩

/-- Settles O60: the words and the values of the image read back, and they are all of the FPU's state. -/
theorem saveRestore : Obligations.SaveRestore := by
  intro m s a size word slot
  have hsize : size = envSize s.opsz := by
    simp only [size]
    cases s.opsz <;> rfl
  have hslot (i : StIndex) : slot i = a + BitVec.ofNat 32 (envSize s.opsz + 10 * i.toNat) := by
    simp only [slot, hsize]
  obtain ⟨hword, hzero, hval, hmem⟩ := fnsaved_image s a
  refine ⟨⟨_, _, exec_fnsave m s, rfl, exec_frstor m _, ?_, rfl⟩, ⟨_, exec_fnsave m s, hword 0 (by decide),
    hword 1 (by decide), hword 2 (by decide), fun p hp => hzero p (hsize ▸ hp), fun i => ?_, hsize ▸ hmem⟩,
    ⟨_, exec_frstor m s, ?_⟩⟩
  · rw [memAddr_fnsaved]
    refine Fpu.restore_eq s.fpu _ (s.fnsaved a) a (fun k hk => ?_) hval
    rw [← envOffset_eq]
    exact hword k hk
  · rw [hslot]
    exact hval i
  · obtain ⟨-, hfcw, hstatus, hused⟩ := s.fpu.loadEnv_spec s a
    obtain ⟨⟨r, hr⟩, hst⟩ := Fpu.loadRegs_spec (s.fpu.loadEnv s.opsz s.mem a) s.opsz s.mem a
    refine ⟨(congrArg Fpu.FCW hr).trans hfcw, (congrArg Fpu.statusWord hr).trans hstatus,
      fun k => (congrArg (Fpu.used · k) hr).trans (hused k), fun i => ?_⟩
    rw [hslot]
    exact hst i

end Sys2Proof.Machine
end

section
/-! FSQRT, FRNDINT, FSCALE, FXTRACT, FPREM and FPREM1 as functions of the values (R600, R643 to R648). -/

namespace Sys2Proof.Machine

theorem toRat_eq_zero_iff {x : F64} {s : Bool} {m : ℕ} {e : ℤ} (h : F64.val x = .fin s m e) :
    F64.toRat x = 0 ↔ m = 0 := by
  rw [F64.toRat, h, FVal.toRat_fin_eq_zero]

/-! ### The square root -/

theorem isqrtLoop_spec {n : ℕ} (k r : ℕ) (hlo : r * r ≤ n) (hhi : n < (r + 2 ^ k) * (r + 2 ^ k)) :
    isqrtLoop n k r * isqrtLoop n k r ≤ n ∧ n < (isqrtLoop n k r + 1) * (isqrtLoop n k r + 1) := by
  induction k generalizing r with
  | zero => exact ⟨hlo, hhi⟩
  | succ k ih =>
    rw [isqrtLoop]
    split
    · next h => exact ih _ h (by rwa [pow_succ, Nat.mul_two, ← Nat.add_assoc] at hhi)
    · next h => exact ih _ hlo (Nat.lt_of_not_le h)

theorem isqrt_spec {n : ℕ} (hn : n < 2 ^ 166) : isqrt n * isqrt n ≤ n ∧ n < (isqrt n + 1) * (isqrt n + 1) :=
  isqrtLoop_spec 83 0 (Nat.zero_le n) (by norm_num at hn ⊢; exact hn)

/-- The square root of a number other than zero rounds: the root of the integer has more bits than the
format, and the sticky bit stands for the rest. -/
theorem roundsTo_packResult_sqrt (op : FpOp) (a b : F64) {m : ℕ} (e : ℤ) (h0 : m ≠ 0) (hm : m < 2 ^ 53) :
    RoundsTo (Real.sqrt (FVal.fin false m e).toRat) false (packResult op a b (FVal.fin false m e).sqrt) := by
  obtain ⟨k, hk, hk110, hk111⟩ : ∃ k : ℕ, k = (if e % 2 = 0 then 110 else 111) ∧ 110 ≤ k ∧ k ≤ 111 :=
    ⟨_, rfl, by split <;> norm_num, by split <;> norm_num⟩
  obtain ⟨c, hc⟩ : ∃ c : ℤ, e - k = 2 * c := ⟨(e - k) / 2, by split at hk <;> omega⟩
  have hsqrt : (FVal.fin false m e).sqrt =
      .fin false (withSticky (isqrt (m <<< k)) (isqrt (m <<< k) * isqrt (m <<< k) != m <<< k))
        ((e - k) / 2 - 1) := by
    rw [hk]
    exact (if_neg h0).trans (if_neg Bool.false_ne_true)
  have hpos : 0 < m := Nat.pos_of_ne_zero h0
  have hnlt : m * 2 ^ k < 2 ^ 166 :=
    calc m * 2 ^ k < 2 ^ 53 * 2 ^ 111 := Nat.mul_lt_mul_of_lt_of_le hm
            (Nat.pow_le_pow_right (by norm_num) hk111) (by positivity)
      _ ≤ 2 ^ 166 := by norm_num
  have hnge : 2 ^ 110 ≤ m * 2 ^ k :=
    calc 2 ^ 110 ≤ 1 * 2 ^ k := by rw [one_mul]; exact Nat.pow_le_pow_right (by norm_num) hk110
      _ ≤ m * 2 ^ k := Nat.mul_le_mul_right _ hpos
  obtain ⟨hlo, hhi⟩ := isqrt_spec hnlt
  rw [hsqrt, Nat.shiftLeft_eq, hc, Int.mul_ediv_cancel_left _ (by norm_num)]
  change RoundsTo _ _ (round64 _ _ _)
  have hval : Real.sqrt (FVal.fin false m e).toRat =
      Real.sqrt ((4 * (m * 2 ^ k) : ℕ) : ℝ) * 2 ^ (c - 1) := by
    have h2 : ((FVal.fin false m e).toRat : ℝ) = ((4 * (m * 2 ^ k) : ℕ) : ℝ) * (2 ^ (c - 1)) ^ 2 := by
      rw [FVal.toRat_fin, show e = (k : ℤ) + 2 * c by omega, zpow_add₀ (by norm_num), zpow_natCast,
        ← zpow_natCast ((2 : ℝ) ^ (c - 1)), ← zpow_mul, show (c - 1) * ((2 : ℕ) : ℤ) = 2 * c - 2 by push_cast; ring,
        zpow_sub₀ (by norm_num)]
      push_cast
      norm_num
      ring
    rw [h2, Real.sqrt_mul (Nat.cast_nonneg _), Real.sqrt_sq (by positivity)]
  rw [hval]
  set n := m * 2 ^ k with hn
  set r := isqrt n with hr
  have hr55 : 2 ^ 55 ≤ r := by
    by_contra h
    have : (r + 1) * (r + 1) ≤ 2 ^ 55 * 2 ^ 55 := Nat.mul_le_mul (by omega) (by omega)
    omega
  have hu : (0 : ℝ) < 2 ^ (c - 1) := by positivity
  have hround := roundsTo_round64_sticky false (Q := r) (e := c - 1) (inexact := r * r != n)
    (x := Real.sqrt ((4 * n : ℕ) : ℝ) * 2 ^ (c - 1)) (by positivity) (by unfold withSticky; omega) ?_
  · simpa using hround
  by_cases hexact : r * r = n
  · rw [if_neg (by simp [hexact]), ← hexact, show ((4 * (r * r) : ℕ) : ℝ) = ((2 * r : ℕ) : ℝ) ^ 2 by push_cast; ring,
      Real.sqrt_sq (Nat.cast_nonneg _)]
  · rw [if_pos (bne_iff_ne.2 hexact), mul_lt_mul_iff_left₀ hu, mul_lt_mul_iff_left₀ hu,
      Real.lt_sqrt (Nat.cast_nonneg _), Real.sqrt_lt' (by positivity)]
    have hlt : r * r < n := lt_of_le_of_ne hlo hexact
    constructor
    · exact_mod_cast (by nlinarith : (2 * r) ^ 2 < 4 * n)
    · exact_mod_cast (by nlinarith : 4 * n < (2 * r + 2) ^ 2)

theorem roundsTo_fsqrt64 {x : F64} (hx : F64.finite x = true) (h0 : 0 ≤ F64.toRat x) :
    RoundsTo (Real.sqrt (F64.toRat x)) x.msb (fsqrt64 x) := by
  obtain ⟨s, m, e, hv⟩ := finite_iff_val.1 hx
  obtain ⟨hm, -⟩ := val_fin_bounds hv
  rw [fsqrt64, msb_of_val_fin hv]
  unfold F64.toRat at h0 ⊢
  rw [hv] at h0 ⊢
  rcases eq_or_ne m 0 with rfl | hm0
  · rw [FVal.toRat_fin_eq_zero.2 rfl, Rat.cast_zero, Real.sqrt_zero]
    change RoundsTo _ _ (round64 s 0 0)
    have h := roundsTo_round64 s 0 0
    simpa using h
  · cases s with
    | true =>
      have : (0 : ℚ) < m * 2 ^ e := by positivity
      rw [FVal.toRat_fin, if_pos rfl] at h0
      linarith
    | false => exact roundsTo_packResult_sqrt _ _ _ e hm0 hm

theorem fsqrt64_neg {x : F64} (hx : F64.finite x = true) (h0 : F64.toRat x < 0) :
    fsqrt64 x = 0xFFF8000000000000 := by
  obtain ⟨s, m, e, hv⟩ := finite_iff_val.1 hx
  rw [F64.toRat, hv, FVal.toRat_fin] at h0
  have hm0 : m ≠ 0 := by
    rintro rfl
    simp at h0
  have hs : s = true := by
    by_contra hs
    have : (0 : ℚ) < m * 2 ^ e := by positivity
    rw [if_neg hs] at h0
    linarith
  rw [fsqrt64, hv]
  exact congrArg _ ((if_neg hm0).trans (if_pos hs))

/-! ### Rounding to an integer -/

/-- The numbers with a significand and an exponent of the format are below `2 ^ 1024`. -/
theorem significand_mul_lt {m : ℕ} {e : ℤ} (hm : m < 2 ^ 53) (he : e ≤ 971) : (m : ℝ) * 2 ^ e < 2 ^ 1024 := by
  have hm' : (m : ℝ) < 2 ^ 53 := by exact_mod_cast hm
  calc (m : ℝ) * 2 ^ e ≤ m * 2 ^ (971 : ℤ) := by
        gcongr
        norm_num
    _ < 2 ^ 53 * 2 ^ (971 : ℤ) := mul_lt_mul_of_pos_right hm' (by positivity)
    _ = 2 ^ 1024 := by
        rw [show (971 : ℤ) = (971 : ℕ) from rfl, zpow_natCast]
        exact (pow_add ..).symm

/-- They pack exactly. -/
theorem toRat_round64_of_lt {m : ℕ} {e : ℤ} (neg : Bool) (hm : m < 2 ^ 53) (he : -1074 ≤ e) (he' : e ≤ 971) :
    F64.finite (round64 neg m e) = true ∧ (round64 neg m e).msb = neg ∧
      F64.toRat (round64 neg m e) = (if neg then -1 else 1) * m * 2 ^ e :=
  round64_exact neg hm.le he rfl (significand_mul_lt hm he')

theorem roundShift_le (m k : ℕ) : roundShift m k ≤ m / 2 ^ k + 1 := by
  rcases roundShift_spec m k with ⟨h, -⟩ | ⟨h, -⟩ <;> omega

/-- Below the binary point a rounded magnitude is at most one more than the integer part. -/
theorem roundIntMag_le {rc : BitVec 2} {s : Bool} {m : ℕ} {e : ℤ} (he : e < 0) :
    roundIntMag rc s m e ≤ m / 2 ^ (-e).toNat + 1 := by
  rw [roundIntMag, if_neg he.not_ge]
  dsimp only
  rw [Nat.shiftRight_eq_div_pow]
  split
  · exact roundShift_le m _
  · split <;> omega
  · split <;> omega
  · omega

theorem frndint64_finite {rc : BitVec 2} {x : F64} {i : ℤ} (hx : F64.finite x = true)
    (hi : IntRounds rc (F64.toRat x) i) : F64.finite (frndint64 rc x) = true ∧
      F64.toRat (frndint64 rc x) = i ∧ (frndint64 rc x).msb = x.msb := by
  obtain ⟨s, m, e, hv⟩ := finite_iff_val.1 hx
  obtain ⟨hm, he, -, he'⟩ := val_fin_bounds hv
  rw [F64.toRat, hv] at hi
  rw [frndint64, hv, hi.unique (intRounds_roundIntMag rc s m e), signedInt_cast, msb_of_val_fin hv]
  dsimp only
  have key : F64.finite (round64 s (roundIntMag rc s m e) 0) = true ∧
      (round64 s (roundIntMag rc s m e) 0).msb = s ∧
      F64.toRat (round64 s (roundIntMag rc s m e) 0) = (if s then -1 else 1) * roundIntMag rc s m e * 2 ^ (0 : ℤ) := by
    rcases le_or_gt 0 e with h0 | h0
    · obtain ⟨k, rfl⟩ := Int.eq_ofNat_of_zero_le h0
      have hR : roundIntMag rc s m k = m * 2 ^ k := by
        rw [roundIntMag, if_pos h0, Int.toNat_natCast, Nat.shiftLeft_eq]
      have heq : ((m * 2 ^ k : ℕ) : ℝ) * 2 ^ (0 : ℤ) = m * 2 ^ (k : ℤ) := by simp
      rw [hR]
      exact round64_exact s hm.le he heq (heq ▸ significand_mul_lt hm he')
    · have h1 := roundIntMag_le (rc := rc) (s := s) (m := m) h0
      have h2 : m / 2 ^ (-e).toNat ≤ m / 2 ^ 1 :=
        Nat.div_le_div_left (Nat.pow_le_pow_right (by norm_num) (by omega)) (by norm_num)
      exact toRat_round64_of_lt s (by omega) (by norm_num) (by norm_num)
  obtain ⟨h1, h2, h3⟩ := key
  exact ⟨h1, by rw [h3, zpow_zero, mul_one], h2⟩

/-! ### FSCALE -/

theorem packResult_congr (op op' : FpOp) (a b a' b' : F64) (v : FVal) : packResult op a b v = packResult op' a' b' v := by
  cases v <;> rfl

theorem roundsTo_fscale64 {x y : F64} {n : ℤ} (hx : F64.finite x = true) (hy : F64.finite y = true)
    (hn : IntRounds 3 (F64.toRat y) n) : RoundsTo ((F64.toRat x : ℝ) * 2 ^ n) x.msb (fscale64 x y) := by
  obtain ⟨s, m, e, hv⟩ := finite_iff_val.1 hx
  obtain ⟨t, k, d, hw⟩ := finite_iff_val.1 hy
  rw [F64.toRat, hw] at hn
  have hexp : e + n = if t then e - (roundIntMag 3 t k d : ℤ) else e + roundIntMag 3 t k d := by
    rw [hn.unique (intRounds_roundIntMag 3 t k d)]
    cases t <;> rfl
  have hres : fscale64 x y = round64 s m (e + n) := by
    unfold fscale64
    rw [hv, hw, hexp]
    rfl
  rw [hres, msb_of_val_fin hv, toRat_eq_of_val hv]
  have h := roundsTo_round64 s m (e + n)
  have hcast : ((((if s then -1 else 1) * m * 2 ^ e : ℚ) : ℚ) : ℝ) * 2 ^ n = (if s then -1 else 1) * m * 2 ^ (e + n) := by
    rw [zpow_add₀ (by norm_num)]
    cases s
    all_goals
      simp only [Bool.false_eq_true, if_true, if_false]
      push_cast
      ring
  rw [hcast]
  exact h

theorem fscale64_inf_finite {x y : F64} (hx : F64.cls x = .infinity) (hy : F64.finite y = true) :
    fscale64 x y = x := by
  obtain ⟨n, hn⟩ := cls_eq_infinity_iff.1 hx
  obtain ⟨t, k, d, hw⟩ := finite_iff_val.1 hy
  rw [fscale64, hn, hw]
  exact (eq_f64Inf_of_val hn).symm

theorem fscale64_posInf (x : F64) : fscale64 x 0x7FF0000000000000 = fmul64 x 0x7FF0000000000000 := by
  have hy : F64.val 0x7FF0000000000000 = .inf false := val_f64Inf false
  unfold fscale64 fmul64
  rw [hy]
  cases F64.val x <;> exact packResult_congr ..

/-- A product with zero does not depend on the exponent of the zero. -/
theorem fscale64_negInf (x : F64) : fscale64 x 0xFFF0000000000000 = fmul64 x 0x0000000000000000 := by
  have hy : F64.val 0xFFF0000000000000 = .inf true := val_f64Inf true
  have hz : F64.val 0x0000000000000000 = .fin false 0 (-1074) := rfl
  unfold fscale64 fmul64
  rw [hy, hz]
  cases F64.val x with
  | nan => rfl
  | inf s => rfl
  | fin s m e =>
    change round64 (s ^^ false) (m * 0) (e + 0) = round64 (s ^^ false) (m * 0) (e + -1074)
    rw [Nat.mul_zero, round64_zero, round64_zero]

/-! ### FXTRACT -/

theorem fxtract64_spec {x : F64} (hx : F64.finite x = true) (h0 : F64.toRat x ≠ 0) :
    ∃ e : ℤ, (2 : ℚ) ^ e ≤ |F64.toRat x| ∧ |F64.toRat x| < 2 ^ (e + 1) ∧
      (fxtract64 x).1 = intToF64 e ∧ F64.toRat (fxtract64 x).2 * 2 ^ e = F64.toRat x := by
  obtain ⟨s, m, e, hv⟩ := finite_iff_val.1 hx
  obtain ⟨hm, -⟩ := val_fin_bounds hv
  rw [Ne, toRat_eq_zero_iff hv] at h0
  have hlo : 2 ^ Nat.log2 m ≤ m := Nat.log2_self_le h0
  have hhi : m < 2 ^ (Nat.log2 m + 1) := Nat.lt_log2_self
  have hl : Nat.log2 m ≤ 52 := Nat.lt_succ_iff.1 ((Nat.log2_lt h0).2 hm)
  have hu : (0 : ℚ) < 2 ^ e := by positivity
  have hpow (l : ℕ) : (2 : ℚ) ^ (l + e) = (2 ^ l : ℕ) * 2 ^ e := by
    rw [zpow_add₀ (by norm_num), zpow_natCast]
    push_cast
    rfl
  have hx : fxtract64 x = (intToF64 (Nat.log2 m + e), round64 s m (-(Nat.log2 m : ℤ))) := by
    rw [fxtract64, hv]
    exact if_neg h0
  have habs : |F64.toRat x| = m * 2 ^ e := by rw [F64.toRat, hv, abs_toRat_fin]
  obtain ⟨-, -, hsig⟩ := toRat_round64_of_lt (e := -(Nat.log2 m : ℤ)) s hm (by omega) (by omega)
  rw [hx, habs]
  refine ⟨Nat.log2 m + e, ?_, ?_, rfl, ?_⟩
  · rw [hpow, mul_le_mul_iff_left₀ hu]
    exact_mod_cast hlo
  · rw [show (Nat.log2 m : ℤ) + e + 1 = (Nat.log2 m + 1 : ℕ) + e by push_cast; ring, hpow, mul_lt_mul_iff_left₀ hu]
    exact_mod_cast hhi
  · rw [hsig, toRat_eq_of_val hv, mul_assoc, ← zpow_add₀ (by norm_num), neg_add_cancel_left]

/-! ### FPREM and FPREM1 -/

/-- FPREM1 takes the quotient above: the remainder is more than half of the divisor, or half of it and
the quotient is odd. -/
def remainderUp (nearest : Bool) (a b : ℕ) : Bool :=
  nearest && (decide (b < 2 * (a % b)) || (decide (2 * (a % b) = b) && decide (a / b % 2 = 1)))

/-- The integer quotient FPREM and FPREM1 take is the rounded one. -/
theorem intRounds_quotient (nearest s : Bool) {a b : ℕ} (hb : 0 < b) :
    IntRounds (if nearest then 0 else 3) ((if s then -1 else 1) * (a / b))
      (signedInt s (if remainderUp nearest a b then a / b + 1 else a / b)) := by
  have hbq : (0 : ℚ) < b := by exact_mod_cast hb
  have hdm := Nat.div_add_mod' a b
  have hmod : a % b < b := Nat.mod_lt _ hb
  have hparts : (a / b : ℚ) = (a / b : ℕ) + (a % b : ℕ) / b := by
    rw [div_eq_iff hbq.ne', add_mul, div_mul_cancel₀ _ hbq.ne']
    exact_mod_cast hdm.symm
  have h0 : (0 : ℚ) ≤ (a % b : ℕ) / b := by positivity
  have h1 : ((a % b : ℕ) / b : ℚ) < 1 := by
    rw [div_lt_one hbq]
    exact_mod_cast hmod
  have half : 2 * ((a % b : ℕ) / b : ℚ) = (2 * (a % b) : ℕ) / b := by push_cast; ring
  rw [hparts]
  refine intRounds_of_parts h0 h1 ?_
  rw [half, div_le_one hbq, div_lt_one hbq, one_le_div hbq, one_lt_div hbq, Nat.cast_le, Nat.cast_lt, Nat.cast_le,
    Nat.cast_lt]
  cases nearest with
  | false => exact .inl ⟨rfl, nofun, nofun, nofun⟩
  | true =>
    simp only [remainderUp, Bool.true_and, Bool.or_eq_true, Bool.and_eq_true, decide_eq_true_eq]
    split
    · next h => exact .inr ⟨rfl, fun _ => ⟨by omega, by omega⟩, nofun, nofun, nofun⟩
    · next h => exact .inl ⟨rfl, fun _ => ⟨by omega, by omega⟩, nofun, nofun⟩

/-- FPREM and FPREM1 on numbers, both in units of the smaller exponent; the remainder fits the format. -/
theorem fremainder64_units (nearest : Bool) {x y : F64} (hx : F64.finite x = true) (hy : F64.finite y = true)
    (h0 : F64.toRat y ≠ 0) :
    ∃ (u : ℤ) (a b : ℕ), F64.toRat x = (if x.msb then -1 else 1) * a * 2 ^ u ∧
      F64.toRat y = (if y.msb then -1 else 1) * b * 2 ^ u ∧ 0 < b ∧ a % b < 2 ^ 53 ∧ -1074 ≤ u ∧ u ≤ 971 ∧
      fremainder64 nearest x y = if remainderUp nearest a b then (round64 (!x.msb) (b - a % b) u, some (a / b + 1))
        else (round64 x.msb (a % b) u, some (a / b)) := by
  obtain ⟨s, m, e, hv⟩ := finite_iff_val.1 hx
  obtain ⟨t, n, d, hw⟩ := finite_iff_val.1 hy
  obtain ⟨hm, he, -, he'⟩ := val_fin_bounds hv
  obtain ⟨hn, hd, -, hd'⟩ := val_fin_bounds hw
  rw [Ne, toRat_eq_zero_iff hw] at h0
  have scaled (s : Bool) (m : ℕ) {u e : ℤ} (h : u ≤ e) :
      (if s then -1 else 1) * (m : ℚ) * 2 ^ e = (if s then -1 else 1) * (m * 2 ^ (e - u).toNat : ℕ) * 2 ^ u := by
    obtain ⟨k, rfl⟩ := Int.le.dest h
    rw [add_sub_cancel_left, Int.toNat_natCast, zpow_add₀ (by norm_num), zpow_natCast]
    push_cast
    ring
  have hb : 0 < n * 2 ^ (d - min e d).toNat := Nat.mul_pos (Nat.pos_of_ne_zero h0) (by positivity)
  rw [toRat_eq_of_val hv, toRat_eq_of_val hw, msb_of_val_fin hv, msb_of_val_fin hw]
  refine ⟨min e d, m * 2 ^ (e - min e d).toNat, n * 2 ^ (d - min e d).toNat, scaled s m (min_le_left ..),
    scaled t n (min_le_right ..), hb, ?_, by omega, by omega, ?_⟩
  · -- the remainder has at most the bits of the operand with the smaller exponent
    rcases min_choice e d with h | h
    · refine (Nat.mod_le _ _).trans_lt ?_
      rw [h, sub_self, Int.toNat_zero, pow_zero, mul_one]
      exact hm
    · refine (Nat.mod_lt _ hb).trans ?_
      rw [h, sub_self, Int.toNat_zero, pow_zero, mul_one]
      exact hn
  · rw [fremainder64, hv, hw]
    exact if_neg h0

/-- The remainder is exact, and its quotient is the rounded one. -/
theorem fremainder64_spec (nearest : Bool) {x y : F64} (hx : F64.finite x = true) (hy : F64.finite y = true)
    (h0 : F64.toRat y ≠ 0) :
    ∃ q : ℤ, IntRounds (if nearest then 0 else 3) (F64.toRat x / F64.toRat y) q ∧
      F64.finite (fremainder64 nearest x y).1 = true ∧
      F64.toRat (fremainder64 nearest x y).1 = F64.toRat x - q * F64.toRat y ∧
      (F64.toRat (fremainder64 nearest x y).1 = 0 → (fremainder64 nearest x y).1.msb = x.msb) ∧
      (fremainder64 nearest x y).2 = some q.natAbs := by
  obtain ⟨u, a, b, hvx, hvy, hb, hr, hu, hu', hres⟩ := fremainder64_units nearest hx hy h0
  have hu0 : (2 : ℚ) ^ u ≠ 0 := by positivity
  have hdiv : F64.toRat x / F64.toRat y = (if (x.msb ^^ y.msb) then -1 else 1) * (a / b) := by
    rw [hvx, hvy]
    cases x.msb <;> cases y.msb
    all_goals
      simp only [Bool.bne_true, Bool.bne_false, Bool.not_true, Bool.not_false, Bool.false_eq_true, if_true, if_false]
      field_simp
  have hdm : (((a / b : ℕ) : ℚ) * b + (a % b : ℕ) : ℚ) = a := by exact_mod_cast Nat.div_add_mod' a b
  have hmod : a % b < b := Nat.mod_lt _ hb
  have hround := intRounds_quotient nearest (x.msb ^^ y.msb) (a := a) hb
  rw [← hdiv] at hround
  refine ⟨_, hround, ?_⟩
  rw [signedInt_natAbs, signedInt_cast, hvx, hvy, hres]
  by_cases hup : remainderUp nearest a b = true
  · -- rounded up: the remainder is on the other side of zero
    have hlt : b - a % b < 2 ^ 53 := by
      unfold remainderUp at hup
      simp only [Bool.and_eq_true, Bool.or_eq_true, decide_eq_true_eq] at hup
      omega
    obtain ⟨h1, h2, h3⟩ := toRat_round64_of_lt (e := u) (!x.msb) hlt hu hu'
    rw [if_pos hup, if_pos hup]
    have hsub : ((b - a % b : ℕ) : ℚ) = (a / b + 1 : ℕ) * b - a := by
      rw [Nat.cast_sub hmod.le, ← hdm]
      push_cast
      ring
    refine ⟨h1, ?_, fun hz => ?_, rfl⟩
    · rw [h3, hsub]
      cases x.msb <;> cases y.msb
      all_goals
        simp only [Bool.bne_true, Bool.bne_false, Bool.not_true, Bool.not_false, Bool.false_eq_true, if_true, if_false]
        ring
    · have hne : ((b - a % b : ℕ) : ℚ) ≠ 0 := by
        rw [Nat.cast_ne_zero]
        omega
      rw [h3] at hz
      cases hs : x.msb <;> simp [hne, hu0, hs] at hz
  · obtain ⟨h1, h2, h3⟩ := toRat_round64_of_lt (e := u) x.msb hr hu hu'
    rw [if_neg hup, if_neg hup]
    have hsub : ((a % b : ℕ) : ℚ) = a - (a / b : ℕ) * b := by rw [← hdm, add_sub_cancel_left]
    refine ⟨h1, ?_, fun _ => h2, rfl⟩
    rw [h3, hsub]
    cases x.msb <;> cases y.msb
    all_goals
      simp only [Bool.bne_true, Bool.bne_false, Bool.not_true, Bool.not_false, Bool.false_eq_true, if_true, if_false]
      ring

/-- Settles O58. -/
theorem fpuFunctions : Obligations.FpuFunctions := by
  intro x y qnan vx vy finite
  refine ⟨roundsTo_fsqrt64, fsqrt64_neg, fun n h => ?_, fun rc i => frndint64_finite, fun rc h => ?_,
    fun n => roundsTo_fscale64, fscale64_inf_finite, fun h => h ▸ fscale64_posInf x, fun h => h ▸ fscale64_negInf x,
    fxtract64_spec, fun hx h => ?_, fun h => ?_, fun nearest => fremainder64_spec nearest, fun nearest hx hy => ?_,
    fun nearest h => ?_, fun h => ?_, fun h => ?_⟩
  · rw [fsqrt64, h]
    cases n
    · exact (eq_f64Inf_of_val h).symm
    · rfl
  · obtain ⟨n, hn⟩ := cls_eq_infinity_iff.1 h
    rw [frndint64, hn]
  · obtain ⟨s, m, e, hv⟩ := finite_iff_val.1 hx
    have hm : m = 0 := (toRat_eq_zero_iff hv).1 h
    rw [fxtract64, hv]
    exact (if_pos hm).trans rfl
  · obtain ⟨n, hn⟩ := cls_eq_infinity_iff.1 h
    rw [fxtract64, hn]
    rfl
  · obtain ⟨s, m, e, hv⟩ := finite_iff_val.1 hx
    obtain ⟨n, hn⟩ := cls_eq_infinity_iff.1 hy
    rw [fremainder64, hv, hn]
  · rcases h with h | ⟨hy, h⟩
    · obtain ⟨n, hn⟩ := cls_eq_infinity_iff.1 h
      rw [fremainder64, hn]
      rfl
    · obtain ⟨t, n, d, hw⟩ := finite_iff_val.1 hy
      have hn : n = 0 := (toRat_eq_zero_iff hw).1 h
      rw [fremainder64, hw]
      cases F64.val x with
      | nan => rfl
      | inf s => rfl
      | fin s m e => exact if_pos hn
  · rw [fsqrt64, fxtract64, cls_eq_nan_iff.1 h]
    refine ⟨rfl, fun rc => ?_, rfl⟩
    rw [frndint64, cls_eq_nan_iff.1 h]
    rfl
  · rw [cls_eq_nan_iff, cls_eq_nan_iff] at h
    unfold fscale64 fremainder64
    rcases h with h | h <;> rw [h]
    · exact ⟨rfl, fun nearest => rfl⟩
    · cases F64.val x <;> exact ⟨rfl, fun nearest => rfl⟩

end Sys2Proof.Machine
end

section
/-! Two states that differ in bytes of memory only: what the operations of the machine read of it, and what
they keep of the difference (R98, R101). -/

namespace Sys2Proof.Machine

/-- The state over another memory. -/
def State.withMem (s : State) (m : Memory) : State := { s with mem := m }

/-- `u` is `t` over a memory that agrees with that of `t` on the bytes `W`; and the result of `t` is `ρ`. -/
structure Over (ρ : Option StepResult) (W : ℕ → Prop) (t u : State) : Prop where
  eq : u = t.withMem u.mem
  result : t.result = ρ
  bytes : ∀ p, W p → u.mem.get p = t.mem.get p

/-- If the first answer is a next state, the second is it over a memory that agrees on `W`. -/
def Follows (ρ : Option StepResult) (W : ℕ → Prop) (o o' : Result) : Prop :=
  ∀ t, o = .next t → ∃ u, o' = .next u ∧ Over ρ W t u

/-- The bytes of `W` and those the calls write. -/
def Plus (W : ℕ → Prop) (l : List BusAccess) (p : ℕ) : Prop := W p ∨ WritesByte l p

section
variable {ρ : Option StepResult} {W W' : ℕ → Prop} {s t u : State} {m : Memory} {l : List BusAccess}

/-! ### What changes no byte -/

theorem Over.mono (h : Over ρ W t u) (hW : ∀ p, W' p → W p) : Over ρ W' t u :=
  ⟨h.eq, h.result, fun p hp => h.bytes p (hW p hp)⟩

/-- An operation that does not look at the memory and leaves it alone. -/
theorem Over.inert {t' u' : State} (h : Over ρ W t u) (hm : t'.mem = t.mem) (hr : t'.result = t.result)
    (hu : u' = t'.withMem u.mem) : Over ρ W t' u' := by
  subst hu
  exact ⟨rfl, hr.trans h.result, fun p hp => hm ▸ h.bytes p hp⟩

/-- A function that commutes with another memory. -/
theorem Over.map (h : Over ρ W t u) (f : State → State)
    (hf : ∀ m, f (t.withMem m) = (f t).withMem m := by intro _; rfl) (hm : (f t).mem = t.mem := by rfl)
    (hr : (f t).result = t.result := by rfl) : Over ρ W (f t) (f u) :=
  h.inert hm hr ((congrArg f h.eq).trans (hf _))

theorem Over.next (h : Over ρ W t u) : Follows ρ W (.next t) (.next u) := by
  rintro _ ⟨⟩
  exact ⟨u, rfl, h⟩

theorem Over.retire (h : Over ρ W t u) : Over ρ W t.retire u.retire :=
  h.map State.retire

theorem Over.done (h : Over ρ W t u) : Follows ρ W (Machine.done t) (Machine.done u) := h.retire.next

theorem Follows.of_eq {o o' o'' : Result} (h : Follows ρ W o o') (he : o'' = o') : Follows ρ W o o'' := he ▸ h

theorem Follows.mono {o o' : Result} (h : Follows ρ W o o') (hW : ∀ p, W' p → W p) : Follows ρ W' o o' :=
  fun t ht => (h t ht).imp fun _ ⟨hu, hover⟩ => ⟨hu, hover.mono hW⟩

/-- A state that depends on a value read, the same in both. -/
theorem Over.doneRead {α : Type} {v v' : α} (h : Over ρ W t (t.withMem m)) (hv : v' = v) (f : State → α → State)
    (hf : ∀ m, f (t.withMem m) v = (f t v).withMem m := by intro _; rfl) (hm : (f t v).mem = t.mem := by rfl)
    (hr : (f t v).result = t.result := by rfl) :
    Follows ρ W (Machine.done (f t v)) (Machine.done (f (t.withMem m) v')) := by
  subst hv
  exact (h.map (f · v') hf hm hr).done

/-- Calls that write nothing add nothing. -/
theorem Follows.plus {o o' : Result} (h : Follows ρ W o o') (hl : ∀ p, ¬ WritesByte l p) :
    Follows ρ (Plus W l) o o' := h.mono fun p hp => hp.resolve_right (hl p)

theorem Follows.ite {c : Prop} [Decidable c] {o o' q q' : Result} (ho : c → Follows ρ W o o')
    (hq : ¬ c → Follows ρ W q q') : Follows ρ W (if c then o else q) (if c then o' else q') := by
  split
  · next h => exact ho h
  · next h => exact hq h

/-- Nor before others. -/
theorem Follows.plus_left {o o' : Result} {k : List BusAccess} (h : Follows ρ (Plus W k) o o')
    (hl : ∀ p, ¬ WritesByte l p) : Follows ρ (Plus W (l ++ k)) o o' :=
  h.mono fun p hp => hp.imp_right fun hw => ((writesByte_append ..).1 hw).resolve_left (hl p)

theorem Follows.thenDo {ρ' : Option StepResult} {o o' : Result} {k k' : State → Result} (h : Follows ρ W o o')
    (hk : ∀ t u, Over ρ W t u → Follows ρ' W' (k t) (k' u)) : Follows ρ' W' (thenDo o k) (thenDo o' k') := by
  intro t ht
  cases o with
  | next v =>
    obtain ⟨u, rfl, hover⟩ := h v rfl
    exact hk v u hover t ht
  | fault r => exact absurd ht nofun
  | refused r => exact absurd ht nofun

theorem follows_loadSeg (h : Over ρ W t u) (r : SegReg) (sel : BitVec 16) :
    Follows ρ W (loadSeg r sel t) (loadSeg r sel u) := by
  have hseg : segmentFor u r sel = segmentFor t r sel :=
    (congrArg (segmentFor · r sel) h.eq).trans (by rfl)
  rw [loadSeg_eq, loadSeg_eq, hseg]
  split
  · next d _ =>
    exact (h.map (State.setSeg · r sel d.base d.big)).next
  · intro v hv
    cases hv

/-! ### Reads -/

theorem reads_left {k : List BusAccess} (h : ∀ p, ReadsByte (l ++ k) p → W p) : ∀ p, ReadsByte l p → W p :=
  fun p hp => h p ((readsByte_append ..).2 (.inl hp))

theorem reads_right {k : List BusAccess} (h : ∀ p, ReadsByte (l ++ k) p → W p) : ∀ p, ReadsByte k p → W p :=
  fun p hp => h p ((readsByte_append ..).2 (.inr hp))

theorem Over.readBytes (h : Over ρ W t u) {a : BitVec 32} {n : ℕ} (hW : ∀ p, InSpan a n p → W p) :
    u.mem.readBytes a n = t.mem.readBytes a n :=
  Memory.readBytes_congr fun k hk => h.bytes _ (hW _ ⟨k, hk, rfl⟩)

theorem Over.memRead (h : Over ρ W t u) {w : Width} {a : BitVec 32} (hW : ∀ p, InSpan a w.bytes p → W p) :
    u.memRead w a = t.memRead w a := by
  unfold State.memRead
  rw [h.readBytes hW]

theorem Over.memReadSpan (h : Over ρ W t u) {n : ℕ} {a : BitVec 32} (hW : ∀ p, InSpan a n p → W p) :
    u.memReadSpan n a = t.memReadSpan n a := by
  unfold State.memReadSpan
  rw [h.readBytes hW]

theorem Over.readRM (h : Over ρ W t u) {w : Width} {rm : RM} (hW : ∀ p, ReadsByte (t.rmReads w rm) p → W p) :
    u.readRM w rm = t.readRM w rm := by
  cases rm with
  | reg r => rw [h.eq]; rfl
  | mem mo =>
    have ha : u.memAddr mo = t.memAddr mo := by rw [h.eq]; rfl
    rw [State.readRM, ha, State.readRM]
    exact h.memRead fun p hp => hW p ((readsByte_read ..).2 hp)

/-! ### Calls that write nothing -/

theorem not_writesByte_nil (p : ℕ) : ¬ WritesByte [] p := (writesByte_nil p).1

theorem not_writesByte_read (a : BitVec 32) (n p : ℕ) : ¬ WritesByte [.read a n] p := (writesByte_read a n p).1

theorem not_writesByte_append {k : List BusAccess} (hl : ∀ p, ¬ WritesByte l p) (hk : ∀ p, ¬ WritesByte k p) (p : ℕ) :
    ¬ WritesByte (l ++ k) p := fun hp => ((writesByte_append ..).1 hp).elim (hl p) (hk p)

theorem not_writesByte_rmReads (w : Width) (rm : RM) (p : ℕ) : ¬ WritesByte (s.rmReads w rm) p := by
  cases rm with
  | reg r => exact not_writesByte_nil p
  | mem mo => exact not_writesByte_read _ _ p

/-! ### Writes -/

/-- The bytes a write stores are the same in both memories. -/
theorem Over.memWriteSpan (h : Over ρ W t u) (a : BitVec 32) {bs : List Byte} (hle : bs.length ≤ 2 ^ 32) :
    Over ρ (fun p => W p ∨ InSpan a bs.length p) (t.memWriteSpan a bs) (u.memWriteSpan a bs) := by
  refine ⟨congrArg (State.memWriteSpan · a bs) h.eq, h.result, fun p hp => ?_⟩
  by_cases hin : ∃ k, k < bs.length ∧ p = (a + BitVec.ofNat 32 k).toNat
  · obtain ⟨k, hk, hpk⟩ := hin
    exact ((u.mem.get_writeBytes a bs hle p).1 k hk hpk).trans ((t.mem.get_writeBytes a bs hle p).1 k hk hpk).symm
  · have hout (k : ℕ) (hk : k < bs.length) : p ≠ (a + BitVec.ofNat 32 k).toNat := fun e => hin ⟨k, hk, e⟩
    have hW : W p := hp.resolve_right fun ⟨k, hk, e⟩ => hin ⟨k, hk, e.symm ▸ rfl⟩
    exact ((u.mem.get_writeBytes a bs hle p).2 hout).trans
      ((h.bytes p hW).trans ((t.mem.get_writeBytes a bs hle p).2 hout).symm)

theorem Over.memWrite (h : Over ρ W t u) (w : Width) (a : BitVec 32) (v : BitVec w.bits) :
    Over ρ (fun p => W p ∨ InSpan a w.bytes p) (t.memWrite w a v) (u.memWrite w a v) := by
  have hlen : (leBytes w.bytes v.toNat).length = w.bytes := leBytes_length _ _
  have hw := h.memWriteSpan a (bs := leBytes w.bytes v.toNat) (by rw [hlen]; exact w.bytes_le.trans (by norm_num))
  rwa [hlen] at hw

theorem Over.writeRM (h : Over ρ W t u) (w : Width) (rm : RM) (v : BitVec w.bits) :
    Over ρ (Plus W (t.rmWrites w rm)) (t.writeRM w rm v) (u.writeRM w rm v) := by
  cases rm with
  | reg r =>
    exact (h.map (State.writeReg · w r v)).mono fun p hp => hp.resolve_right ((writesByte_nil p).1 ·)
  | mem mo =>
    have ha : u.memAddr mo = t.memAddr mo := by rw [h.eq]; rfl
    change Over ρ _ (t.memWrite w (t.memAddr mo) v) (u.memWrite w (u.memAddr mo) v)
    rw [ha]
    exact (h.memWrite w _ v).mono fun p hp => hp.imp_right (writesByte_write ..).1

/-- The result and the flags of an operation written to its operand. -/
theorem Over.finishRM (h : Over ρ W t u) (w : Width) (rm : RM) (out : BitVec w.bits × Flags) :
    Follows ρ (Plus W (t.rmWrites w rm)) (t.finishRM w rm out) (u.finishRM w rm out) := by
  exact ((h.map fun v => { v with flags := out.2 }).writeRM w rm out.1).done

end

end Sys2Proof.Machine
end

section
/-! The arithmetic, logic, shift, bit and move instructions over two memories that agree on what they read. -/

namespace Sys2Proof.Machine

section
variable {ρ : Option StepResult} {W : ℕ → Prop} {s : State} {m : Memory} (h : Over ρ W s (s.withMem m))
include h

/-! ### The two-operand group (R330 to R339) -/

theorem Over.aluArgs {f : AluForm} (hR : ∀ p, ReadsByte (s.aluReads f) p → W p) :
    (s.withMem m).aluArgs f = s.aluArgs f := by
  cases f with
  | rmbRb rm r => exact congrArg (fun a => AluArgs.mk .w8 rm a (s.readReg .w8 r)) (h.readRM hR)
  | rmwRw rm r => exact congrArg (fun a => AluArgs.mk s.opw rm a (s.readReg s.opw r)) (h.readRM hR)
  | rbRmb r rm => exact congrArg (AluArgs.mk .w8 (.reg r) (s.readReg .w8 r)) (h.readRM hR)
  | rwRmw r rm => exact congrArg (AluArgs.mk s.opw (.reg r) (s.readReg s.opw r)) (h.readRM hR)
  | alIb imm | axIw imm => rfl
  | rmbIb rm imm => exact congrArg (fun a => AluArgs.mk .w8 rm a imm) (h.readRM hR)
  | rmwIw rm imm => exact congrArg (fun a => AluArgs.mk s.opw rm a (s.immw imm)) (h.readRM hR)
  | rmwIb rm imm => exact congrArg (fun a => AluArgs.mk s.opw rm a (s.immSext imm)) (h.readRM hR)

theorem Over.testArgs {f : TestForm} (hR : ∀ p, ReadsByte (s.testReads f) p → W p) :
    (s.withMem m).testArgs f = s.testArgs f := by
  cases f with
  | rmbRb rm r => exact congrArg (fun a => AluArgs.mk .w8 rm a (s.readReg .w8 r)) (h.readRM hR)
  | rmwRw rm r => exact congrArg (fun a => AluArgs.mk s.opw rm a (s.readReg s.opw r)) (h.readRM hR)
  | alIb imm | axIw imm => rfl
  | rmbIb rm imm => exact congrArg (fun a => AluArgs.mk .w8 rm a imm) (h.readRM hR)
  | rmwIw rm imm => exact congrArg (fun a => AluArgs.mk s.opw rm a (s.immw imm)) (h.readRM hR)

omit h in
theorem rmWrites_aluArgs (f : AluForm) : s.rmWrites (s.aluArgs f).w (s.aluArgs f).dst = s.aluWrites f := by
  cases f <;> rfl

omit h in
theorem not_writesByte_aluReads (f : AluForm) (p : ℕ) : ¬ WritesByte (s.aluReads f) p := by
  cases f with
  | alIb imm | axIw imm => exact not_writesByte_nil p
  | _ => exact not_writesByte_rmReads _ _ p

omit h in
theorem not_writesByte_testReads (f : TestForm) (p : ℕ) : ¬ WritesByte (s.testReads f) p := by
  cases f with
  | alIb imm | axIw imm => exact not_writesByte_nil p
  | _ => exact not_writesByte_rmReads _ _ p

theorem follows_aluWrite (op : ∀ {n : ℕ}, Flags → BitVec n → BitVec n → BitVec n × Flags) {f : AluForm}
    (hR : ∀ p, ReadsByte (s.aluReads f ++ s.aluWrites f) p → W p) :
    Follows ρ (Plus W (s.aluReads f ++ s.aluWrites f)) (aluWrite op f s) (aluWrite op f (s.withMem m)) := by
  have hout := h.finishRM (s.aluArgs f).w (s.aluArgs f).dst (op s.flags (s.aluArgs f).a (s.aluArgs f).b)
  rw [rmWrites_aluArgs] at hout
  unfold aluWrite
  rw [h.aluArgs (reads_left hR)]
  exact hout.plus_left (not_writesByte_aluReads f)

theorem follows_cmp {f : AluForm} (hR : ∀ p, ReadsByte (s.aluReads f) p → W p) :
    Follows ρ (Plus W (s.aluReads f)) (execCmp f s) (execCmp f (s.withMem m)) :=
  (h.doneRead (h.aluArgs hR) fun t x => { t with flags := (flagsSub s.flags x.a x.b false).2 }).plus
    (not_writesByte_aluReads f)

theorem follows_test {f : TestForm} (hR : ∀ p, ReadsByte (s.testReads f) p → W p) :
    Follows ρ (Plus W (s.testReads f)) (execTest f s) (execTest f (s.withMem m)) :=
  (h.doneRead (h.testArgs hR) fun t x => { t with flags := flagsLogic s.flags (x.a &&& x.b) }).plus
    (not_writesByte_testReads f)

/-! ### Operations on one operand (R197, R340 to R343, R380) -/

/-- A read-modify-write of an operand, with the flags. -/
theorem follows_modify {w : Width} {rm : RM} (out : BitVec w.bits → BitVec w.bits × Flags)
    (hR : ∀ p, ReadsByte (s.rmModifies w rm) p → W p) :
    Follows ρ (Plus W (s.rmModifies w rm)) (s.finishRM w rm (out (s.readRM w rm)))
      ((s.withMem m).finishRM w rm (out ((s.withMem m).readRM w rm))) := by
  rw [h.readRM (reads_left hR)]
  exact (h.finishRM w rm _).plus_left (not_writesByte_rmReads w rm)

theorem follows_not {f : UnaryForm} (hR : ∀ p, ReadsByte (s.unaryModifies f) p → W p) :
    Follows ρ (Plus W (s.unaryModifies f)) (execNot f s) (execNot f (s.withMem m)) := by
  have hread := h.readRM (w := (s.unaryArg f).1) (rm := (s.unaryArg f).2) (reads_left hR)
  have hout := (h.writeRM (s.unaryArg f).1 (s.unaryArg f).2 (~~~(s.readRM (s.unaryArg f).1 (s.unaryArg f).2))).done
  exact (hout.plus_left (not_writesByte_rmReads _ _)).of_eq
    (congrArg (fun a => done ((s.withMem m).writeRM (s.unaryArg f).1 (s.unaryArg f).2 (~~~a))) hread)

theorem follows_shiftExec {k : ShiftKind} {f : ShiftForm} (hR : ∀ p, ReadsByte (s.shiftAccesses k f) p → W p) :
    Follows ρ (Plus W (s.shiftAccesses k f)) (shiftExec k f s) (shiftExec k f (s.withMem m)) := by
  unfold State.shiftAccesses at hR ⊢
  refine Follows.ite (fun h0 => ?_) fun h0 => ?_
  · rw [if_pos h0]
    exact h.done.plus (not_writesByte_rmReads _ _)
  · rw [if_neg h0] at hR ⊢
    exact follows_modify h (fun a => k.out s.flags a (k.steps (s.shiftArgs f).1.bits (s.shiftArgs f).2.2)) hR

theorem follows_doubleShiftExec (bits : ∀ {n : ℕ}, BitVec n → BitVec n → ℕ → BitVec n × Bool) {f : DoubleShiftForm}
    (hR : ∀ p, ReadsByte (s.doubleShiftAccesses f) p → W p) :
    Follows ρ (Plus W (s.doubleShiftAccesses f)) (doubleShiftExec bits f s)
      (doubleShiftExec bits f (s.withMem m)) := by
  unfold State.doubleShiftAccesses at hR ⊢
  refine Follows.ite (fun h0 => ?_) fun h0 => ?_
  · rw [if_pos h0]
    exact h.done.plus (not_writesByte_rmReads _ _)
  · rw [if_neg h0] at hR ⊢
    exact follows_modify h (fun a =>
      let c := (s.doubleShiftArgs f).2.2.toNat % 32
      let out := bits a (s.readReg s.opw (s.doubleShiftArgs f).2.1) c
      (out.1, { s.flags.setSZP out.1 with
        CF := out.2
        OF := if c = 1 then out.1.msb ^^ a.msb else s.flags.OF })) hR

/-! ### Multiplication (R344 to R347) -/

theorem Over.doneProduct {α : Type} {v v' : α} (hv : v' = v) (w : Width) (p : α → ℤ) (fl : α → Flags) :
    Follows ρ W (Machine.done { s.writeProduct w (p v) with flags := fl v })
      (Machine.done { (s.withMem m).writeProduct w (p v') with flags := fl v' }) := by
  cases w <;> exact h.doneRead hv fun t v => { t.writeProduct _ (p v) with flags := fl v }

theorem follows_mul {f : UnaryForm} (hR : ∀ p, ReadsByte (s.unaryReads f) p → W p) :
    Follows ρ (Plus W (s.unaryReads f)) (execMul f s) (execMul f (s.withMem m)) :=
  have hprod := congrArg (fun a => (s.readReg (s.unaryArg f).1 .eax).toNat * BitVec.toNat a) (h.readRM hR)
  (h.doneProduct hprod (s.unaryArg f).1 (fun p => (p : ℤ))
    fun p => flagsMul s.flags (decide (2 ^ (s.unaryArg f).1.bits ≤ p))).plus (not_writesByte_rmReads _ _)

theorem follows_imulWide {w : Width} {rm : RM} (hR : ∀ p, ReadsByte (s.rmReads w rm) p → W p) :
    Follows ρ (Plus W (s.rmReads w rm)) (imulWide w rm s) (imulWide w rm (s.withMem m)) :=
  have hprod := congrArg (fun a => (s.readReg w .eax).toInt * BitVec.toInt a) (h.readRM hR)
  (h.doneProduct hprod w id fun p => flagsMul s.flags (signedLoss w.bits p)).plus (not_writesByte_rmReads _ _)

theorem Over.imulReg {w : Width} {r : Reg} {a b a' b' : BitVec w.bits} (ha : a' = a) (hb : b' = b) :
    Follows ρ W (Machine.imulReg w r a b s) (Machine.imulReg w r a' b' (s.withMem m)) := by
  subst ha hb
  exact (h.map fun t => { t.writeReg w r (BitVec.ofInt w.bits (a'.toInt * b'.toInt)) with
    flags := flagsMul s.flags (signedLoss w.bits (a'.toInt * b'.toInt)) }).done

theorem follows_imul {f : ImulForm} (hR : ∀ p, ReadsByte (s.imulReads f) p → W p) :
    Follows ρ (Plus W (s.imulReads f)) (execImul f s) (execImul f (s.withMem m)) := by
  cases f with
  | rmb rm => exact follows_imulWide h hR
  | rmw rm => exact follows_imulWide h hR
  | rwRmw r rm => exact (h.imulReg rfl (h.readRM hR)).plus (not_writesByte_rmReads _ _)
  | rwRmwIw r rm imm => exact (h.imulReg (h.readRM hR) rfl).plus (not_writesByte_rmReads _ _)
  | rwRmwIb r rm imm => exact (h.imulReg (h.readRM hR) rfl).plus (not_writesByte_rmReads _ _)

/-! ### Bit tests and scans (R392 to R398) -/

theorem Over.readPlace {f : BitForm} (hR : ∀ p, ReadsByte (s.bitReads f) p → W p) :
    (s.withMem m).readPlace (s.bitTarget f).1 = s.readPlace (s.bitTarget f).1 := by
  unfold State.bitReads at hR
  cases hp : (s.bitTarget f).1 with
  | reg r => rfl
  | phys a =>
    rw [hp] at hR
    exact h.memRead fun p hin => hR p ((readsByte_read ..).2 hin)

theorem Over.writePlace (w : Width) (pl : BitPlace) (v : BitVec w.bits) :
    Over ρ (Plus W (match pl with
      | .reg _ => []
      | .phys a => [.write a w.bytes])) (s.writePlace w pl v) ((s.withMem m).writePlace w pl v) := by
  cases pl with
  | reg r => exact (h.map (State.writeReg · w r v)).mono fun p hp => hp.resolve_right (not_writesByte_nil p)
  | phys a => exact (h.memWrite w a v).mono fun p hp => hp.imp_right (writesByte_write ..).1

omit h in
theorem bitModifies_eq (f : BitForm) : s.bitModifies f = s.bitReads f ++ match (s.bitTarget f).1 with
    | .reg _ => []
    | .phys a => [.write a s.opw.bytes] := by
  unfold State.bitModifies State.bitReads
  cases (s.bitTarget f).1 <;> rfl

omit h in
theorem not_writesByte_bitReads (f : BitForm) (p : ℕ) : ¬ WritesByte (s.bitReads f) p := by
  unfold State.bitReads
  cases (s.bitTarget f).1 with
  | reg r => exact not_writesByte_nil p
  | phys a => exact not_writesByte_read _ _ p

theorem follows_bt {f : BitForm} (hR : ∀ p, ReadsByte (s.bitReads f) p → W p) :
    Follows ρ (Plus W (s.bitReads f)) (execBt f s) (execBt f (s.withMem m)) :=
  (h.doneRead (h.readPlace hR) fun t v => t.setCF (v.getLsbD (s.bitTarget f).2)).plus (not_writesByte_bitReads f)

theorem follows_bitModify (change : ∀ {n : ℕ}, BitVec n → BitVec n → BitVec n) {f : BitForm}
    (hR : ∀ p, ReadsByte (s.bitModifies f) p → W p) :
    Follows ρ (Plus W (s.bitModifies f)) (bitModify change f s) (bitModify change f (s.withMem m)) := by
  rw [bitModifies_eq] at hR ⊢
  have hread := h.readPlace (reads_left hR)
  have hout (v : BitVec s.opw.bits) := ((h.writePlace s.opw (s.bitTarget f).1
    (change v (1#_ <<< (s.bitTarget f).2))).map (State.setCF · (v.getLsbD (s.bitTarget f).2))).done
  exact ((hout _).plus_left (not_writesByte_bitReads f)).of_eq
    (congrArg (fun v : BitVec s.opw.bits => done (((s.withMem m).writePlace s.opw (s.bitTarget f).1
      (change v (1#_ <<< (s.bitTarget f).2))).setCF (v.getLsbD (s.bitTarget f).2))) hread)

theorem follows_bitScan (find : ∀ {n : ℕ}, BitVec n → ℕ) {r : Reg} {rm : RM}
    (hR : ∀ p, ReadsByte (s.rmReads s.opw rm) p → W p) :
    Follows ρ (Plus W (s.rmReads s.opw rm)) (bitScan find r rm s) (bitScan find r rm (s.withMem m)) := by
  have hout (v : BitVec s.opw.bits) : Follows ρ W
      (if v = 0 then done (s.setZF true) else done ((s.writeReg s.opw r (BitVec.ofNat _ (find v))).setZF false))
      (if v = 0 then done ((s.withMem m).setZF true)
        else done (((s.withMem m).writeReg s.opw r (BitVec.ofNat _ (find v))).setZF false)) :=
    .ite (fun _ => (h.map (State.setZF · true)).done)
      fun _ => (h.map fun t => (t.writeReg s.opw r (BitVec.ofNat _ (find v))).setZF false).done
  exact ((hout _).plus (not_writesByte_rmReads _ _)).of_eq
    (congrArg (fun v : BitVec s.opw.bits => if v = 0 then done ((s.withMem m).setZF true)
      else done (((s.withMem m).writeReg s.opw r (BitVec.ofNat _ (find v))).setZF false)) (h.readRM hR))

end

end Sys2Proof.Machine
end

section
/-! The moves, exchanges, far-pointer loads and ports over two memories. -/

namespace Sys2Proof.Machine

section
variable {ρ : Option StepResult} {W : ℕ → Prop} {s : State} {m : Memory} (h : Over ρ W s (s.withMem m))

/-! ### Ports (R95, R96) -/

theorem portReadBytes_withMem (s : State) (m : Memory) (p : BitVec 16) (n : ℕ) :
    (s.withMem m).portReadBytes p n = ((s.portReadBytes p n).1, (s.portReadBytes p n).2.withMem m) := by
  induction n generalizing s p with
  | zero => rfl
  | succ n ih =>
    have hstep := ih (s.portReadByte p).2 (p + 1)
    exact congrArg (fun x : List Byte × State => ((s.portReadByte p).1 :: x.1, x.2)) hstep

theorem portWriteBytes_withMem (s : State) (m : Memory) (p : BitVec 16) (bs : List Byte) :
    (s.withMem m).portWriteBytes p bs = (s.portWriteBytes p bs).withMem m := by
  induction bs generalizing s p with
  | nil => rfl
  | cons b bs ih => exact ih (s.portWriteByte p b) (p + 1)

theorem not_writesByte_portReads (a : BitVec 16) (n p : ℕ) : ¬ WritesByte (portReads a n) p := by
  simp [WritesByte, portReads]

theorem not_writesByte_portWrites (a : BitVec 16) (n p : ℕ) : ¬ WritesByte (portWrites a n) p := by
  simp [WritesByte, portWrites]

include h

/-- A value from a port is the same in both, and only the port history changes. -/
theorem Over.portRead (w : Width) (p : BitVec 16) : ((s.withMem m).portRead w p).1 = (s.portRead w p).1 ∧
    Over ρ W (s.portRead w p).2 ((s.withMem m).portRead w p).2 := by
  have hport := portReadBytes_withMem s m p w.bytes
  obtain ⟨ports, hstate⟩ := portRead_state s w p
  have hbytes : ((s.withMem m).portReadBytes p w.bytes).1 = (s.portReadBytes p w.bytes).1 := by rw [hport]
  refine ⟨congrArg (fun bs => BitVec.ofNat w.bits (leNat bs)) hbytes, h.inert ?_ ?_ (congrArg Prod.snd hport)⟩
  · rw [hstate]
  · rw [hstate]

theorem Over.portWrite (w : Width) (p : BitVec 16) (v : BitVec w.bits) :
    Over ρ W (s.portWrite w p v) ((s.withMem m).portWrite w p v) := by
  obtain ⟨ports, hstate⟩ := portWrite_state s w p v
  refine h.inert ?_ ?_ (portWriteBytes_withMem s m p _)
  · rw [hstate]
  · rw [hstate]

theorem Over.portIn (w : Width) (p : BitVec 16) :
    Follows ρ W (Machine.portIn w p s) (Machine.portIn w p (s.withMem m)) := by
  obtain ⟨hv, hstate⟩ := h.portRead w p
  have hout := (hstate.map (State.writeReg · w .eax (s.portRead w p).1)).done
  exact hout.of_eq (congrArg (fun v => Machine.done (((s.withMem m).portRead w p).2.writeReg w .eax v)) hv)

theorem Over.portOut (w : Width) (p : BitVec 16) :
    Follows ρ W (Machine.portOut w p s) (Machine.portOut w p (s.withMem m)) :=
  (h.portWrite w p (s.readReg w .eax)).done

theorem follows_in {f : InForm} : Follows ρ (Plus W (s.inAccesses f)) (execIn f s) (execIn f (s.withMem m)) := by
  cases f with
  | alIb imm => exact (h.portIn .w8 _).plus (not_writesByte_portReads _ _)
  | axIb imm => exact (h.portIn s.opw _).plus (not_writesByte_portReads _ _)
  | alDx => exact (h.portIn .w8 s.dx).plus (not_writesByte_portReads _ _)
  | axDx => exact (h.portIn s.opw s.dx).plus (not_writesByte_portReads _ _)

theorem follows_out {f : OutForm} : Follows ρ (Plus W (s.outAccesses f)) (execOut f s) (execOut f (s.withMem m)) := by
  cases f with
  | ibAl imm => exact (h.portOut .w8 _).plus (not_writesByte_portWrites _ _)
  | ibAx imm => exact (h.portOut s.opw _).plus (not_writesByte_portWrites _ _)
  | dxAl => exact (h.portOut .w8 s.dx).plus (not_writesByte_portWrites _ _)
  | dxAx => exact (h.portOut s.opw s.dx).plus (not_writesByte_portWrites _ _)

/-! ### Moves (R261 to R269, R283 to R293, R298) -/

/-- A write to memory that retires. -/
theorem Over.doneWrite (w : Width) (a : BitVec 32) (v : BitVec w.bits) :
    Follows ρ (Plus W [.write a w.bytes]) (Machine.done (s.memWrite w a v))
      (Machine.done ((s.withMem m).memWrite w a v)) :=
  (h.memWrite w a v).done.mono fun _ hp => hp.imp_right (writesByte_write ..).1

theorem Over.memReadOf {w : Width} {a : BitVec 32} (hR : ∀ p, ReadsByte [.read a w.bytes] p → W p) :
    (s.withMem m).memRead w a = s.memRead w a := h.memRead fun p hp => hR p ((readsByte_read ..).2 hp)

theorem Over.loadSegRead {r : SegReg} {v v' : BitVec 16} (hv : v' = v) (k : State → Result)
    (hk : ∀ t u, Over ρ W t u → Follows ρ W (k t) (k u)) :
    Follows ρ W (Machine.thenDo (loadSeg r v s) k) (Machine.thenDo (loadSeg r v' (s.withMem m)) k) := by
  subst hv
  exact (follows_loadSeg h r v').thenDo hk

theorem follows_mov {f : MovForm} (hR : ∀ p, ReadsByte (s.movAccesses f) p → W p) :
    Follows ρ (Plus W (s.movAccesses f)) (execMov f s) (execMov f (s.withMem m)) := by
  cases f with
  | rmbRb rm r => exact (h.writeRM .w8 rm (s.readReg .w8 r)).done
  | rmwRw rm r => exact (h.writeRM s.opw rm (s.readReg s.opw r)).done
  | rmbIb rm imm => exact (h.writeRM .w8 rm imm).done
  | rmwIw rm imm => exact (h.writeRM s.opw rm (s.immw imm)).done
  | rbRmb r rm =>
    exact (h.doneRead (h.readRM hR) fun t v => t.writeReg .w8 r v).plus (not_writesByte_rmReads _ _)
  | rwRmw r rm =>
    exact (h.doneRead (h.readRM hR) fun t v => t.writeReg s.opw r v).plus (not_writesByte_rmReads _ _)
  | rmwSreg rm sr =>
    cases rm with
    | reg r =>
      exact (h.map (State.writeReg · s.opw r ((s.sel sr).setWidth s.opsz.bits))).done.plus not_writesByte_nil
    | mem mo => exact h.doneWrite .w16 (s.memAddr mo) (s.sel sr)
  | sregRmw sr rm =>
    exact (h.loadSegRead (h.readRM hR) done fun t u ht => ht.done).plus (not_writesByte_rmReads _ _)
  | alMoffs off =>
    exact (h.doneRead (h.memReadOf (w := .w8) hR) fun t v => t.writeReg .w8 .eax v).plus (not_writesByte_read _ _)
  | axMoffs off =>
    exact (h.doneRead (h.memReadOf (w := s.opw) hR) fun t v => t.writeReg s.opw .eax v).plus (not_writesByte_read _ _)
  | moffsAl off => exact h.doneWrite .w8 (s.moffsAddr off) (s.readReg .w8 .eax)
  | moffsAx off => exact h.doneWrite s.opw (s.moffsAddr off) (s.readReg s.opw .eax)
  | rbIb r imm => exact (h.map (State.writeReg · .w8 r imm)).done.plus not_writesByte_nil
  | rwIw r imm => exact (h.map (State.writeReg · s.opw r (s.immw imm))).done.plus not_writesByte_nil
  | r32Crn r c => exact (h.map (State.writeReg · .w32 r (s.ctl.get c))).done.plus not_writesByte_nil
  | r32Drn r d => exact (h.map (State.writeReg · .w32 r (s.dbg.get d))).done.plus not_writesByte_nil
  | crnR32 c r => exact (h.map fun t => { t with ctl := t.ctl.set c (t.readReg .w32 r) }).done.plus not_writesByte_nil
  | drnR32 d r => exact (h.map fun t => { t with dbg := t.dbg.set d (t.readReg .w32 r) }).done.plus not_writesByte_nil

/-- The register gets what the operand held; the operand was read before it was written. -/
theorem follows_exchange {w : Width} {rm : RM} {r : Reg} (hR : ∀ p, ReadsByte (s.rmModifies w rm) p → W p) :
    Follows ρ (Plus W (s.rmModifies w rm)) (exchange w rm r s) (exchange w rm r (s.withMem m)) := by
  have hout := ((h.writeRM w rm (s.readReg w r)).map (State.writeReg · w r (s.readRM w rm))).done
  exact (hout.plus_left (not_writesByte_rmReads w rm)).of_eq
    (congrArg (fun v => done (((s.withMem m).writeRM w rm (s.readReg w r)).writeReg w r v))
      (h.readRM (reads_left hR)))

theorem follows_xchg {f : XchgForm} (hR : ∀ p, ReadsByte (s.xchgAccesses f) p → W p) :
    Follows ρ (Plus W (s.xchgAccesses f)) (execXchg f s) (execXchg f (s.withMem m)) := by
  cases f with
  | rmbRb rm r => exact follows_exchange h hR
  | rmwRw rm r => exact follows_exchange h hR
  | axRw r => exact follows_exchange h (rm := .reg .eax) hR

theorem Over.farPointer {mo : MemOp} (hR : ∀ p, ReadsByte (s.farPointerReads mo) p → W p) :
    (s.withMem m).farOffset mo = s.farOffset mo ∧ (s.withMem m).farSelector mo = s.farSelector mo :=
  ⟨h.memReadOf (reads_left (l := [_]) hR), h.memReadOf (w := .w16) (reads_right (l := [_]) hR)⟩

omit h in
theorem not_writesByte_farPointerReads (mo : MemOp) : ∀ p, ¬ WritesByte (s.farPointerReads mo) p :=
  not_writesByte_append (l := [_]) (k := [_]) (not_writesByte_read _ _) (not_writesByte_read _ _)

theorem follows_loadFarPointer {sr : SegReg} {r : Reg} {mo : MemOp}
    (hR : ∀ p, ReadsByte (s.farPointerReads mo) p → W p) :
    Follows ρ (Plus W (s.farPointerReads mo)) (loadFarPointer sr r mo s) (loadFarPointer sr r mo (s.withMem m)) := by
  obtain ⟨hoff, hsel⟩ := h.farPointer hR
  have hout := h.loadSegRead (r := sr) hsel (fun t => done (t.writeReg s.opw r (s.farOffset mo)))
    fun t u ht => (ht.map (State.writeReg · s.opw r (s.farOffset mo))).done
  exact (hout.plus (not_writesByte_farPointerReads mo)).of_eq
    (congrArg (fun v => thenDo (loadSeg sr ((s.withMem m).farSelector mo) (s.withMem m))
      fun t => done (t.writeReg s.opw r v)) hoff)

theorem follows_movzx {f : ExtendForm} (hR : ∀ p, ReadsByte (s.extendReads f) p → W p) :
    Follows ρ (Plus W (s.extendReads f)) (execMovzx f s) (execMovzx f (s.withMem m)) := by
  cases f with
  | rmb r rm =>
    exact (h.doneRead (h.readRM hR) fun t v => t.writeReg s.opw r (BitVec.setWidth s.opsz.bits v)).plus
      (not_writesByte_rmReads _ _)
  | rmw16 r rm =>
    exact (h.doneRead (h.readRM hR) fun t v => t.writeReg s.opw r (BitVec.setWidth s.opsz.bits v)).plus
      (not_writesByte_rmReads _ _)

theorem follows_movsx {f : ExtendForm} (hR : ∀ p, ReadsByte (s.extendReads f) p → W p) :
    Follows ρ (Plus W (s.extendReads f)) (execMovsx f s) (execMovsx f (s.withMem m)) := by
  cases f with
  | rmb r rm =>
    exact (h.doneRead (h.readRM hR) fun t v => t.writeReg s.opw r (BitVec.signExtend s.opsz.bits v)).plus
      (not_writesByte_rmReads _ _)
  | rmw16 r rm =>
    exact (h.doneRead (h.readRM hR) fun t v => t.writeReg s.opw r (BitVec.signExtend s.opsz.bits v)).plus
      (not_writesByte_rmReads _ _)

theorem follows_cbw : Follows ρ W (execCbw s) (execCbw (s.withMem m)) := by
  unfold execCbw
  rw [show (s.withMem m).opsz = s.opsz from rfl]
  cases s.opsz with
  | s16 => exact (h.map fun t => t.writeReg .w16 .eax ((t.readReg .w8 .eax).signExtend 16)).done
  | s32 => exact (h.map fun t => t.writeReg .w32 .eax ((t.readReg .w16 .eax).signExtend 32)).done

theorem follows_xlat (hR : ∀ p, ReadsByte (s.accesses .xlat) p → W p) :
    Follows ρ (Plus W (s.accesses .xlat)) (execXlat s) (execXlat (s.withMem m)) :=
  (h.doneRead (h.memReadOf (w := .w8) hR) fun t v => t.writeReg .w8 .eax v).plus (not_writesByte_read _ _)

end

end Sys2Proof.Machine
end

section
/-! The stack, the control transfers and the deliveries over two memories. -/

namespace Sys2Proof.Machine

/-! ### Pushes (R201) -/

/-- After `k` pushes from `s`, in both runs. -/
structure PushOver (ρ : Option StepResult) (W : ℕ → Prop) (s : State) (z : Size) (k : ℕ) (t u : State) : Prop where
  ptr : t.stackPtr = s.spDown (k * z.bytes)
  ssB : t.ssB = s.ssB
  seg : t.seg = s.seg
  rel : Over ρ (Plus W (s.pushes z k)) t u

section
variable {ρ : Option StepResult} {W : ℕ → Prop} {s t u : State} {z : Size} {k : ℕ}

theorem pushes_succ (s : State) (z : Size) (k : ℕ) :
    s.pushes z (k + 1) = s.pushes z k ++ [.write (s.pushedAt z (k + 1)) z.bytes] := by
  unfold State.pushes
  rw [List.range_succ, List.map_append]
  rfl

/-- A push moves the stack pointer and writes there. -/
theorem push_eq (x : State) (z : Size) (v : BitVec z.bits) : x.push z v =
    (x.setStackPtr (x.stackPtr - BitVec.ofNat 32 z.bytes)).memWrite z.width (x.pushedAt z 1) v := by
  have haddr : (x.setStackPtr (x.stackPtr - BitVec.ofNat 32 z.bytes)).stackPtr = x.spDown (1 * z.bytes) := by
    rw [stackPtr_setStackPtr, Nat.one_mul]
    rfl
  rw [State.pushedAt, ← haddr]
  rfl

theorem Over.push (h : Over ρ W t u) (z : Size) (v : BitVec z.bits) :
    Over ρ (fun p => W p ∨ InSpan (t.pushedAt z 1) z.bytes p) (t.push z v) (u.push z v) := by
  obtain ⟨m, rfl⟩ : ∃ m, u = t.withMem m := ⟨_, h.eq⟩
  rw [push_eq, push_eq]
  exact (h.map fun x => x.setStackPtr (x.stackPtr - BitVec.ofNat 32 z.bytes)).memWrite z.width (t.pushedAt z 1) v

theorem pushOver_zero (h : Over ρ W s u) (z : Size) : PushOver ρ W s z 0 s u where
  ptr := by rw [Nat.zero_mul, spDown_zero]
  ssB := rfl
  seg := rfl
  rel := h.mono fun _ hp => hp.resolve_right (not_writesByte_nil _)

theorem PushOver.push (h : PushOver ρ W s z k t u) (v : BitVec z.bits) :
    PushOver ρ W s z (k + 1) (t.push z v) (u.push z v) where
  ptr := by rw [stackPtr_push, spDown_of_down h.ssB _ h.ptr, Nat.succ_mul]
  ssB := h.ssB
  seg := h.seg
  rel := by
    have haddr : t.pushedAt z 1 = s.pushedAt z (k + 1) := by
      rw [State.pushedAt, lin_congr h.seg, spDown_of_down h.ssB _ h.ptr, Nat.one_mul, ← Nat.succ_mul]
      rfl
    refine (h.rel.push z v).mono fun p hp => ?_
    rw [haddr]
    rcases hp with hp | hp
    · exact .inl (.inl hp)
    · rw [pushes_succ, writesByte_append, writesByte_write] at hp
      exact hp.imp_left .inr

/-- An operation between two pushes that does not look at the memory and keeps the stack pointer. -/
theorem PushOver.map (h : PushOver ρ W s z k t u) (f : State → State) (hp : (f t).stackPtr = t.stackPtr)
    (hb : (f t).ssB = t.ssB) (hs : (f t).seg = t.seg) (ho : Over ρ (Plus W (s.pushes z k)) (f t) (f u)) :
    PushOver ρ W s z k (f t) (f u) :=
  ⟨hp.trans h.ptr, hb.trans h.ssB, hs.trans h.seg, ho⟩

end

section
variable {ρ : Option StepResult} {W : ℕ → Prop} {s : State} {m : Memory} (h : Over ρ W s (s.withMem m))
include h

/-- One push that retires. -/
theorem Over.donePush (z : Size) {v v' : BitVec z.bits} (hv : v' = v) :
    Follows ρ (Plus W (s.pushes z 1)) (Machine.done (s.push z v)) (Machine.done ((s.withMem m).push z v')) := by
  subst hv
  exact ((pushOver_zero h z).push v').rel.done

theorem follows_push {f : PushForm} (hR : ∀ p, ReadsByte (s.pushAccesses f) p → W p) :
    Follows ρ (Plus W (s.pushAccesses f)) (execPush f s) (execPush f (s.withMem m)) := by
  cases f with
  | sreg sr => exact h.donePush s.opsz (v := (s.sel sr).setWidth s.opsz.bits) rfl
  | rw r => exact h.donePush s.opsz (v := s.readReg s.opw r) rfl
  | iw imm => exact h.donePush s.opsz (v := s.immw imm) rfl
  | ib imm => exact h.donePush s.opsz (v := s.immSext imm) rfl
  | rmw rm =>
    exact (h.donePush s.opsz (h.readRM (w := s.opw) (reads_left hR))).plus_left (not_writesByte_rmReads _ _)

theorem follows_pusha : Follows ρ (Plus W (s.pushes s.opsz 8)) (execPusha s) (execPusha (s.withMem m)) := by
  have hpush := (((((((((pushOver_zero h s.opsz).push (s.readReg s.opw .eax)).push (s.readReg s.opw .ecx)).push
    (s.readReg s.opw .edx)).push (s.readReg s.opw .ebx)).push (s.readReg s.opw .esp)).push
    (s.readReg s.opw .ebp)).push (s.readReg s.opw .esi)).push (s.readReg s.opw .edi))
  exact hpush.rel.done

theorem follows_nearCall (t : BitVec 32) :
    Follows ρ (Plus W (s.pushes s.opsz 1)) (nearCall t s) (nearCall t (s.withMem m)) :=
  (((pushOver_zero h s.opsz).push (s.nextEip.setWidth s.opsz.bits)).rel.map (State.jumpTo · t)).next

omit h in
theorem follows_farTransfer {t u : State} (h : Over ρ W t u) (sel : BitVec 16) (off : BitVec 32) :
    Follows ρ W (farTransfer sel off t) (farTransfer sel off u) :=
  (follows_loadSeg h .cs sel).thenDo fun _ _ hover => (hover.map (State.jumpTo · off)).next

theorem follows_farCall (sel : BitVec 16) (off : BitVec 32) :
    Follows ρ (Plus W (s.pushes s.opsz 2)) (farCall sel off s) (farCall sel off (s.withMem m)) :=
  follows_farTransfer (((pushOver_zero h s.opsz).push ((s.sel .cs).setWidth s.opsz.bits)).push
    (s.nextEip.setWidth s.opsz.bits)).rel sel off

theorem follows_call {f : CallForm} (hR : ∀ p, ReadsByte (s.callAccesses f) p → W p) :
    Follows ρ (Plus W (s.callAccesses f)) (execCall f s) (execCall f (s.withMem m)) := by
  cases f with
  | jw rel => exact follows_nearCall h (s.nearTarget rel)
  | pw off sel => exact follows_farCall h sel ((s.immw off).setWidth 32)
  | rmw rm =>
    have hread := h.readRM (w := s.opw) (reads_left hR)
    exact ((follows_nearCall h ((s.readRM s.opw rm).setWidth 32)).plus_left (not_writesByte_rmReads _ _)).of_eq
      (congrArg (fun v : BitVec s.opw.bits => nearCall (v.setWidth 32) (s.withMem m)) hread)
  | mp mo =>
    obtain ⟨hoff, hsel⟩ := h.farPointer (reads_left hR)
    have hcall := follows_farCall h (s.farSelector mo) ((s.farOffset mo).setWidth 32)
    exact (hcall.plus_left (not_writesByte_farPointerReads mo)).of_eq
      (congrArg₂ (fun (sel : BitVec 16) (off : BitVec s.opw.bits) => farCall sel (off.setWidth 32) (s.withMem m))
        hsel hoff)

theorem follows_jmp {f : JmpForm} (hR : ∀ p, ReadsByte (s.jmpReads f) p → W p) :
    Follows ρ (Plus W (s.jmpReads f)) (execJmp f s) (execJmp f (s.withMem m)) := by
  cases f with
  | jb rel => exact (h.map fun t => t.jumpTo (t.nearTarget (rel.signExtend 32))).next.plus not_writesByte_nil
  | jw rel => exact (h.map fun t => t.jumpTo (t.nearTarget rel)).next.plus not_writesByte_nil
  | pw off sel => exact (follows_farTransfer h sel ((s.immw off).setWidth 32)).plus not_writesByte_nil
  | rmw rm =>
    have hjump := (h.map (State.jumpTo · ((s.readRM s.opw rm).setWidth 32))).next
    exact (hjump.plus (not_writesByte_rmReads _ _)).of_eq
      (congrArg (fun v : BitVec s.opw.bits => Host.Outcome.next ((s.withMem m).jumpTo (v.setWidth 32))) (h.readRM hR))
  | mp mo =>
    obtain ⟨hoff, hsel⟩ := h.farPointer hR
    have hjump := follows_farTransfer h (s.farSelector mo) ((s.farOffset mo).setWidth 32)
    exact (hjump.plus (not_writesByte_farPointerReads mo)).of_eq
      (congrArg₂ (fun (sel : BitVec 16) (off : BitVec s.opw.bits) => farTransfer sel (off.setWidth 32) (s.withMem m))
        hsel hoff)

end

/-! ### Deliveries (R671, R676) -/

section
variable {ρ : Option StepResult} {W : ℕ → Prop} {s : State} {m : Memory} (h : Over ρ W s (s.withMem m))
include h

theorem pushOver_pushFrame (ip : BitVec 32) :
    PushOver ρ W s .s16 3 (s.pushFrame ip) ((s.withMem m).pushFrame ip) := by
  have hflags := (pushOver_zero h .s16).push (s.flagsWord .s16)
  have hmask := hflags.map (fun t => { t with flags := t.flags.masked }) rfl rfl rfl
    (hflags.rel.map fun t => { t with flags := t.flags.masked })
  exact (hmask.push (s.sel .cs)).push (ip.setWidth 16)

theorem follows_deliver {v : BitVec 8} (ip : BitVec 32) (hR : ∀ p, ReadsByte (s.deliveryAccesses v) p → W p) :
    Follows ρ (Plus W (s.deliveryAccesses v)) (deliver v ip s) (deliver v ip (s.withMem m)) := by
  have hframe := (pushOver_pushFrame h ip).rel
  have hreads := reads_right hR
  have hoff := hframe.memRead (w := .w16) (a := vectorAddr v) fun p hp =>
    .inl (reads_left (l := [_]) hreads p ((readsByte_read ..).2 hp))
  have hsel := hframe.memRead (w := .w16) (a := vectorAddr v + 2) fun p hp =>
    .inl (reads_right (l := [_]) hreads p ((readsByte_read ..).2 hp))
  refine Follows.ite (fun _ t ht => nomatch ht) fun _ => ?_
  have hload := (follows_loadSeg hframe .cs ((s.pushFrame ip).memRead .w16 (vectorAddr v + 2))).thenDo
    fun t u hover => (hover.map (State.jumpTo · (((s.pushFrame ip).memRead .w16 (vectorAddr v)).setWidth 32))).next
  refine (hload.of_eq (congrArg₂ (fun (sel off : BitVec 16) =>
    thenDo (loadSeg .cs sel ((s.withMem m).pushFrame ip)) fun t => .next (t.jumpTo (off.setWidth 32)))
    hsel hoff)).mono fun p hp => hp.imp_right fun hw => ?_
  exact ((writesByte_append ..).1 hw).resolve_right (not_writesByte_append (l := [_]) (k := [_])
    (not_writesByte_read _ _) (not_writesByte_read _ _) p)

theorem follows_raiseVector {v : BitVec 8} (ip : BitVec 32) (hR : ∀ p, ReadsByte (s.deliveryAccesses v) p → W p) :
    Follows (some (.delivered v)) (Plus W (s.deliveryAccesses v)) (raiseVector v ip s)
      (raiseVector v ip (s.withMem m)) :=
  (follows_deliver h ip hR).thenDo fun _ _ hover => Over.next
    ⟨congrArg (fun t : State => { t with result := some (.delivered v) }) hover.eq, rfl, hover.bytes⟩

end

theorem result_raiseVector {v : BitVec 8} {ip : BitVec 32} {s t : State} (h : raiseVector v ip s = .next t) :
    t.result = some (.delivered v) := by
  rw [raiseVector_eq] at h
  cases hd : deliver v ip s with
  | next u =>
    rw [hd] at h
    cases h
    rfl
  | fault r =>
    rw [hd] at h
    cases h
  | refused r =>
    rw [hd] at h
    cases h

/-! ### Pops (R202) -/

theorem not_writesByte_pops (s : State) (z : Size) (n p : ℕ) : ¬ WritesByte (s.pops z n) p := by
  simp [WritesByte, State.pops]

theorem reads_pops {W : ℕ → Prop} {s : State} {z : Size} {n : ℕ} (hR : ∀ p, ReadsByte (s.pops z n) p → W p) {k : ℕ}
    (hk : k < n) : ∀ p, InSpan (s.slot z k) z.bytes p → W p :=
  fun p hp => hR p ⟨_, _, List.mem_map.2 ⟨k, List.mem_range.2 hk, rfl⟩, hp⟩

/-- After `k` pops from `s`, in both runs. -/
structure PopOver (ρ : Option StepResult) (W : ℕ → Prop) (s : State) (z : Size) (k : ℕ) (t u : State) : Prop where
  slot : ∀ i, t.slot z i = s.slot z (k + i)
  rel : Over ρ W t u

section
variable {ρ : Option StepResult} {W : ℕ → Prop} {s t u : State} {z : Size} {k : ℕ}

theorem popOver_zero (h : Over ρ W s u) (z : Size) : PopOver ρ W s z 0 s u where
  slot i := by rw [Nat.zero_add]
  rel := h

theorem PopOver.popped (h : PopOver ρ W s z k t u) : PopOver ρ W s z (k + 1) (t.popped z) (u.popped z) where
  slot i := by rw [slot_popped, h.slot, Nat.add_right_comm, Nat.add_assoc]
  rel := h.rel.map (State.popped · z)

theorem PopOver.popValue (h : PopOver ρ W s z k t u) (hW : ∀ p, InSpan (s.slot z k) z.bytes p → W p) :
    u.popValue z = t.popValue z := by
  have hslot : u.slot z 0 = t.slot z 0 := (congrArg (State.slot · z 0) h.rel.eq).trans (by rfl)
  rw [popValue_eq, popValue_eq, hslot]
  refine h.rel.memRead ?_
  rw [h.slot, Nat.add_zero]
  exact hW

theorem PopOver.popReg (h : PopOver ρ W s z k t u) {r : Reg} (hr : r ≠ .esp)
    (hW : ∀ p, InSpan (s.slot z k) z.bytes p → W p) : PopOver ρ W s z (k + 1) (t.popReg z r) (u.popReg z r) where
  slot i := by rw [slot_popReg _ _ hr, h.slot, Nat.add_right_comm, Nat.add_assoc]
  rel := by
    rw [State.popReg, State.popReg, h.popValue hW]
    exact h.popped.rel.map (State.writeReg · z.width r (t.popValue z))

end

section
variable {ρ : Option StepResult} {W : ℕ → Prop} {s : State} {m : Memory} (h : Over ρ W s (s.withMem m))
include h

theorem follows_pop {f : PopForm} (hR : ∀ p, ReadsByte (s.popAccesses f) p → W p) :
    Follows ρ (Plus W (s.popAccesses f)) (execPop f s) (execPop f (s.withMem m)) := by
  have hstart := popOver_zero h s.opsz
  have hpopped := hstart.popped.rel
  cases f with
  | sreg sr =>
    have hv := hstart.popValue (reads_pops hR Nat.one_pos)
    have hload := (follows_loadSeg hpopped sr ((s.popValue s.opsz).setWidth 16)).thenDo fun t u hover => hover.done
    exact (hload.plus (not_writesByte_pops s s.opsz 1)).of_eq (congrArg (fun v : BitVec s.opsz.bits =>
      thenDo (loadSeg sr (v.setWidth 16) ((s.withMem m).popped s.opsz)) done) hv)
  | rw r =>
    have hv := hstart.popValue (reads_pops hR Nat.one_pos)
    have hwrite := (hpopped.map (State.writeReg · s.opw r (s.popValue s.opsz))).done
    exact (hwrite.plus (not_writesByte_pops s s.opsz 1)).of_eq (congrArg (fun v : BitVec s.opsz.bits =>
      done (((s.withMem m).popped s.opsz).writeReg s.opw r v)) hv)
  | rmw rm =>
    have hv := hstart.popValue (reads_pops (reads_left hR) Nat.one_pos)
    have hwrite := (hpopped.writeRM s.opw rm (s.popValue s.opsz)).done
    exact (hwrite.plus_left (not_writesByte_pops s s.opsz 1)).of_eq (congrArg (fun v : BitVec s.opsz.bits =>
      done (((s.withMem m).popped s.opsz).writeRM s.opw rm v)) hv)

theorem follows_popa (hR : ∀ p, ReadsByte (s.pops s.opsz 8) p → W p) :
    Follows ρ (Plus W (s.pops s.opsz 8)) (execPopa s) (execPopa (s.withMem m)) := by
  have slot {k : ℕ} (hk : k < 8) := reads_pops hR hk
  have hindex := (((popOver_zero h s.opsz).popReg (r := .edi) (by decide) (slot (by decide))).popReg (r := .esi)
    (by decide) (slot (by decide))).popReg (r := .ebp) (by decide) (slot (by decide))
  have hrest := (((hindex.popped.popReg (r := .ebx) (by decide) (slot (by decide))).popReg (r := .edx)
    (by decide) (slot (by decide))).popReg (r := .ecx) (by decide) (slot (by decide))).popReg (r := .eax)
    (by decide) (slot (by decide))
  exact hrest.rel.done.plus (not_writesByte_pops s s.opsz 8)

theorem follows_popf (hR : ∀ p, ReadsByte (s.pops s.opsz 1) p → W p) :
    Follows ρ (Plus W (s.pops s.opsz 1)) (execPopf s) (execPopf (s.withMem m)) := by
  have hv := (popOver_zero h s.opsz).popValue (reads_pops hR Nat.one_pos)
  exact (h.doneRead hv fun t v => { t.popped s.opsz with flags := .ofImage v }).plus (not_writesByte_pops s s.opsz 1)

theorem follows_leave (hR : ∀ p, ReadsByte s.leaveReads p → W p) :
    Follows ρ (Plus W s.leaveReads) (execLeave s) (execLeave (s.withMem m)) := by
  have hslot : (s.setStackPtr (s.readIndex s.stksz .ebp)).slot s.opsz 0 = s.lin .ss (s.readIndex s.stksz .ebp) := by
    rw [State.slot, Nat.zero_mul, spUp_zero, stackPtr_setStackPtr, wrapSP_readIndex]
    rfl
  have hframe := popOver_zero (h.map fun t => t.setStackPtr (t.readIndex t.stksz .ebp)) s.opsz
  have hpop := hframe.popReg (r := .ebp) (by decide) (hslot ▸ fun p hp => hR p ((readsByte_read ..).2 hp))
  exact hpop.rel.done.plus (not_writesByte_read _ _)

theorem follows_ret {f : RetForm} (hR : ∀ p, ReadsByte (s.pops s.opsz 1) p → W p) :
    Follows ρ (Plus W (s.pops s.opsz 1)) (execRet f s) (execRet f (s.withMem m)) := by
  have hstart := popOver_zero h s.opsz
  have hv := hstart.popValue (reads_pops hR Nat.one_pos)
  have hjump := (hstart.popped.rel.map fun t =>
    (t.release (releaseCount f)).jumpTo ((s.popValue s.opsz).setWidth 32)).next
  exact (hjump.plus (not_writesByte_pops s s.opsz 1)).of_eq (congrArg (fun v : BitVec s.opsz.bits =>
    Host.Outcome.next ((((s.withMem m).popped s.opsz).release (releaseCount f)).jumpTo (v.setWidth 32))) hv)

theorem follows_retf {f : RetForm} (hR : ∀ p, ReadsByte (s.pops s.opsz 2) p → W p) :
    Follows ρ (Plus W (s.pops s.opsz 2)) (execRetf f s) (execRetf f (s.withMem m)) := by
  have hstart := popOver_zero h s.opsz
  have hoff := hstart.popValue (reads_pops hR (by decide))
  have hsel := hstart.popped.popValue (reads_pops hR (by decide))
  have hload := (follows_loadSeg hstart.popped.popped.rel .cs (((s.popped s.opsz).popValue s.opsz).setWidth 16)).thenDo
    fun t u hover => (hover.map fun t =>
      (t.release (releaseCount f)).jumpTo ((s.popValue s.opsz).setWidth 32)).next
  exact (hload.plus (not_writesByte_pops s s.opsz 2)).of_eq (congrArg₂ (fun sel off : BitVec s.opsz.bits =>
    thenDo (loadSeg .cs (sel.setWidth 16) (((s.withMem m).popped s.opsz).popped s.opsz)) fun t =>
      .next ((t.release (releaseCount f)).jumpTo (off.setWidth 32))) hsel hoff)

theorem follows_iret (hR : ∀ p, ReadsByte (s.pops s.opsz 3) p → W p) :
    Follows ρ (Plus W (s.pops s.opsz 3)) (execIret s) (execIret (s.withMem m)) := by
  have hstart := popOver_zero h s.opsz
  have hoff := hstart.popValue (reads_pops hR (by decide))
  have hsel := hstart.popped.popValue (reads_pops hR (by decide))
  have hflags := hstart.popped.popped.popValue (reads_pops hR (by decide))
  have hload := (follows_loadSeg hstart.popped.popped.popped.rel .cs
    (((s.popped s.opsz).popValue s.opsz).setWidth 16)).thenDo fun t u hover =>
      (hover.map fun t => { t.jumpTo ((s.popValue s.opsz).setWidth 32) with
        flags := .ofImage (((s.popped s.opsz).popped s.opsz).popValue s.opsz) }).next
  refine (hload.plus (not_writesByte_pops s s.opsz 3)).of_eq ?_
  rw [← hoff, ← hsel, ← hflags]
  rfl

end

end Sys2Proof.Machine
end

section
/-! ENTER, the string instructions and the branches over two memories. -/

namespace Sys2Proof.Machine

/-! ### ENTER (R444) -/

/-- The bytes of `W` and those of the first `n` pushes of ENTER. -/
def PlusPushed (W : ℕ → Prop) (s : State) (z : Size) (n p : ℕ) : Prop :=
  W p ∨ ∃ i, 1 ≤ i ∧ i ≤ n ∧ InSpan (s.pushedAt z i) z.bytes p

section
variable {ρ : Option StepResult} {W : ℕ → Prop} {s t u : State} {z : Size} {k n : ℕ} {m : Memory}

theorem plusPushed_succ {p : ℕ} (hp : PlusPushed W s z (n + 1) p) :
    PlusPushed W s z n p ∨ InSpan (s.pushedAt z (n + 1)) z.bytes p := by
  rcases hp with hp | ⟨i, h1, hi, hp⟩
  · exact .inl (.inl hp)
  · rcases Nat.lt_or_ge n i with hlt | hle
    · exact .inr (Nat.le_antisymm hi hlt ▸ hp)
    · exact .inl (.inr ⟨i, h1, hle, hp⟩)

theorem Over.enterCopy (h : Over ρ W t u) (hW : ∀ p, InSpan (t.lin .ss (t.framePtr z 1)) z.bytes p → W p) :
    Over ρ (fun p => W p ∨ InSpan (t.pushedAt z 1) z.bytes p) (t.enterCopy z) (u.enterCopy z) := by
  obtain ⟨m, rfl⟩ : ∃ m, u = t.withMem m := ⟨_, h.eq⟩
  have hread : (t.withMem m).memRead z.width (t.lin .ss (t.framePtr z 1)) =
      t.memRead z.width (t.lin .ss (t.framePtr z 1)) := h.memRead hW
  have hmoved := h.map fun x => x.writeIndex x.stksz .ebp (x.readIndex x.stksz .ebp - BitVec.ofNat 32 z.bytes)
  have hptr (v : BitVec 32) : (t.writeIndex t.stksz .ebp v).pushedAt z 1 = t.pushedAt z 1 :=
    congrArg (fun a => t.lin .ss (t.wrapSP (a - BitVec.ofNat 32 (1 * z.bytes))))
      (readIndex_writeIndex_of_ne t t.stksz t.stksz v (by decide))
  have hpush := hmoved.push z (t.memRead z.width (t.lin .ss (t.framePtr z 1)))
  rw [hptr] at hpush
  rw [State.enterCopy, State.enterCopy]
  exact hread ▸ hpush

/-- The first push and `k` copies, in both runs. -/
theorem Over.enterCopies (h : Over ρ W s (s.withMem m)) (hk : k < 64)
    (hW : ∀ j, j < k → ∀ p, InSpan (s.lin .ss (s.framePtr z (j + 1))) z.bytes p → W p) :
    Over ρ (PlusPushed W s z (k + 1)) (s.enterCopies z k) ((s.withMem m).enterCopies z k) := by
  induction k with
  | zero =>
    exact (h.push z (s.readReg z.width .ebp)).mono fun p hp =>
      (plusPushed_succ hp).imp_left fun hp => hp.resolve_right fun ⟨i, h1, hi, _⟩ => by omega
  | succ k ih =>
    obtain ⟨hf, hp⟩ := enterCopies_spec s z (k := k) (by omega)
    refine ((ih (by omega) fun j hj => hW j (by omega)).enterCopy fun p hin => .inl (hW k (by omega) p ?_)).mono
      fun p hp => ?_
    · rwa [hf.framePtr_one hp, hf.lin_eq] at hin
    · rw [hf.pushedAt_one]
      exact plusPushed_succ hp

theorem Over.enterPushes (h : Over ρ W s (s.withMem m)) (hk : k < 64)
    (hW : ∀ j, j < k - 1 → ∀ p, InSpan (s.lin .ss (s.framePtr z (j + 1))) z.bytes p → W p) :
    Over ρ (PlusPushed W s z (k + 1)) (s.enterPushes z k) ((s.withMem m).enterPushes z k) := by
  cases k with
  | zero => exact h.enterCopies hk fun j hj => by omega
  | succ k =>
    obtain ⟨hf, -⟩ := enterCopies_spec s z (k := k) (by omega)
    refine ((h.enterCopies (k := k) (by omega) hW).push z (s.newFrame z)).mono fun p hp => ?_
    rw [hf.pushedAt_one]
    exact plusPushed_succ hp

theorem reads_enter {imm : BitVec 8} {j : ℕ} (hj : j < imm.toNat % 32 - 1) {p : ℕ}
    (hp : InSpan (s.lin .ss (s.framePtr s.opsz (j + 1))) s.opsz.bytes p) : ReadsByte (s.enterAccesses imm) p := by
  refine ⟨_, _, ?_, hp⟩
  refine List.mem_append_left _ (List.mem_cons_of_mem _ (List.mem_flatMap.2 ⟨j, List.mem_range.2 hj, ?_⟩))
  exact List.mem_cons_self

theorem writes_enter {imm : BitVec 8} {p : ℕ} (hp : WritesByte (s.enterAccesses imm) p) :
    ∃ i, 1 ≤ i ∧ i ≤ imm.toNat % 32 + 1 ∧ InSpan (s.pushedAt s.opsz i) s.opsz.bytes p := by
  obtain ⟨a, n, hmem, hp⟩ := hp
  unfold State.enterAccesses at hmem
  rw [List.cons_append, List.mem_cons, List.mem_append, List.mem_flatMap] at hmem
  rcases hmem with hfirst | ⟨j, hj, hcopy⟩ | hlast
  · cases hfirst
    exact ⟨1, le_rfl, Nat.succ_le_succ (Nat.zero_le _), hp⟩
  · rcases List.mem_cons.1 hcopy with hread | hwrite
    · cases hread
    · cases List.mem_singleton.1 hwrite
      exact ⟨j + 2, by omega, by have := List.mem_range.1 hj; omega, hp⟩
  · split at hlast
    · cases hlast
    · cases List.mem_singleton.1 hlast
      exact ⟨_, Nat.succ_le_succ (Nat.zero_le _), le_rfl, hp⟩

theorem Over.reserve (h : Over ρ W t u) (size : BitVec 16) :
    Over ρ W (t.setStackPtr (t.stackPtr - size.setWidth 32)) (u.setStackPtr (u.stackPtr - size.setWidth 32)) :=
  h.map fun x => x.setStackPtr (x.stackPtr - size.setWidth 32)

theorem Over.enterEnd (h : Over ρ W t u) (frame : BitVec z.bits) (size : BitVec 16) :
    Over ρ W (t.enterEnd z frame size) (u.enterEnd z frame size) :=
  (h.map (State.writeReg · z.width .ebp frame)).reserve size

theorem follows_enter (h : Over ρ W s (s.withMem m)) {size : BitVec 16} {imm : BitVec 8}
    (hR : ∀ p, ReadsByte (s.enterAccesses imm) p → W p) :
    Follows ρ (Plus W (s.enterAccesses imm)) (exec (.enter size imm) s) (exec (.enter size imm) (s.withMem m)) := by
  have hpushes := h.enterPushes (z := s.opsz) (k := imm.toNat % 32)
    ((Nat.mod_lt _ (by decide)).trans (by decide)) fun j hj p hp => hR p (reads_enter hj hp)
  rw [exec_enter rfl, exec_enter (s := s.withMem m) (z := s.opsz) rfl,
    show (s.withMem m).newFrame s.opsz = s.newFrame s.opsz from rfl]
  exact (hpushes.enterEnd (s.newFrame s.opsz) size).done.mono fun p hp => hp.imp_right writes_enter

end

/-! ### Strings (R470 to R482) -/

section
variable {ρ : Option StepResult} {W : ℕ → Prop} {s t u : State} (h : Over ρ W t u)
include h

theorem Over.setFlags (f : Flags) : Over ρ W { t with flags := f } { u with flags := f } :=
  h.map fun x => { x with flags := f }

theorem Over.advance (w : Width) (r : Reg) : Over ρ W (t.advance w r) (u.advance w r) :=
  h.map (State.advance · w r)

end

section
variable {ρ : Option StepResult} {W : ℕ → Prop} {s : State} {m : Memory} (h : Over ρ W s (s.withMem m))
include h

/-- The repeat wrapper looks at the registers, the flags and the repeat mode only. -/
theorem follows_stringStep {prim : State → State} {compares : Bool} {l : List BusAccess}
    (hprim : (∀ p, ReadsByte l p → W p) → Over ρ (Plus W l) (prim s) (prim (s.withMem m)))
    (hR : ∀ p, ReadsByte (s.elementAccesses l) p → W p) :
    Follows ρ (Plus W (s.elementAccesses l)) (stringStep prim compares s)
      (stringStep prim compares (s.withMem m)) := by
  unfold State.elementAccesses at hR ⊢
  by_cases hrep : s.pfx.rep = .none
  · have hl : ¬ (s.pfx.rep ≠ .none ∧ s.count = 0) := fun ⟨hne, _⟩ => hne hrep
    rw [if_neg hl] at hR ⊢
    rw [stringStep_once hrep, stringStep_once (s := s.withMem m) hrep]
    exact (hprim hR).done
  · by_cases hc : s.count = 0
    · rw [if_pos ⟨hrep, hc⟩, stringStep_zero hrep hc, stringStep_zero (s := s.withMem m) hrep hc]
      exact h.done.plus not_writesByte_nil
    · have hl : ¬ (s.pfx.rep ≠ .none ∧ s.count = 0) := fun ⟨_, h0⟩ => hc h0
      rw [if_neg hl] at hR ⊢
      have hnext := (hprim hR).map State.countDown
      have hcount : (prim (s.withMem m)).countDown.count = (prim s).countDown.count :=
        (congrArg State.count hnext.eq).trans rfl
      have hflags : (prim (s.withMem m)).countDown.flags = (prim s).countDown.flags :=
        (congrArg State.flags hnext.eq).trans rfl
      rw [stringStep_some hrep hc, stringStep_some (s := s.withMem m) hrep hc]
      dsimp only
      rw [hcount, hflags]
      exact .ite (fun _ => hnext.next) fun _ => hnext.done

theorem Over.srcElement {w : Width} {l : List BusAccess} (hR : ∀ p, ReadsByte (.read s.srcAddr w.bytes :: l) p → W p) :
    (s.withMem m).srcElement w = s.srcElement w := h.memReadOf (reads_left (l := [_]) hR)

theorem Over.dstElement {w : Width} (hR : ∀ p, ReadsByte [.read s.dstAddr w.bytes] p → W p) :
    (s.withMem m).dstElement w = s.dstElement w := h.memReadOf hR

theorem Over.movsPrim {w : Width} (hR : ∀ p, ReadsByte [.read s.srcAddr w.bytes, .write s.dstAddr w.bytes] p → W p) :
    Over ρ (Plus W [.read s.srcAddr w.bytes, .write s.dstAddr w.bytes]) (movsPrim w s)
      (movsPrim w (s.withMem m)) := by
  have hwrite := ((h.memWrite w s.dstAddr (s.srcElement w)).advance w .esi).advance w .edi
  rw [Machine.movsPrim, Machine.movsPrim, h.srcElement hR]
  refine hwrite.mono fun p hp => hp.imp_right fun hw => ?_
  exact (writesByte_write ..).1 (((writesByte_append [_] [_] p).1 hw).resolve_left (not_writesByte_read _ _ p))

theorem Over.cmpsPrim {w : Width} (hR : ∀ p, ReadsByte [.read s.srcAddr w.bytes, .read s.dstAddr w.bytes] p → W p) :
    Over ρ (Plus W [.read s.srcAddr w.bytes, .read s.dstAddr w.bytes]) (cmpsPrim w s) (cmpsPrim w (s.withMem m)) := by
  have hflags := ((h.setFlags (flagsSub s.flags (s.srcElement w) (s.dstElement w) false).2).advance w .esi).advance
    w .edi
  rw [Machine.cmpsPrim, Machine.cmpsPrim, h.srcElement hR, h.dstElement (reads_right (l := [_]) hR)]
  exact hflags.mono fun p hp => hp.resolve_right
    (not_writesByte_append (l := [_]) (k := [_]) (not_writesByte_read _ _) (not_writesByte_read _ _) p)

theorem Over.scasPrim {w : Width} (hR : ∀ p, ReadsByte [.read s.dstAddr w.bytes] p → W p) :
    Over ρ (Plus W [.read s.dstAddr w.bytes]) (scasPrim w s) (scasPrim w (s.withMem m)) := by
  have hflags := (h.setFlags (flagsSub s.flags (s.readReg w .eax) (s.dstElement w) false).2).advance w .edi
  rw [Machine.scasPrim, Machine.scasPrim, h.dstElement hR]
  exact hflags.mono fun p hp => hp.resolve_right (not_writesByte_read _ _ p)

theorem Over.stosPrim (w : Width) :
    Over ρ (Plus W [.write s.dstAddr w.bytes]) (stosPrim w s) (stosPrim w (s.withMem m)) :=
  ((h.memWrite w s.dstAddr (s.readReg w .eax)).advance w .edi).mono fun _ hp =>
    hp.imp_right (writesByte_write ..).1

theorem Over.lodsPrim {w : Width} (hR : ∀ p, ReadsByte [.read s.srcAddr w.bytes] p → W p) :
    Over ρ (Plus W [.read s.srcAddr w.bytes]) (lodsPrim w s) (lodsPrim w (s.withMem m)) := by
  have hload := (h.map (State.writeReg · w .eax (s.srcElement w))).advance w .esi
  rw [Machine.lodsPrim, Machine.lodsPrim, h.srcElement hR]
  exact hload.mono fun p hp => hp.resolve_right (not_writesByte_read _ _ p)

theorem Over.insPrim (w : Width) : Over ρ (Plus W (portReads s.dx w.bytes ++ [.write s.dstAddr w.bytes]))
    (insPrim w s) (insPrim w (s.withMem m)) := by
  obtain ⟨hv, -⟩ := h.portRead w s.dx
  have hports : ((s.withMem m).portRead w s.dx).2.ports = (s.portRead w s.dx).2.ports :=
    (congrArg (fun x : List Byte × State => x.2.ports) (portReadBytes_withMem s m s.dx w.bytes)).trans rfl
  have hwrite := ((h.map fun t => { t with ports := (s.portRead w s.dx).2.ports }).memWrite w s.dstAddr
    (s.portRead w s.dx).1).advance w .edi
  rw [insPrim_eq, insPrim_eq, show (s.withMem m).dx = s.dx from rfl, hv, hports]
  exact hwrite.mono fun p hp => hp.imp_right fun hw => (writesByte_write ..).1
    (((writesByte_append ..).1 hw).resolve_left (not_writesByte_portReads _ _ p))

theorem Over.outsPrim {w : Width} (hR : ∀ p, ReadsByte (.read s.srcAddr w.bytes :: portWrites s.dx w.bytes) p → W p) :
    Over ρ (Plus W (.read s.srcAddr w.bytes :: portWrites s.dx w.bytes)) (outsPrim w s)
      (outsPrim w (s.withMem m)) := by
  have hout := (h.portWrite w s.dx (s.srcElement w)).advance w .esi
  rw [Machine.outsPrim, Machine.outsPrim, h.srcElement hR]
  exact hout.mono fun p hp => hp.resolve_right
    (not_writesByte_append (l := [_]) (not_writesByte_read _ _) (not_writesByte_portWrites _ _) p)

/-- Every string instruction. -/
theorem follows_stringOp (o : StringOp) {f : StringForm} (hR : ∀ p, ReadsByte (s.accesses (o.instr f)) p → W p) :
    Follows ρ (Plus W (s.accesses (o.instr f))) (exec (o.instr f) s) (exec (o.instr f) (s.withMem m)) := by
  rw [exec_stringOp, exec_stringOp]
  cases o with
  | movs => exact follows_stringStep h h.movsPrim hR
  | cmps => exact follows_stringStep h h.cmpsPrim hR
  | scas => exact follows_stringStep h h.scasPrim hR
  | stos => exact follows_stringStep h (fun _ => h.stosPrim _) hR
  | lods => exact follows_stringStep h h.lodsPrim hR
  | ins => exact follows_stringStep h (fun _ => h.insPrim _) hR
  | outs => exact follows_stringStep h h.outsPrim hR

/-! ### Branches (R426 to R431) -/

omit h in
theorem follows_branchIf {t u : State} (h : Over ρ W t u) (c : Bool) (rel : BitVec 32) :
    Follows ρ W (branchIf c rel t) (branchIf c rel u) :=
  .ite (fun _ => (h.map fun x => x.jumpTo (x.nearTarget rel)).next) fun _ => h.done

theorem follows_jcc (cc : Cond) (f : JccForm) : Follows ρ W (jcc cc f s) (jcc cc f (s.withMem m)) := by
  cases f with
  | jb rel => exact follows_branchIf h (s.flags.cond cc) (rel.signExtend 32)
  | jw rel => exact follows_branchIf h (s.flags.cond cc) rel

theorem Over.countDown : Over ρ W s.countDown (s.withMem m).countDown := h.map State.countDown

end

end Sys2Proof.Machine
end

section
/-! The FPU instructions over two memories. -/

namespace Sys2Proof.Machine

theorem InSpan.offset {a : BitVec 32} {k d n p : ℕ} (h : InSpan (a + BitVec.ofNat 32 k) d p) (hle : k + d ≤ n) :
    InSpan a n p := by
  obtain ⟨j, hj, rfl⟩ := h
  exact ⟨k + j, by omega, by rw [BitVec.ofNat_add, BitVec.add_assoc]⟩

theorem Fpu.loadEnv_congr {f : Fpu} {z : Size} {m m' : Memory} {a : BitVec 32}
    (hm : ∀ k < 3, m'.readBytes (a + BitVec.ofNat 32 (k * envStride z)) 2 =
      m.readBytes (a + BitVec.ofNat 32 (k * envStride z)) 2) : f.loadEnv z m' a = f.loadEnv z m a := by
  unfold Fpu.loadEnv
  dsimp only
  rw [hm 0 (by decide), hm 1 (by decide), hm 2 (by decide)]

theorem Fpu.loadRegs_congr {f : Fpu} {z : Size} {m m' : Memory} {a : BitVec 32}
    (hm : ∀ i : StIndex, m'.readBytes (a + BitVec.ofNat 32 (envSize z + 10 * i.toNat)) 10 =
      m.readBytes (a + BitVec.ofNat 32 (envSize z + 10 * i.toNat)) 10) : f.loadRegs z m' a = f.loadRegs z m a :=
  List.foldl_ext _ _ _ fun g i _ => congrArg (fun bs => g.setSt i (f80ToF64 (BitVec.ofNat 80 (leNat bs)))) (hm i)

section
variable {ρ : Option StepResult} {W : ℕ → Prop} {s : State} {m : Memory} (h : Over ρ W s (s.withMem m))
include h

/-! ### The operands (R530, R540) -/

theorem Over.memF32 {mo : MemOp} (hR : ∀ p, ReadsByte [.read (s.memAddr mo) 4] p → W p) :
    (s.withMem m).memF32 mo = s.memF32 mo := congrArg f32ToF64 (h.memReadOf (w := .w32) hR)

theorem Over.memInt {w : Width} {mo : MemOp} (hR : ∀ p, ReadsByte [.read (s.memAddr mo) w.bytes] p → W p) :
    (s.withMem m).memInt w mo = s.memInt w mo := congrArg BitVec.toInt (h.memReadOf hR)

theorem Over.readSpan {a : BitVec 32} {n : ℕ} (hR : ∀ p, ReadsByte (spanReads a n) p → W p) :
    (s.withMem m).memReadSpan n a = s.memReadSpan n a :=
  h.memReadSpan fun p hp => hR p ((readsByte_spanReads ..).2 hp)

theorem Over.mem64 {mo : MemOp} (hR : ∀ p, ReadsByte (spanReads (s.memAddr mo) 8) p → W p) :
    (s.withMem m).mem64 mo = s.mem64 mo := congrArg (BitVec.ofNat 64) (h.readSpan hR)

theorem Over.farithArgs {f : FArithForm} (hR : ∀ p, ReadsByte (s.farithReads f) p → W p) :
    (s.withMem m).farithArgs f = s.farithArgs f := by
  cases f with
  | mf32 mo => exact congrArg (Prod.mk 0) (h.memF32 hR)
  | mf64 mo => exact congrArg (Prod.mk 0) (h.mem64 hR)
  | st0St i | stSt0 i => rfl

theorem Over.fintArg {f : FIntForm} (hR : ∀ p, ReadsByte (s.fintReads f) p → W p) :
    (s.withMem m).fintArg f = s.fintArg f := by
  cases f with
  | m32 mo => exact congrArg intToF64 (h.memInt (w := .w32) hR)
  | m16 mo => exact congrArg intToF64 (h.memInt (w := .w16) hR)

theorem Over.fcomArg {f : FComForm} (hR : ∀ p, ReadsByte (s.fcomReads f) p → W p) :
    (s.withMem m).fcomArg f = s.fcomArg f := by
  cases f with
  | mf32 mo => exact h.memF32 hR
  | mf64 mo => exact h.mem64 hR
  | st i => rfl

omit h in
theorem not_writesByte_farithReads (f : FArithForm) (p : ℕ) : ¬ WritesByte (s.farithReads f) p := by
  cases f with
  | mf32 mo => exact not_writesByte_read _ _ p
  | mf64 mo => exact writesByte_spanReads _ _ p
  | st0St i | stSt0 i => exact not_writesByte_nil p

omit h in
theorem not_writesByte_fintReads (f : FIntForm) (p : ℕ) : ¬ WritesByte (s.fintReads f) p := by
  cases f <;> exact not_writesByte_read _ _ p

omit h in
theorem not_writesByte_fcomReads (f : FComForm) (p : ℕ) : ¬ WritesByte (s.fcomReads f) p := by
  cases f with
  | mf32 mo => exact not_writesByte_read _ _ p
  | mf64 mo => exact writesByte_spanReads _ _ p
  | st i => exact not_writesByte_nil p

/-! ### The ends of an FPU instruction -/

theorem Over.fpuDone (g : Fpu) : Follows ρ W (Machine.fpuDone s g) (Machine.fpuDone (s.withMem m) g) :=
  (h.map fun t => { t with fpu := g }).done

/-- An FPU state that depends on a value read, the same in both. -/
theorem Over.fpuRead {α : Type} {v v' : α} (hv : v' = v) (g : α → Fpu) :
    Follows ρ W (Machine.fpuDone s (g v)) (Machine.fpuDone (s.withMem m) (g v')) := by
  subst hv
  exact h.fpuDone (g v')

theorem Over.fpuWord (w : Width) (mo : MemOp) (v : BitVec w.bits) (g : Fpu) :
    Follows ρ (Plus W [.write (s.memAddr mo) w.bytes]) (Machine.fpuDone (s.memWrite w (s.memAddr mo) v) g)
      (Machine.fpuDone ((s.withMem m).memWrite w (s.memAddr mo) v) g) :=
  ((h.memWrite w (s.memAddr mo) v).map fun t => { t with fpu := g }).done.mono fun _ hp =>
    hp.imp_right (writesByte_write ..).1

theorem Over.fpuSpan (mo : MemOp) {bs : List Byte} {n : ℕ} (hn : bs.length = n) (hle : n ≤ 2 ^ 32) (g : Fpu) :
    Follows ρ (Plus W (spanWrites (s.memAddr mo) n)) (Machine.fpuDone (s.memWriteSpan (s.memAddr mo) bs) g)
      (Machine.fpuDone ((s.withMem m).memWriteSpan (s.memAddr mo) bs) g) := by
  subst hn
  exact ((h.memWriteSpan (s.memAddr mo) hle).map fun t => { t with fpu := g }).done.mono fun _ hp =>
    hp.imp_right (writesByte_spanWrites ..).1

/-! ### Instructions with a memory operand -/

theorem follows_farith (op : F64 → F64 → F64) {f : FArithForm} (hR : ∀ p, ReadsByte (s.farithReads f) p → W p) :
    Follows ρ (Plus W (s.farithReads f)) (farith op f s) (farith op f (s.withMem m)) :=
  (h.fpuRead (h.farithArgs hR) fun x => s.fpu.arith op x.1 x.2).plus (not_writesByte_farithReads f)

theorem follows_fiarith (op : F64 → F64 → F64) {f : FIntForm} (hR : ∀ p, ReadsByte (s.fintReads f) p → W p) :
    Follows ρ (Plus W (s.fintReads f)) (fiarith op f s) (fiarith op f (s.withMem m)) :=
  (h.fpuRead (h.fintArg hR) fun x => s.fpu.arith op 0 x).plus (not_writesByte_fintReads f)

theorem follows_fld {f : FldForm} (hR : ∀ p, ReadsByte (s.fldReads f) p → W p) :
    Follows ρ (Plus W (s.fldReads f)) (execFld f s) (execFld f (s.withMem m)) := by
  cases f with
  | mf32 mo => exact (h.fpuRead (h.memF32 hR) s.fpu.push).plus (not_writesByte_read _ _)
  | mf64 mo => exact (h.fpuRead (h.mem64 hR) s.fpu.push).plus (writesByte_spanReads _ _)
  | mf80 mo =>
    exact (h.fpuRead (h.readSpan hR) fun v => s.fpu.push (f80ToF64 (BitVec.ofNat 80 v))).plus
      (writesByte_spanReads _ _)
  | st i => exact (h.fpuDone (s.fpu.push (s.fpu.st i))).plus not_writesByte_nil

theorem follows_fild {f : FildForm} (hR : ∀ p, ReadsByte (s.fildReads f) p → W p) :
    Follows ρ (Plus W (s.fildReads f)) (execFild f s) (execFild f (s.withMem m)) := by
  cases f with
  | m16 mo =>
    exact (h.fpuRead (h.memInt (w := .w16) hR) fun v => s.fpu.push (intToF64 v)).plus (not_writesByte_read _ _)
  | m32 mo =>
    exact (h.fpuRead (h.memInt (w := .w32) hR) fun v => s.fpu.push (intToF64 v)).plus (not_writesByte_read _ _)
  | m64 mo => exact (h.fpuRead (h.mem64 hR) fun v => s.fpu.push (intToF64 v.toInt)).plus (writesByte_spanReads _ _)

theorem follows_fst {f : FstForm} : Follows ρ (Plus W (s.fstWrites f)) (execFst f s) (execFst f (s.withMem m)) := by
  cases f with
  | mf32 mo => exact h.fpuWord .w32 mo (f64ToF32 (s.fpu.st 0)) s.fpu
  | mf64 mo => exact h.fpuSpan mo (leBytes_length 8 (s.fpu.st 0).toNat) (by norm_num) s.fpu
  | st i => exact (h.fpuDone (s.fpu.copyTop i)).plus not_writesByte_nil

theorem follows_fstp {f : FldForm} : Follows ρ (Plus W (s.fstpWrites f)) (execFstp f s) (execFstp f (s.withMem m)) := by
  cases f with
  | mf32 mo => exact h.fpuWord .w32 mo (f64ToF32 (s.fpu.st 0)) s.fpu.pop
  | mf64 mo => exact h.fpuSpan mo (leBytes_length 8 (s.fpu.st 0).toNat) (by norm_num) s.fpu.pop
  | mf80 mo => exact h.fpuSpan mo (leBytes_length 10 (f64ToF80 (s.fpu.st 0)).toNat) (by norm_num) s.fpu.pop
  | st i => exact (h.fpuDone (s.fpu.copyTop i).pop).plus not_writesByte_nil

theorem follows_fist {f : FistForm} :
    Follows ρ (Plus W (s.fistWrites f)) (execFist f s) (execFist f (s.withMem m)) := by
  cases f with
  | m16 mo => exact h.fpuWord .w16 mo (storeInt s.fpu.rc (s.fpu.st 0) 16) s.fpu
  | m32 mo => exact h.fpuWord .w32 mo (storeInt s.fpu.rc (s.fpu.st 0) 32) s.fpu

theorem follows_fistp {f : FildForm} :
    Follows ρ (Plus W (s.fistpWrites f)) (execFistp f s) (execFistp f (s.withMem m)) := by
  cases f with
  | m16 mo => exact h.fpuWord .w16 mo (storeInt s.fpu.rc (s.fpu.st 0) 16) s.fpu.pop
  | m32 mo => exact h.fpuWord .w32 mo (storeInt s.fpu.rc (s.fpu.st 0) 32) s.fpu.pop
  | m64 mo =>
    exact h.fpuSpan mo (leBytes_length 8 (storeInt s.fpu.rc (s.fpu.st 0) 64).toNat) (by norm_num) s.fpu.pop

theorem Over.loadEnv {a : BitVec 32} {n : ℕ} (hn : envSize s.opsz ≤ n)
    (hR : ∀ p, ReadsByte (spanReads a n) p → W p) :
    s.fpu.loadEnv s.opsz m a = s.fpu.loadEnv s.opsz s.mem a :=
  Fpu.loadEnv_congr fun k hk => h.readBytes fun p hp => hR p ((readsByte_spanReads ..).2 (hp.offset (by
    have := two_le_envStride s.opsz
    have := envSize_eq s.opsz
    interval_cases k <;> omega)))

theorem follows_fldenv {mo : MemOp} (hR : ∀ p, ReadsByte (spanReads (s.memAddr mo) (envSize s.opsz)) p → W p) :
    Follows ρ (Plus W (spanReads (s.memAddr mo) (envSize s.opsz))) (execFldenv mo s) (execFldenv mo (s.withMem m)) :=
  (h.fpuRead (h.loadEnv le_rfl hR) id).plus (writesByte_spanReads _ _)

theorem follows_frstor {mo : MemOp}
    (hR : ∀ p, ReadsByte (spanReads (s.memAddr mo) (envSize s.opsz + 80)) p → W p) :
    Follows ρ (Plus W (spanReads (s.memAddr mo) (envSize s.opsz + 80))) (execFrstor mo s)
      (execFrstor mo (s.withMem m)) := by
  have hregs (f : Fpu) : f.loadRegs s.opsz m (s.memAddr mo) = f.loadRegs s.opsz s.mem (s.memAddr mo) :=
    Fpu.loadRegs_congr fun i => h.readBytes fun p hp => hR p ((readsByte_spanReads ..).2 (hp.offset (by
      have := i.isLt
      omega)))
  have henv := h.loadEnv (Nat.le_add_right _ 80) hR
  have hload : (s.fpu.loadEnv s.opsz m (s.memAddr mo)).loadRegs s.opsz m (s.memAddr mo) =
      (s.fpu.loadEnv s.opsz s.mem (s.memAddr mo)).loadRegs s.opsz s.mem (s.memAddr mo) := by rw [hregs, henv]
  have hdone := h.fpuDone ((s.fpu.loadEnv s.opsz s.mem (s.memAddr mo)).loadRegs s.opsz s.mem (s.memAddr mo))
  exact (hdone.plus (writesByte_spanReads _ _)).of_eq (congrArg (fpuDone (s.withMem m)) hload)

/-! ### Every FPU instruction (R530) -/

theorem follows_fpu {i : Instr} (hi : isFpu i = true) (hR : ∀ p, ReadsByte (s.accesses i) p → W p) :
    Follows ρ (Plus W (s.accesses i)) (exec i s) (exec i (s.withMem m)) := by
  have henv := envSize_le s.opsz
  cases i with
  | fadd f => exact follows_farith h fadd64 hR
  | fmul f => exact follows_farith h fmul64 hR
  | fsub f => exact follows_farith h fsub64 hR
  | fsubr f => exact follows_farith h fsubr64 hR
  | fdiv f => exact follows_farith h fdiv64 hR
  | fdivr f => exact follows_farith h fdivr64 hR
  | fiadd f => exact follows_fiarith h fadd64 hR
  | fimul f => exact follows_fiarith h fmul64 hR
  | fisub f => exact follows_fiarith h fsub64 hR
  | fisubr f => exact follows_fiarith h fsubr64 hR
  | fidiv f => exact follows_fiarith h fdiv64 hR
  | fidivr f => exact follows_fiarith h fdivr64 hR
  | fcom f => exact (h.fpuRead (h.fcomArg hR) s.fpu.compareTop).plus (not_writesByte_fcomReads f)
  | fcomp f =>
    exact (h.fpuRead (h.fcomArg hR) fun x => (s.fpu.compareTop x).pop).plus (not_writesByte_fcomReads f)
  | ficom f => exact (h.fpuRead (h.fintArg hR) s.fpu.compareTop).plus (not_writesByte_fintReads f)
  | ficomp f =>
    exact (h.fpuRead (h.fintArg hR) fun x => (s.fpu.compareTop x).pop).plus (not_writesByte_fintReads f)
  | fld f => exact follows_fld h hR
  | fild f => exact follows_fild h hR
  | fbld mo =>
    have hbytes := h.readBytes (a := s.memAddr mo) (n := 10) fun p hp => hR p ((readsByte_spanReads ..).2 hp)
    exact (h.fpuRead hbytes fun bs => s.fpu.push (bcdToF64 bs)).plus (writesByte_spanReads _ _)
  | fldcw mo =>
    exact (h.fpuRead (h.memReadOf (w := .w16) hR) fun v => { s.fpu with FCW := v }).plus (not_writesByte_read _ _)
  | fldenv mo => exact follows_fldenv h hR
  | frstor mo => exact follows_frstor h hR
  | fst f => exact follows_fst h
  | fstp f => exact follows_fstp h
  | fist f => exact follows_fist h
  | fistp f => exact follows_fistp h
  | fbstp mo => exact h.fpuSpan mo (f64ToBcd_length s.fpu.rc (s.fpu.st 0)) (by norm_num) s.fpu.pop
  | fnstcw mo => exact h.fpuWord .w16 mo s.fpu.FCW s.fpu
  | fnstsw f =>
    cases f with
    | m16 mo => exact h.fpuWord .w16 mo s.fpu.statusWord s.fpu
    | ax => exact (h.map (State.writeReg · .w16 .eax s.fpu.statusWord)).done.plus not_writesByte_nil
  | fnstenv mo => exact h.fpuSpan mo (s.fpu.envBytes_length s.opsz) (by omega) _
  | fnsave mo => exact h.fpuSpan mo (s.fpu.saveBytes_length s.opsz) (by omega) _
  | faddp i | fmulp i | fsubp i | fsubrp i | fdivp i | fdivrp i => exact (h.fpuDone _).plus not_writesByte_nil
  | fucom i | fucomp i | fcompp | fucompp | ftst | fxam => exact (h.fpuDone _).plus not_writesByte_nil
  | fld1 | fldl2t | fldl2e | fldpi | fldlg2 | fldln2 | fldz => exact (h.fpuDone _).plus not_writesByte_nil
  | fxch i | ffree i | fdecstp | fincstp | fninit => exact (h.fpuDone _).plus not_writesByte_nil
  | fnop | feni | fdisi | fsetpm | fnclex => exact h.done.plus not_writesByte_nil
  | fchs | fabs | f2xm1 | fyl2x | fptan | fpatan | fxtract | fprem1 | fprem | fyl2xp1 | fsqrt | fsincos
  | frndint | fscale | fsin | fcos => exact (h.fpuDone _).plus not_writesByte_nil
  | _ => exact nomatch hi

end

end Sys2Proof.Machine
end

section
/-! Every instruction over two memories, and the calls a memory operand makes (R98, R101). -/

namespace Sys2Proof.Machine

/-- Another memory agrees with that of the state on this byte. -/
def Agrees (s : State) (m : Memory) (p : ℕ) : Prop := m.get p = s.mem.get p

/-- Over a memory that agrees on the bytes the calls of `i` read, `i` ends in the same state and stores the
same bytes. -/
def ReadsAsStated (i : Instr) (s : State) (m : Memory) : Prop :=
  ∀ t, exec i s = .next t → (∀ p, ReadsByte (s.accessesTo i t) p → Agrees s m p) →
    ∃ u ρ, exec i (s.withMem m) = .next u ∧ Over ρ (WritesByte (s.accessesTo i t)) t u

/-- The instructions that end in a delivery or in `Halted`, in some state. -/
def endsOtherwise : Instr → Bool
  | .int3 | .int _ | .into | .bound _ _ | .div _ | .idiv _ | .aam _ | .hlt => true
  | _ => false

/-! ### Instructions that retire -/

section
variable {ρ : Option StepResult} {W : ℕ → Prop} {s t u : State} {m : Memory}

theorem Over.writeReg (h : Over ρ W t u) (w : Width) (r : Reg) (v : BitVec w.bits) :
    Over ρ W (t.writeReg w r v) (u.writeReg w r v) := h.map (State.writeReg · w r v)

variable (h : Over ρ W s (s.withMem m))
include h

theorem follows_prefix (change : PrefixState → PrefixState) :
    Follows ρ (Plus W []) (recordPrefix change s) (recordPrefix change (s.withMem m)) :=
  (h.map fun t => { t with pfx := { change t.pfx with count := t.pfx.count + 1 } }).next.plus not_writesByte_nil

theorem follows_override (r : SegReg) :
    Follows ρ (Plus W []) (overridePrefix r s) (overridePrefix r (s.withMem m)) :=
  follows_prefix h fun p => { p with seg := some r }

theorem follows_flagsOnly (change : Flags → Flags) :
    Follows ρ (Plus W []) (flagsOnly change s) (flagsOnly change (s.withMem m)) :=
  (h.setFlags (change s.flags)).done.plus not_writesByte_nil

theorem follows_setcc (cc : Cond) (rm : RM) :
    Follows ρ (Plus W (s.rmWrites .w8 rm)) (setcc cc rm s) (setcc cc rm (s.withMem m)) :=
  (h.writeRM .w8 rm (if s.flags.cond cc then 1 else 0)).done

theorem follows_exec {i : Instr} (hf : isFpu i = false) (hi : endsOtherwise i = false)
    (hR : ∀ p, ReadsByte (s.accesses i) p → W p) :
    Follows ρ (Plus W (s.accesses i)) (exec i s) (exec i (s.withMem m)) := by
  cases i with
  | pfxEs => exact follows_override h .es
  | pfxCs => exact follows_override h .cs
  | pfxSs => exact follows_override h .ss
  | pfxDs => exact follows_override h .ds
  | pfxFs => exact follows_override h .fs
  | pfxGs => exact follows_override h .gs
  | pfxOpsize => exact follows_prefix h fun p => { p with opsize := true }
  | pfxAdsize => exact follows_prefix h fun p => { p with adsize := true }
  | pfxLock => exact follows_prefix h fun p => { p with lock := true }
  | pfxRepne => exact follows_prefix h fun p => { p with rep := .repne }
  | pfxRep => exact follows_prefix h fun p => { p with rep := .rep }
  | add f => exact follows_aluWrite h (fun fl a b => flagsAdd fl a b false) hR
  | or f => exact follows_aluWrite h (fun fl a b => logicOut fl (a ||| b)) hR
  | adc f => exact follows_aluWrite h (fun fl a b => flagsAdd fl a b fl.CF) hR
  | sbb f => exact follows_aluWrite h (fun fl a b => flagsSub fl a b fl.CF) hR
  | and f => exact follows_aluWrite h (fun fl a b => logicOut fl (a &&& b)) hR
  | sub f => exact follows_aluWrite h (fun fl a b => flagsSub fl a b false) hR
  | xor f => exact follows_aluWrite h (fun fl a b => logicOut fl (a ^^^ b)) hR
  | cmp f => exact follows_cmp h hR
  | test f => exact follows_test h hR
  | push f => exact follows_push h hR
  | pop f => exact follows_pop h hR
  | pusha => exact follows_pusha h
  | popa => exact follows_popa h hR
  | pushf => exact h.donePush s.opsz (v := s.flagsWord s.opsz) rfl
  | popf => exact follows_popf h hR
  | daa | das => exact ((h.writeReg .w8 .eax _).setFlags _).done.plus not_writesByte_nil
  | aaa | aas | aad imm => exact (((h.writeReg .w8 _ _).writeReg .w8 _ _).setFlags _).done.plus not_writesByte_nil
  | inc f => exact follows_modify h (flagsInc s.flags) hR
  | dec f => exact follows_modify h (flagsDec s.flags) hR
  | neg f => exact follows_modify h (flagsNeg s.flags) hR
  | not f => exact follows_not h hR
  | imul f => exact follows_imul h hR
  | mul f => exact follows_mul h hR
  | movs f => exact follows_stringOp h .movs hR
  | cmps f => exact follows_stringOp h .cmps hR
  | scas f => exact follows_stringOp h .scas hR
  | stos f => exact follows_stringOp h .stos hR
  | lods f => exact follows_stringOp h .lods hR
  | ins f => exact follows_stringOp h .ins hR
  | outs f => exact follows_stringOp h .outs hR
  | jo f | jno f | jb f | jnb f | jz f | jnz f | jbe f | jnbe f => exact (follows_jcc h _ f).plus not_writesByte_nil
  | js f | jns f | jp f | jnp f | jl f | jnl f | jle f | jnle f => exact (follows_jcc h _ f).plus not_writesByte_nil
  | jcxz rel => exact (follows_branchIf h (s.count == 0) (rel.signExtend 32)).plus not_writesByte_nil
  | loop rel | loope rel | loopne rel =>
    exact (follows_branchIf h.countDown _ (rel.signExtend 32)).plus not_writesByte_nil
  | xchg f => exact follows_xchg h hR
  | mov f => exact follows_mov h hR
  | lea r mo => exact (h.writeReg s.opw r ((s.memOffset mo).setWidth s.opsz.bits)).done.plus not_writesByte_nil
  | nop | wait => exact h.done.plus not_writesByte_nil
  | cbw => exact (follows_cbw h).plus not_writesByte_nil
  | cwd => exact (h.writeReg s.opw .edx _).done.plus not_writesByte_nil
  | sahf => exact (h.setFlags _).done.plus not_writesByte_nil
  | lahf => exact (h.writeReg .w8 .esp (s.flags.image.setWidth 8)).done.plus not_writesByte_nil
  | clc => exact follows_flagsOnly h fun f => { f with CF := false }
  | stc => exact follows_flagsOnly h fun f => { f with CF := true }
  | cmc => exact follows_flagsOnly h fun f => { f with CF := !f.CF }
  | cli => exact follows_flagsOnly h fun f => { f with IF := false }
  | sti => exact follows_flagsOnly h fun f => { f with IF := true }
  | cld => exact follows_flagsOnly h fun f => { f with DF := false }
  | std => exact follows_flagsOnly h fun f => { f with DF := true }
  | call f => exact follows_call h hR
  | jmp f => exact follows_jmp h hR
  | ret f => exact follows_ret h hR
  | retf f => exact follows_retf h hR
  | iret => exact follows_iret h hR
  | enter size imm => exact follows_enter h hR
  | leave => exact follows_leave h hR
  | rol f | ror f | rcl f | rcr f | shl f | shr f | sar f => exact follows_shiftExec h hR
  | shld f => exact follows_doubleShiftExec h shldBits hR
  | shrd f => exact follows_doubleShiftExec h shrdBits hR
  | les r mo | lds r mo | lss r mo | lfs r mo | lgs r mo => exact follows_loadFarPointer h hR
  | xlat => exact follows_xlat h hR
  | inp f => exact follows_in h
  | out f => exact follows_out h
  | seto rm | setno rm | setb rm | setnb rm | setz rm | setnz rm | setbe rm | setnbe rm => exact follows_setcc h _ rm
  | sets rm | setns rm | setp rm | setnp rm | setl rm | setnl rm | setle rm | setnle rm => exact follows_setcc h _ rm
  | bt f => exact follows_bt h hR
  | bts f => exact follows_bitModify h (fun word mask => word ||| mask) hR
  | btr f => exact follows_bitModify h (fun word mask => word &&& ~~~mask) hR
  | btc f => exact follows_bitModify h (fun word mask => word ^^^ mask) hR
  | movzx f => exact follows_movzx h hR
  | movsx f => exact follows_movsx h hR
  | bsf r rm => exact follows_bitScan h lowestBit hR
  | bsr r rm => exact follows_bitScan h highestBit hR
  | int3 | int v | into | bound r mo | div f | idiv f | aam imm | hlt => exact nomatch hi
  | _ => exact nomatch hf

end

/-! ### Every instruction -/

section
variable {s : State} {m : Memory} {i : Instr}

theorem over_agrees (hs : s.result = some .retired) : Over (some .retired) (Agrees s m) s (s.withMem m) :=
  ⟨rfl, hs, fun _ hp => hp⟩

theorem accessesTo_retired {t : State} (h : t.result = some .retired) : s.accessesTo i t = s.accesses i := by
  rw [State.accessesTo, h]
  exact List.append_nil _

theorem accessesTo_delivered {t : State} {v : BitVec 8} (h : t.result = some (.delivered v)) :
    s.accessesTo i t = s.accesses i ++ s.deliveryAccesses v := by
  rw [State.accessesTo, h]

theorem Follows.readsAsStated
    (h : (∀ p, ReadsByte (s.accesses i) p → Agrees s m p) →
      Follows (some .retired) (Plus (Agrees s m) (s.accesses i)) (exec i s) (exec i (s.withMem m))) :
    ReadsAsStated i s m := by
  intro t ht hr
  obtain ⟨u, hu, hover⟩ := h (reads_left hr) t ht
  rw [accessesTo_retired hover.result]
  exact ⟨u, _, hu, hover.mono fun _ => .inr⟩

/-- An instruction that reads at most, and then raises a vector or retires. -/
theorem readsAsStated_of_raises {c : Prop} [Decidable c] {v : BitVec 8} {ip : BitVec 32} {o o' : Result}
    (hs : s.result = some .retired) (hl : ∀ p, ¬ WritesByte (s.accesses i) p)
    (he : exec i s = if c then raiseVector v ip s else o)
    (he' : (∀ p, ReadsByte (s.accesses i) p → Agrees s m p) →
      exec i (s.withMem m) = if c then raiseVector v ip (s.withMem m) else o')
    (ho : Follows (some .retired) (Agrees s m) o o') : ReadsAsStated i s m := by
  intro t ht hr
  rw [he] at ht
  rw [he' (reads_left hr)]
  by_cases hc : c
  · rw [if_pos hc] at ht ⊢
    rw [accessesTo_delivered (result_raiseVector ht)] at hr ⊢
    obtain ⟨u, hu, hover⟩ := follows_raiseVector (over_agrees hs) ip (reads_right hr) t ht
    exact ⟨u, _, hu, hover.mono fun p hp => .inr (((writesByte_append ..).1 hp).resolve_left (hl p))⟩
  · rw [if_neg hc] at ht ⊢
    obtain ⟨u, hu, hover⟩ := ho t ht
    rw [accessesTo_retired hover.result]
    exact ⟨u, _, hu, hover.mono fun p hp => absurd hp (hl p)⟩

theorem Over.writeQuotient {ρ : Option StepResult} {W : ℕ → Prop} {t u : State} (h : Over ρ W t u) (w : Width)
    (q r : BitVec w.bits) : Over ρ W (t.writeQuotient w q r) (u.writeQuotient w q r) := by
  cases w with
  | w8 => exact (h.writeReg .w8 .eax q).writeReg .w8 .esp r
  | w16 => exact (h.writeReg .w16 .eax q).writeReg .w16 .edx r
  | w32 => exact (h.writeReg .w32 .eax q).writeReg .w32 .edx r

theorem readsAsStated_trap {v : BitVec 8} (hs : s.result = some .retired) (hl : s.accesses i = [])
    (he : ∀ t, exec i t = raiseTrap v t) : ReadsAsStated i s m :=
  readsAsStated_of_raises (c := True) (o := done s) hs (fun p => hl ▸ not_writesByte_nil p)
    ((he s).trans (if_pos trivial).symm) (fun _ => (he _).trans (if_pos trivial).symm) (over_agrees hs).done

theorem readsAsStated_divide {f : UnaryForm} (hi : i = .div f ∨ i = .idiv f) (hs : s.result = some .retired) :
    ReadsAsStated i s m := by
  rcases hi with rfl | rfl
  all_goals
    refine readsAsStated_of_raises hs (not_writesByte_rmReads _ _) rfl (fun hR => ?_)
      ((over_agrees hs).writeQuotient _ _ _).done
    rw [← (over_agrees hs).readRM hR]
    rfl

theorem readsAsStated_bound {r : Reg} {mo : MemOp} (hs : s.result = some .retired) :
    ReadsAsStated (.bound r mo) s m := by
  refine readsAsStated_of_raises hs (not_writesByte_append (l := [_]) (k := [_]) (not_writesByte_read _ _)
    (not_writesByte_read _ _)) rfl (fun hR => ?_) (over_agrees hs).done
  have hlow := (over_agrees hs).memReadOf (w := s.opw) (reads_left (l := [_]) hR)
  have hhigh := (over_agrees hs).memReadOf (w := s.opw) (reads_right (l := [_]) hR)
  rw [← hlow, ← hhigh]
  rfl

theorem readsAsStated_hlt : ReadsAsStated .hlt s m := by
  rintro _ ⟨⟩ -
  exact ⟨_, _, rfl, rfl, rfl, fun p hp => absurd hp (not_writesByte_nil p)⟩

theorem readsAsStated (i : Instr) (s : State) (m : Memory) (hs : s.result = some .retired) : ReadsAsStated i s m := by
  have h := over_agrees (m := m) hs
  by_cases hf : isFpu i = true
  · exact Follows.readsAsStated (follows_fpu h hf)
  by_cases hi : endsOtherwise i = true
  · cases i with
    | int3 => exact readsAsStated_trap hs rfl fun _ => rfl
    | int v => exact readsAsStated_trap hs rfl fun _ => rfl
    | into => exact readsAsStated_of_raises hs not_writesByte_nil rfl (fun _ => rfl) h.done
    | bound r mo => exact readsAsStated_bound hs
    | div f => exact readsAsStated_divide (.inl rfl) hs
    | idiv f => exact readsAsStated_divide (.inr rfl) hs
    | aam imm =>
      exact readsAsStated_of_raises hs not_writesByte_nil rfl (fun _ => rfl)
        (((h.writeReg .w8 .esp (s.al / imm)).writeReg .w8 .eax (s.al % imm)).setFlags _).done
    | hlt => exact readsAsStated_hlt
    | _ => exact nomatch hi
  · exact Follows.readsAsStated (follows_exec h (Bool.eq_false_iff.2 hf) (Bool.eq_false_iff.2 hi))

end

end Sys2Proof.Machine
end

section
/-! The calls of the instructions with a memory operand, and O14. -/

namespace Sys2Proof.Machine

theorem bytes_opsz (s : State) : (if s.opsz = .s16 then 2 else 4) = s.opw.bytes := by
  rw [State.opw]
  cases s.opsz <;> rfl

section
variable {s : State} {m : MemOp} {w : Width} {c : BitVec 8}

/-- The steps a group-2 operation leaves, over the width in bytes. -/
def stepsLeft (k : ShiftKind) (n : ℕ) (count : BitVec 8) : ℕ :=
  if k = .rcl ∨ k = .rcr then count.toNat % 32 % (8 * n + 1) else count.toNat % 32

theorem stepsLeft_eq (k : ShiftKind) : stepsLeft k w.bytes c = k.steps w.bits c := by
  rw [steps_eq, w.bits_eq, stepsLeft]

/-- A read of the operand, and the write only where a step is left. -/
theorem accesses_shiftInstr_mem (k : ShiftKind) {f : ShiftForm} (hf : s.shiftArgs f = (w, .mem m, c)) :
    if stepsLeft k w.bytes c = 0 then s.accesses (shiftInstr k f) = [.read (s.memAddr m) w.bytes]
    else s.accesses (shiftInstr k f) = [.read (s.memAddr m) w.bytes, .write (s.memAddr m) w.bytes] := by
  rw [accesses_shiftInstr, State.shiftAccesses, hf, stepsLeft_eq]
  split <;> rfl

theorem doubleShiftAccesses_mem {f : DoubleShiftForm} {r : Reg} (hf : s.doubleShiftArgs f = (.mem m, r, c)) :
    if c.toNat % 32 = 0 then s.doubleShiftAccesses f = [.read (s.memAddr m) s.opw.bytes]
    else s.doubleShiftAccesses f = [.read (s.memAddr m) s.opw.bytes, .write (s.memAddr m) s.opw.bytes] := by
  rw [State.doubleShiftAccesses, hf]
  split <;> rfl

theorem accesses_alu {op : AluForm → Instr} (hop : op ∈ [Instr.add, .or, .adc, .sbb, .and, .sub, .xor]) (f : AluForm) :
    s.accesses (op f) = s.aluReads f ++ s.aluWrites f := by
  revert op
  simp only [List.forall_mem_cons]
  exact ⟨rfl, rfl, rfl, rfl, rfl, rfl, rfl, nofun⟩

theorem accesses_bitModify {op : BitForm → Instr} (hop : op ∈ [Instr.bts, .btr, .btc]) (f : BitForm) :
    s.accesses (op f) = s.bitModifies f := by
  revert op
  simp only [List.forall_mem_cons]
  exact ⟨rfl, rfl, rfl, nofun⟩

theorem bitAccesses (f : BitForm) : match (s.bitTarget f).1 with
    | .phys b => s.bitReads f = [.read b s.opw.bytes] ∧ s.bitModifies f = [.read b s.opw.bytes, .write b s.opw.bytes]
    | .reg _ => s.bitReads f = [] ∧ s.bitModifies f = [] := by
  unfold State.bitReads State.bitModifies
  cases (s.bitTarget f).1 <;> exact ⟨rfl, rfl⟩

end

/-- Settles O14: the two runs stay `Over` each other (`readsAsStated`), and the calls of a memory operand are
`rmReads` and `rmWrites` of its width. -/
theorem onlyStatedReads : Obligations.OnlyStatedReads := by
  refine ⟨fun i s t m hs ht hr => ?_, fun s m r ib iw => ?_⟩
  · obtain ⟨u, ρ, hu, hover⟩ := readsAsStated i s m hs t ht hr
    refine ⟨u, hu, ?_, hover.bytes⟩
    rw [hover.eq]
    rfl
  · intro a n modifies reads writes left modifiesIf cl
    have hn : n = s.opw.bytes := bytes_opsz s
    clear_value n
    subst hn
    refine ⟨fun op hop => ?_, ?_, ?_, ⟨rfl, rfl⟩, fun k => ?_, ?_, fun f => ?_,
      ⟨rfl, rfl, rfl, rfl, rfl, rfl, rfl⟩, ⟨rfl, rfl, rfl, rfl⟩,
      ⟨rfl, rfl, rfl, rfl, fun _ => rfl, fun _ => ⟨rfl, rfl⟩, fun cc => accesses_setccInstr s cc (.mem m)⟩⟩
    · have halu := accesses_alu (s := s) hop
      exact ⟨halu _, halu _, halu _, halu _, halu _, halu _, halu _⟩
    · simp only [List.forall_mem_cons]
      exact ⟨⟨rfl, rfl⟩, ⟨rfl, rfl⟩, nofun⟩
    · simp only [List.forall_mem_cons]
      exact ⟨⟨rfl, rfl⟩, ⟨rfl, rfl⟩, nofun⟩
    · exact ⟨accesses_shiftInstr_mem (w := .w8) k rfl, accesses_shiftInstr_mem (w := s.opw) k rfl,
        accesses_shiftInstr_mem (w := .w8) k rfl, accesses_shiftInstr_mem (w := s.opw) k rfl,
        accesses_shiftInstr_mem (w := .w8) k rfl, accesses_shiftInstr_mem (w := s.opw) k rfl⟩
    · simp only [List.forall_mem_cons]
      exact ⟨⟨doubleShiftAccesses_mem rfl, doubleShiftAccesses_mem rfl⟩,
        ⟨doubleShiftAccesses_mem rfl, doubleShiftAccesses_mem rfl⟩, nofun⟩
    · have hbits := bitAccesses (s := s) f
      revert hbits
      cases (s.bitTarget f).1 with
      | phys b => exact fun ⟨hread, hmod⟩ => ⟨hread, fun op hop => (accesses_bitModify hop f).trans hmod⟩
      | reg q => exact fun ⟨hread, hmod⟩ => ⟨hread, fun op hop => (accesses_bitModify hop f).trans hmod⟩

end Sys2Proof.Machine
end

section
/-! What an instruction may change (R27, R36, R95 to R98, R530, R673): one relation between the state an
instruction starts in and a state it reaches, kept by every operation of the meanings. -/

namespace Sys2Proof.Machine

/-- The parts of the state, beside the memory, that an instruction may change; the general registers, EIP,
PrefixState, `nextEip` and `result` are not looked at. -/
structure Leave where
  ctl : Bool
  dbg : Bool
  segs : Bool
  ports : Bool
  fpu : Bool
  flags : Bool

/-- The instructions that write a control register (R36). -/
def changesCtl : Instr → Bool
  | .mov (.crnR32 _ _) => true
  | _ => false

/-- The instructions that write a debug register (R36). -/
def changesDbg : Instr → Bool
  | .mov (.drnR32 _ _) => true
  | _ => false

/-- The instructions that reach the ports (R95). -/
def usesPorts : Instr → Bool
  | .inp _ | .out _ | .ins _ | .outs _ => true
  | _ => false

/-- What an instruction may change beside the memory (R27, R36, R95, R530, R673). -/
def mayChange (i : Instr) : Leave :=
  ⟨changesCtl i, changesDbg i, loadsSelector i, usesPorts i, isFpu i, changesFlags i⟩

/-- The segment registers as real mode leaves them (R27, R28). -/
def State.RealSegs (s : State) : Prop := s.csD = false ∧ s.ssB = false ∧ ∀ r, (s.seg.get r).Real

/-- From `s` to `t` only parts that `may` names changed, and only bytes in `W`; the memory stays in its
canonical form, and outside protected mode the segment registers stay as real mode loads them. -/
structure Frame (may : Leave) (W : ℕ → Prop) (s t : State) : Prop where
  ctl : may.ctl = false → t.ctl = s.ctl
  dbg : may.dbg = false → t.dbg = s.dbg
  segs : may.segs = false → SameSegs s t
  ports : may.ports = false → t.ports = s.ports
  fpu : may.fpu = false → t.fpu = s.fpu
  flags : may.flags = false → t.flags = s.flags
  bus : t.bus = s.bus
  wf : s.mem.wf = true → t.mem.wf = true
  bytes : ∀ p, ¬ W p → t.mem.get p = s.mem.get p
  real : s.protectedMode = false → s.RealSegs → t.RealSegs

/-- Every next state of an answer is in the frame. -/
def Frames (may : Leave) (W : ℕ → Prop) (s : State) (o : Result) : Prop := ∀ t, o = .next t → Frame may W s t

/-- The state with the parts a `Frame` does not look at forgotten, the flags among them. -/
def State.shell (s : State) : State :=
  { s with gpr := .reset, flags := .reset, eip := 0, pfx := .empty, nextEip := 0, result := none }

section
variable {may : Leave} {W W' : ℕ → Prop} {s t u : State}

theorem Frame.refl (may : Leave) (W : ℕ → Prop) (s : State) : Frame may W s s :=
  ⟨fun _ => rfl, fun _ => rfl, fun _ => ⟨rfl, rfl, rfl⟩, fun _ => rfl, fun _ => rfl, fun _ => rfl, rfl, id,
    fun _ _ => rfl, fun _ h => h⟩

theorem Frame.mono (h : Frame may W s t) (hW : ∀ p, W p → W' p) : Frame may W' s t :=
  { h with bytes := fun p hp => h.bytes p fun hw => hp (hW p hw) }

/-- Two states with one shell differ in the flags, the general registers and the running of the step. -/
theorem eq_of_shell (hs : u.shell = t.shell) :
    u = { t with
      gpr := u.gpr, flags := u.flags, eip := u.eip, pfx := u.pfx, nextEip := u.nextEip, result := u.result } := by
  cases u
  cases t
  simpa [State.shell] using hs

/-! ### Changes of one part -/

theorem Frame.setFlags (h : Frame may W s t) (hm : may.flags = true) (hs : u.shell = t.shell := by rfl) :
    Frame may W s u := by
  rw [eq_of_shell hs]
  exact { h with flags := fun hf => absurd (hf.symm.trans hm) nofun }

/-- A change of the general registers, of EIP or of what belongs to the running of the step. -/
theorem Frame.keep (h : Frame may W s t) (hs : u.shell = t.shell := by rfl) (hf : u.flags = t.flags := by rfl) :
    Frame may W s u := by
  rw [eq_of_shell hs]
  exact { h with flags := fun hm => hf.trans (h.flags hm) }

theorem Frame.setCtl (h : Frame may W s t) (hm : may.ctl = true) (c : Ctl) : Frame may W s { t with ctl := c } :=
  { h with ctl := fun hf => absurd (hf.symm.trans hm) nofun }

theorem Frame.setDbg (h : Frame may W s t) (hm : may.dbg = true) (d : Dbg) : Frame may W s { t with dbg := d } :=
  { h with dbg := fun hf => absurd (hf.symm.trans hm) nofun }

theorem Frame.setPorts (h : Frame may W s t) (hm : may.ports = true) (l : List PortEvent) :
    Frame may W s { t with ports := l } :=
  { h with ports := fun hf => absurd (hf.symm.trans hm) nofun }

theorem Frame.setFpu (h : Frame may W s t) (hm : may.fpu = true) (f : Fpu) : Frame may W s { t with fpu := f } :=
  { h with fpu := fun hf => absurd (hf.symm.trans hm) nofun }

theorem Frame.memWriteSpan (h : Frame may W s t) {a : BitVec 32} {n : ℕ} {bs : List Byte} (hn : bs.length = n)
    (hle : n ≤ 2 ^ 32) (hW : ∀ p, InSpan a n p → W p) : Frame may W s (t.memWriteSpan a bs) :=
  { h with
    wf := fun hs => memWriteSpan_wf (h.wf hs) a bs
    bytes := fun p hp =>
      (sameMemExcept_memWriteSpan t a hn hle p fun hin => hp (hW p hin)).trans (h.bytes p hp) }

theorem Frame.memWrite (h : Frame may W s t) {w : Width} {a : BitVec 32} {v : BitVec w.bits}
    (hW : ∀ p, InSpan a w.bytes p → W p) : Frame may W s (t.memWrite w a v) :=
  h.memWriteSpan (leBytes_length w.bytes v.toNat) (w.bytes_le.trans (by norm_num)) hW

/-- The base a real-mode load stores (R27). -/
theorem seg_real (sel : BitVec 16) : Seg.Real ⟨sel, BitVec.ofNat 32 (16 * sel.toNat)⟩ := by
  have hlt := sel.isLt
  exact Nat.mod_eq_of_lt (by omega)

theorem State.RealSegs.setSeg (h : t.RealSegs) (r : SegReg) (sel : BitVec 16) :
    (t.setSeg r sel (BitVec.ofNat 32 (16 * sel.toNat)) false).RealSegs := by
  obtain ⟨hD, hB, hreal⟩ := h
  refine ⟨by simp [State.setSeg, hD], by simp [State.setSeg, hB], fun q => ?_⟩
  by_cases hq : q = r
  · rw [hq, setSeg_get_self]
    exact seg_real sel
  · rw [setSeg_get_of_ne t sel _ _ hq]
    exact hreal q

theorem Frame.loadSeg (h : Frame may W s t) (hm : may.segs = true) (hc : may.ctl = false) (r : SegReg)
    (sel : BitVec 16) : Frames may W s (loadSeg r sel t) := by
  intro u hu
  obtain ⟨base, big, rfl⟩ := loadSeg_next hu
  refine { h with segs := fun hf => absurd (hf.symm.trans hm) nofun, real := fun hp hs => ?_ }
  rw [loadSeg_real ((protectedMode_congr (h.ctl hc)).trans hp)] at hu
  exact Host.Outcome.next.inj hu ▸ (h.real hp hs).setSeg r sel

/-! ### Answers -/

theorem Frame.next (h : Frame may W s t) : Frames may W s (.next t) := by
  rintro _ ⟨⟩
  exact h

theorem Frame.done (h : Frame may W s t) : Frames may W s (done t) := Frame.next h.keep

theorem frames_refused (r : Refusal) : Frames may W s (.refused r) := fun _ ht => nomatch ht

theorem Frames.mono {o : Result} (h : Frames may W s o) (hW : ∀ p, W p → W' p) : Frames may W' s o :=
  fun t ht => (h t ht).mono hW

theorem Frames.ite {c : Prop} [Decidable c] {o q : Result} (ho : Frames may W s o) (hq : Frames may W s q) :
    Frames may W s (if c then o else q) := by
  split <;> assumption

theorem Frames.thenDo {o : Result} {k : State → Result} (h : Frames may W s o)
    (hk : ∀ t, Frame may W s t → Frames may W s (k t)) : Frames may W s (thenDo o k) := by
  intro u hu
  obtain ⟨t, ht, hku⟩ := thenDo_eq_next.1 hu
  exact hk t (h t ht) u hku

/-! ### The calls of an operand -/

theorem Frame.writeRM (h : Frame may W s t) {w : Width} {rm : RM} {v : BitVec w.bits}
    (hW : ∀ p, WritesByte (t.rmWrites w rm) p → W p) : Frame may W s (t.writeRM w rm v) := by
  cases rm with
  | reg r => exact h.keep
  | mem m => exact h.memWrite fun p hp => hW p ((writesByte_write ..).2 hp)

theorem frames_finishRM (hm : may.flags = true) {w : Width} {rm : RM} (out : BitVec w.bits × Flags)
    (hW : ∀ p, WritesByte (s.rmWrites w rm) p → W p) : Frames may W s (s.finishRM w rm out) :=
  (((Frame.refl may W s).setFlags (u := { s with flags := out.2 }) hm).writeRM hW).done

theorem writes_right {k l : List BusAccess} {p : ℕ} (h : WritesByte l p) : WritesByte (k ++ l) p :=
  (writesByte_append ..).2 (.inr h)

theorem writes_left {k l : List BusAccess} {p : ℕ} (h : WritesByte l p) : WritesByte (l ++ k) p :=
  (writesByte_append ..).2 (.inl h)

end

end Sys2Proof.Machine
end

section
/-! The frames of the arithmetic, logic, shift, bit, move, port and string instructions. -/

namespace Sys2Proof.Machine

section
variable {may : Leave} {W : ℕ → Prop} {s : State} (hm : may.flags = true)
include hm

/-! ### Arithmetic and logic (R330 to R349, R380 to R391) -/

theorem frames_aluWrite (op : ∀ {n : ℕ}, Flags → BitVec n → BitVec n → BitVec n × Flags) (f : AluForm) :
    Frames may (WritesByte (s.aluReads f ++ s.aluWrites f)) s (aluWrite op f s) :=
  frames_finishRM hm _ fun _ hp => writes_right (rmWrites_aluArgs (s := s) f ▸ hp)

theorem frames_modify {w : Width} {rm : RM} (out : BitVec w.bits × Flags) :
    Frames may (WritesByte (s.rmModifies w rm)) s (s.finishRM w rm out) :=
  frames_finishRM hm out fun _ => writes_right

omit hm in
theorem shell_writeProduct (w : Width) (p : ℤ) : (s.writeProduct w p).shell = s.shell := by
  cases w <;> rfl

theorem frames_product (w : Width) (p : ℤ) (f : Flags) :
    Frames may W s (done { s.writeProduct w p with flags := f }) :=
  Frame.done (t := { s.writeProduct w p with flags := f })
    ((Frame.refl may W s).setFlags hm (shell_writeProduct w p))

theorem frames_imul (f : ImulForm) : Frames may W s (execImul f s) := by
  cases f with
  | rmb rm | rmw rm => exact frames_product hm _ _ _
  | rwRmw r rm | rwRmwIw r rm imm | rwRmwIb r rm imm => exact ((Frame.refl may W s).setFlags hm).done

omit hm in
theorem Frame.writeQuotient {t : State} (h : Frame may W s t) (w : Width) (q r : BitVec w.bits) :
    Frame may W s (t.writeQuotient w q r) := by
  cases w <;> exact h.keep

theorem frames_shiftExec (k : ShiftKind) (f : ShiftForm) :
    Frames may (WritesByte (s.shiftAccesses k f)) s (shiftExec k f s) := by
  unfold State.shiftAccesses
  by_cases h0 : k.steps (s.shiftArgs f).1.bits (s.shiftArgs f).2.2 = 0
  · have he : shiftExec k f s = done s := if_pos h0
    rw [he]
    exact (Frame.refl may _ s).done
  · have he : shiftExec k f s = s.finishRM (s.shiftArgs f).1 (s.shiftArgs f).2.1 _ := if_neg h0
    simp only [if_neg h0, he]
    exact frames_modify hm _

theorem frames_doubleShiftExec (bits : ∀ {n : ℕ}, BitVec n → BitVec n → ℕ → BitVec n × Bool) (f : DoubleShiftForm) :
    Frames may (WritesByte (s.doubleShiftAccesses f)) s (doubleShiftExec bits f s) := by
  unfold State.doubleShiftAccesses
  by_cases h0 : (s.doubleShiftArgs f).2.2.toNat % 32 = 0
  · have he : doubleShiftExec bits f s = done s := if_pos h0
    rw [he]
    exact (Frame.refl may _ s).done
  · have he : doubleShiftExec bits f s = s.finishRM s.opw (s.doubleShiftArgs f).1 _ := if_neg h0
    simp only [if_neg h0, he]
    exact frames_modify hm _

/-! ### Bit tests and scans (R392 to R398) -/

omit hm in
theorem Frame.writePlace {t : State} (h : Frame may W s t) {w : Width} {pl : BitPlace} {v : BitVec w.bits}
    (hW : ∀ a, pl = .phys a → ∀ p, InSpan a w.bytes p → W p) : Frame may W s (t.writePlace w pl v) := by
  cases pl with
  | reg r => exact h.keep
  | phys a => exact h.memWrite (hW a rfl)

theorem frames_bitModify (change : ∀ {n : ℕ}, BitVec n → BitVec n → BitVec n) (f : BitForm) :
    Frames may (WritesByte (s.bitModifies f)) s (bitModify change f s) := by
  refine (((Frame.refl may _ s).writePlace fun a ha p hp => ?_).setFlags hm).done
  rw [bitModifies_eq, ha]
  exact writes_right ((writesByte_write ..).2 hp)

theorem frames_bitScan (find : ∀ {n : ℕ}, BitVec n → ℕ) (r : Reg) (rm : RM) : Frames may W s (bitScan find r rm s) :=
  .ite ((Frame.refl may W s).setFlags hm).done ((Frame.refl may W s).setFlags hm).done

end

section
variable {may : Leave} {W : ℕ → Prop} {s : State}

/-! ### Moves (R261 to R298, R318 to R321) -/

theorem frame_memWrite (w : Width) (a : BitVec 32) (v : BitVec w.bits) :
    Frame may (WritesByte [.write a w.bytes]) s (s.memWrite w a v) :=
  (Frame.refl may _ s).memWrite fun _ => (writesByte_write ..).2

theorem frame_writeRM (w : Width) (rm : RM) (v : BitVec w.bits) :
    Frame may (WritesByte (s.rmWrites w rm)) s (s.writeRM w rm v) := (Frame.refl may _ s).writeRM fun _ => id

theorem frames_writeReg (w : Width) (r : Reg) (v : BitVec w.bits) : Frames may W s (done (s.writeReg w r v)) :=
  (Frame.refl may W s).keep.done

theorem frames_loadSeg_done (hs : may.segs = true) (hc : may.ctl = false) (r : SegReg) (sel : BitVec 16) {t : State}
    (h : Frame may W s t) : Frames may W s (thenDo (loadSeg r sel t) done) :=
  (h.loadSeg hs hc r sel).thenDo fun _ => Frame.done

theorem frames_mov (f : MovForm) : Frames (mayChange (.mov f)) (WritesByte (s.movAccesses f)) s (execMov f s) := by
  cases f with
  | rmbRb rm r | rmwRw rm r | rmbIb rm imm | rmwIw rm imm => exact (frame_writeRM _ rm _).done
  | rbRmb r rm | rwRmw r rm | alMoffs off | axMoffs off | rbIb r imm | rwIw r imm | r32Crn r c | r32Drn r d =>
    exact frames_writeReg _ _ _
  | rmwSreg rm sr =>
    cases rm with
    | reg r => exact frames_writeReg _ _ _
    | mem m => exact (frame_memWrite .w16 _ _).done
  | sregRmw sr rm => exact frames_loadSeg_done rfl rfl sr _ (.refl ..)
  | moffsAl off => exact (frame_memWrite .w8 _ _).done
  | moffsAx off => exact (frame_memWrite s.opw _ _).done
  | crnR32 c r => exact ((Frame.refl _ _ s).setCtl rfl _).done
  | drnR32 d r => exact ((Frame.refl _ _ s).setDbg rfl _).done

theorem frames_exchange (w : Width) (rm : RM) (r : Reg) :
    Frames may (WritesByte (s.rmModifies w rm)) s (exchange w rm r s) :=
  ((frame_writeRM w rm (s.readReg w r)).mono fun _ => writes_right).keep.done

theorem frames_loadFarPointer (hs : may.segs = true) (hc : may.ctl = false) (sr : SegReg) (r : Reg) (m : MemOp) :
    Frames may W s (loadFarPointer sr r m s) :=
  ((Frame.refl may W s).loadSeg hs hc sr _).thenDo fun _ h => h.keep.done

theorem frames_setcc (cc : Cond) (rm : RM) : Frames may (WritesByte (s.rmWrites .w8 rm)) s (setcc cc rm s) :=
  (frame_writeRM .w8 rm _).done

/-! ### Ports (R294 to R297) -/

theorem Frame.portRead {t : State} (h : Frame may W s t) (hm : may.ports = true) (w : Width) (p : BitVec 16) :
    Frame may W s (t.portRead w p).2 := by
  obtain ⟨l, hl⟩ := portRead_state t w p
  rw [hl]
  exact h.setPorts hm l

theorem Frame.portWrite {t : State} (h : Frame may W s t) (hm : may.ports = true) (w : Width) (p : BitVec 16)
    (v : BitVec w.bits) : Frame may W s (t.portWrite w p v) := by
  obtain ⟨l, hl⟩ := portWrite_state t w p v
  rw [hl]
  exact h.setPorts hm l

theorem frames_portIn (hm : may.ports = true) (w : Width) (p : BitVec 16) : Frames may W s (portIn w p s) :=
  ((Frame.refl may W s).portRead hm w p).keep.done

theorem frames_in (hm : may.ports = true) (f : InForm) : Frames may W s (execIn f s) := by
  cases f with
  | alIb imm | alDx => exact frames_portIn hm .w8 _
  | axIb imm | axDx => exact frames_portIn hm s.opw _

theorem frames_out (hm : may.ports = true) (f : OutForm) : Frames may W s (execOut f s) := by
  cases f <;> exact ((Frame.refl may W s).portWrite hm _ _ _).done

/-! ### Strings (R470 to R482) -/

theorem frames_stringStep {prim : State → State} {compares : Bool} {l : List BusAccess}
    (h : Frame may (WritesByte l) s (prim s)) :
    Frames may (WritesByte (s.elementAccesses l)) s (stringStep prim compares s) := by
  unfold State.elementAccesses
  by_cases hrep : s.pfx.rep = .none
  · rw [if_neg fun ⟨hne, _⟩ => hne hrep, stringStep_once hrep]
    exact h.done
  · by_cases hc : s.count = 0
    · rw [stringStep_zero hrep hc]
      exact (Frame.refl may _ s).done
    · rw [if_neg fun ⟨_, h0⟩ => hc h0, stringStep_some hrep hc]
      exact .ite h.keep.next h.keep.done

theorem frames_movs (f : StringForm) : Frames may (WritesByte (s.accesses (.movs f))) s (execMovs f s) :=
  frames_stringStep ((frame_memWrite _ _ _).mono fun _ => writes_right (k := [_])).keep.keep

theorem frames_stos (f : StringForm) : Frames may (WritesByte (s.accesses (.stos f))) s (execStos f s) :=
  frames_stringStep (frame_memWrite _ _ _).keep

theorem frames_lods (f : StringForm) : Frames may (WritesByte (s.accesses (.lods f))) s (execLods f s) :=
  frames_stringStep (Frame.refl may _ s).keep

theorem frames_cmps (hm : may.flags = true) (f : StringForm) :
    Frames may (WritesByte (s.accesses (.cmps f))) s (execCmps f s) :=
  frames_stringStep ((Frame.refl may _ s).setFlags hm)

theorem frames_scas (hm : may.flags = true) (f : StringForm) :
    Frames may (WritesByte (s.accesses (.scas f))) s (execScas f s) :=
  frames_stringStep ((Frame.refl may _ s).setFlags hm)

theorem frames_ins (hm : may.ports = true) (f : StringForm) :
    Frames may (WritesByte (s.accesses (.ins f))) s (execIns f s) := by
  refine frames_stringStep ?_
  rw [insPrim_eq]
  exact (((Frame.refl may _ s).setPorts hm _).memWrite fun _ hp => writes_right ((writesByte_write ..).2 hp)).keep

theorem frames_outs (hm : may.ports = true) (f : StringForm) :
    Frames may (WritesByte (s.accesses (.outs f))) s (execOuts f s) :=
  frames_stringStep ((Frame.refl may _ s).portWrite hm _ _ _).keep

/-! ### Jumps (R421 to R431) -/

theorem Frame.branchIf {t : State} (h : Frame may W s t) (c : Bool) (rel : BitVec 32) :
    Frames may W s (branchIf c rel t) := .ite h.keep.next h.done

theorem frames_jcc (cc : Cond) (f : JccForm) : Frames may W s (jcc cc f s) := by
  cases f <;> exact (Frame.refl may W s).branchIf _ _

theorem Frame.farTransfer {t : State} (h : Frame may W s t) (hs : may.segs = true) (hc : may.ctl = false)
    (sel : BitVec 16) (off : BitVec 32) : Frames may W s (farTransfer sel off t) :=
  (h.loadSeg hs hc .cs sel).thenDo fun _ h => h.keep.next

theorem frames_jmp (f : JmpForm) : Frames (mayChange (.jmp f)) W s (execJmp f s) := by
  cases f with
  | jb rel | jw rel | rmw rm => exact (Frame.refl _ W s).keep.next
  | pw off sel | mp m => exact (Frame.refl _ W s).farTransfer rfl rfl _ _

end

end Sys2Proof.Machine
end

section
/-! The frames of the stack and FPU instructions, of a delivery, and of every instruction; from them O11, O12
and O13. -/

namespace Sys2Proof.Machine

/-! ### Pushes (R201) -/

/-- From `s` to `t`, `k` words of size `z` were pushed, in a frame. -/
structure PushFrame (may : Leave) (s : State) (z : Size) (k : ℕ) (t : State) : Prop where
  ptr : t.stackPtr = s.spDown (k * z.bytes)
  ssB : t.ssB = s.ssB
  seg : t.seg = s.seg
  frame : Frame may (WritesByte (s.pushes z k)) s t

section
variable {may : Leave} {W : ℕ → Prop} {s t : State} {z : Size} {k : ℕ}

theorem Frame.push (h : Frame may W s t) {v : BitVec z.bits} (hW : ∀ p, InSpan (t.pushedAt z 1) z.bytes p → W p) :
    Frame may W s (t.push z v) := by
  rw [push_eq]
  exact Frame.memWrite (w := z.width) (h.keep (u := t.setStackPtr _)) hW

theorem pushFrame_zero (may : Leave) (s : State) (z : Size) : PushFrame may s z 0 s where
  ptr := by rw [Nat.zero_mul, spDown_zero]
  ssB := rfl
  seg := rfl
  frame := .refl may _ s

theorem PushFrame.push (h : PushFrame may s z k t) (v : BitVec z.bits) : PushFrame may s z (k + 1) (t.push z v) where
  ptr := by rw [stackPtr_push, spDown_of_down h.ssB _ h.ptr, Nat.succ_mul]
  ssB := h.ssB
  seg := h.seg
  frame := by
    have haddr : t.pushedAt z 1 = s.pushedAt z (k + 1) := by
      rw [State.pushedAt, lin_congr h.seg, spDown_of_down h.ssB _ h.ptr, Nat.one_mul, ← Nat.succ_mul]
      rfl
    rw [pushes_succ]
    refine (h.frame.mono fun _ => writes_left).push fun p hp => writes_right ((writesByte_write ..).2 ?_)
    rwa [haddr] at hp

theorem frame_push (v : BitVec z.bits) : Frame may (WritesByte (s.pushes z 1)) s (s.push z v) :=
  ((pushFrame_zero may s z).push v).frame

theorem frames_push (f : PushForm) : Frames may (WritesByte (s.pushAccesses f)) s (execPush f s) := by
  cases f with
  | sreg sr | rw r | iw imm | ib imm => exact (frame_push _).done
  | rmw rm => exact ((frame_push _).mono fun _ => writes_right).done

theorem frame_pushAll : Frame may (WritesByte (s.pushes z 8)) s (s.pushAll z) :=
  ((((((((pushFrame_zero may s z).push _).push _).push _).push _).push _).push _).push _).push _ |>.frame

theorem frames_call (f : CallForm) : Frames (mayChange (.call f)) (WritesByte (s.callAccesses f)) s (execCall f s) := by
  have far {may : Leave} (hs : may.segs = true) (hc : may.ctl = false) (sel : BitVec 16) (off : BitVec 32) :
      Frames may (WritesByte (s.pushes s.opsz 2)) s (farCall sel off s) :=
    (((pushFrame_zero may s s.opsz).push _).push _).frame.farTransfer hs hc sel off
  cases f with
  | jw rel => exact (frame_push _).keep.next
  | pw off sel => exact far rfl rfl _ _
  | rmw rm => exact ((frame_push _).mono fun _ => writes_right).keep.next
  | mp m => exact (far rfl rfl _ _).mono fun _ => writes_right

/-! ### ENTER and POP (R274 to R276, R444) -/

theorem wf_enterCopies (h : s.mem.wf = true) (k : ℕ) : (s.enterCopies z k).mem.wf = true := by
  induction k with
  | zero =>
    rw [State.enterCopies, mem_push_pushedAt]
    exact memWrite_wf h _ _ _
  | succ k ih =>
    rw [State.enterCopies, mem_enterCopy]
    exact memWrite_wf ih _ _ _

theorem wf_enterPushes (h : s.mem.wf = true) (k : ℕ) : (s.enterPushes z k).mem.wf = true := by
  cases k with
  | zero => exact wf_enterCopies h 0
  | succ k =>
    rw [State.enterPushes, mem_push_pushedAt]
    exact memWrite_wf (wf_enterCopies h k) _ _ _

/-- Every push of ENTER is one of its calls. -/
theorem writes_enter_of_pushedAt {imm : BitVec 8} {i : ℕ} (h1 : 1 ≤ i) (hi : i ≤ imm.toNat % 32 + 1) {p : ℕ}
    (hp : InSpan (s.pushedAt s.opsz i) s.opsz.bytes p) : WritesByte (s.enterAccesses imm) p := by
  refine ⟨_, _, ?_, hp⟩
  unfold State.enterAccesses
  rw [List.cons_append, List.mem_cons, List.mem_append, List.mem_flatMap]
  obtain rfl | h1 := Nat.eq_or_lt_of_le h1
  · exact .inl rfl
  obtain rfl | hi := Nat.eq_or_lt_of_le hi
  · rw [if_neg (by omega)]
    exact .inr (.inr (List.mem_singleton.2 rfl))
  · obtain ⟨j, rfl⟩ := Nat.exists_eq_add_of_le' h1
    exact .inr (.inl ⟨j, List.mem_range.2 (by omega), List.mem_cons_of_mem _ (List.mem_singleton.2 rfl)⟩)

theorem frames_enter (size : BitVec 16) (imm : BitVec 8) :
    Frames may (WritesByte (s.enterAccesses imm)) s (exec (.enter size imm) s) := by
  have hframe := enterFrame_enterPushes s s.opsz (d := imm.toNat % 32) ((Nat.mod_lt _ (by decide)).trans (by decide))
  obtain ⟨hsegs, hfpu, hctl, hdbg, -, -, hports, hbus, -⟩ := hframe.rest
  obtain ⟨hseg, hD, hB⟩ := hsegs
  have hpushes : Frame may (WritesByte (s.enterAccesses imm)) s (s.enterPushes s.opsz (imm.toNat % 32)) :=
    ⟨fun _ => hctl, fun _ => hdbg, fun _ => ⟨hseg, hD, hB⟩, fun _ => hports, fun _ => hfpu, fun _ => hframe.flags,
      hbus, fun h => wf_enterPushes h _,
      fun p hp => hframe.bytes p fun i h1 hi hin => hp (writes_enter_of_pushedAt h1 hi hin), fun _ ⟨h1, h2, h3⟩ =>
      ⟨hD.trans h1, hB.trans h2, hseg ▸ h3⟩⟩
  rw [exec_enter rfl]
  exact hpushes.keep.next

theorem frame_popped (W : ℕ → Prop) (s : State) (z : Size) : Frame may W s (s.popped z) := (Frame.refl may W s).keep

theorem frames_pop (f : PopForm) : Frames (mayChange (.pop f)) (WritesByte (s.popAccesses f)) s (execPop f s) := by
  cases f with
  | sreg sr => exact frames_loadSeg_done rfl rfl sr _ (frame_popped _ s _)
  | rw r => exact (frame_popped _ s s.opsz).keep.done
  | rmw rm => exact ((frame_popped _ s s.opsz).writeRM fun _ => writes_right).done

theorem frames_iret : Frames (mayChange .iret) W s (execIret s) :=
  ((((frame_popped W s s.opsz).keep.keep : Frame _ W s (((s.popped s.opsz).popped s.opsz).popped s.opsz))).loadSeg
    rfl rfl .cs _).thenDo fun _ h => (h.setFlags rfl).next

theorem frames_retf (f : RetForm) : Frames (mayChange (.retf f)) W s (execRetf f s) :=
  ((frame_popped W s s.opsz).keep (u := (s.popped s.opsz).popped s.opsz) |>.loadSeg rfl rfl .cs _).thenDo
    fun _ h => h.keep.next

/-! ### Deliveries (R671, R676) -/

theorem pushFrame_pushFrame (hm : may.flags = true) (ip : BitVec 32) : PushFrame may s .s16 3 (s.pushFrame ip) := by
  have hflags := (pushFrame_zero may s .s16).push (s.flagsWord .s16)
  have hmask : PushFrame may s .s16 1 { s.push .s16 (s.flagsWord .s16) with flags := s.flags.masked } :=
    ⟨hflags.ptr, hflags.ssB, hflags.seg, hflags.frame.setFlags hm⟩
  exact (hmask.push (s.sel .cs)).push (ip.setWidth 16)

theorem frames_raiseVector (hm : may.flags = true) (hs : may.segs = true) (hc : may.ctl = false) (v : BitVec 8)
    (ip : BitVec 32) : Frames may (WritesByte (s.deliveryAccesses v)) s (raiseVector v ip s) := by
  have hframe : Frame may (WritesByte (s.deliveryAccesses v)) s (s.pushFrame ip) :=
    (pushFrame_pushFrame hm ip).frame.mono fun _ => writes_left
  refine Frames.thenDo (.ite (frames_refused _) ?_) fun _ h => h.keep.next
  exact (hframe.loadSeg hs hc .cs _).thenDo fun _ h => h.keep.next

/-! ### The FPU (R530) -/

theorem frames_fpuDone (hm : may.fpu = true) (f : Fpu) : Frames may W s (fpuDone s f) :=
  ((Frame.refl may W s).setFpu hm f).done

theorem frame_storeSpan (m : MemOp) {n : ℕ} {bs : List Byte} (hn : bs.length = n) (hle : n ≤ 2 ^ 32) :
    Frame may (WritesByte (spanWrites (s.memAddr m) n)) s (s.memWriteSpan (s.memAddr m) bs) :=
  (Frame.refl may _ s).memWriteSpan hn hle fun p => (writesByte_spanWrites _ _ p).2

theorem frames_fst (hm : may.fpu = true) (f : FstForm) : Frames may (WritesByte (s.fstWrites f)) s (execFst f s) := by
  cases f with
  | mf32 m => exact (frame_memWrite .w32 _ _).done
  | mf64 m => exact (frame_storeSpan m (leBytes_length 8 _) (by norm_num)).done
  | st i => exact frames_fpuDone hm _

theorem frames_fstp (hm : may.fpu = true) (f : FldForm) : Frames may (WritesByte (s.fstpWrites f)) s (execFstp f s) := by
  cases f with
  | mf32 m => exact ((frame_memWrite .w32 _ _).setFpu hm _).done
  | mf64 m => exact ((frame_storeSpan m (leBytes_length 8 _) (by norm_num)).setFpu hm _).done
  | mf80 m => exact ((frame_storeSpan m (leBytes_length 10 _) (by norm_num)).setFpu hm _).done
  | st i => exact frames_fpuDone hm _

theorem frames_fistp (hm : may.fpu = true) (f : FildForm) :
    Frames may (WritesByte (s.fistpWrites f)) s (execFistp f s) := by
  cases f with
  | m16 m => exact ((frame_memWrite .w16 _ _).setFpu hm _).done
  | m32 m => exact ((frame_memWrite .w32 _ _).setFpu hm _).done
  | m64 m => exact ((frame_storeSpan m (leBytes_length 8 _) (by norm_num)).setFpu hm _).done

theorem frames_fpu {i : Instr} (hi : isFpu i = true) :
    Frames (mayChange i) (WritesByte (s.accesses i)) s (exec i s) := by
  have henv := envSize_le s.opsz
  have hsave : envSize s.opsz + 80 ≤ 2 ^ 32 := by omega
  cases i with
  | fst f => exact frames_fst rfl f
  | fstp f => exact frames_fstp rfl f
  | fist f =>
    cases f with
    | m16 m => exact (frame_memWrite .w16 _ _).done
    | m32 m => exact (frame_memWrite .w32 _ _).done
  | fistp f => exact frames_fistp rfl f
  | fbstp m => exact ((frame_storeSpan m (f64ToBcd_length _ _) (by norm_num)).setFpu rfl _).done
  | fnstcw m => exact (frame_memWrite .w16 _ _).done
  | fnstsw f =>
    cases f with
    | m16 m => exact (frame_memWrite .w16 _ _).done
    | ax => exact frames_writeReg .w16 .eax _
  | fnstenv m => exact ((frame_storeSpan m (s.fpu.envBytes_length _) (by omega)).setFpu rfl _).done
  | fnsave m => exact ((frame_storeSpan m (s.fpu.saveBytes_length _) hsave).setFpu rfl _).done
  | fnop | feni | fdisi | fsetpm | fnclex => exact (Frame.refl _ _ s).done
  | fld f | fild f => cases f <;> exact frames_fpuDone rfl _
  | fadd f | fmul f | fsub f | fsubr f | fdiv f | fdivr f | fiadd f | fimul f | fisub f | fisubr f
  | fidiv f | fidivr f | faddp f | fmulp f | fsubp f | fsubrp f | fdivp f | fdivrp f => exact frames_fpuDone rfl _
  | fcom f | fcomp f | ficom f | ficomp f | fucom f | fucomp f | fcompp | fucompp | ftst | fxam =>
    exact frames_fpuDone rfl _
  | fbld m | fldenv m | fldcw m | frstor m => exact frames_fpuDone rfl _
  | fld1 | fldl2t | fldl2e | fldpi | fldlg2 | fldln2 | fldz => exact frames_fpuDone rfl _
  | fxch i | ffree i | fdecstp | fincstp | fninit => exact frames_fpuDone rfl _
  | fchs | fabs | f2xm1 | fyl2x | fptan | fpatan | fxtract | fprem1 | fprem | fyl2xp1 | fsqrt | fsincos
  | frndint | fscale | fsin | fcos => exact frames_fpuDone rfl _
  | _ => exact nomatch hi

/-! ### Every instruction -/

/-- The instructions that raise no vector. -/
theorem frames_exec {i : Instr} (hf : isFpu i = false) (hi : endsOtherwise i = false) :
    Frames (mayChange i) (WritesByte (s.accesses i)) s (exec i s) := by
  cases i with
  | pfxEs | pfxCs | pfxSs | pfxDs | pfxFs | pfxGs | pfxOpsize | pfxAdsize | pfxLock | pfxRepne | pfxRep =>
    exact (Frame.refl _ _ s).keep.next
  | add f => exact frames_aluWrite rfl (fun fl a b => flagsAdd fl a b false) f
  | or f => exact frames_aluWrite rfl (fun fl a b => logicOut fl (a ||| b)) f
  | adc f => exact frames_aluWrite rfl (fun fl a b => flagsAdd fl a b fl.CF) f
  | sbb f => exact frames_aluWrite rfl (fun fl a b => flagsSub fl a b fl.CF) f
  | and f => exact frames_aluWrite rfl (fun fl a b => logicOut fl (a &&& b)) f
  | sub f => exact frames_aluWrite rfl (fun fl a b => flagsSub fl a b false) f
  | xor f => exact frames_aluWrite rfl (fun fl a b => logicOut fl (a ^^^ b)) f
  | cmp f | test f => exact ((Frame.refl _ _ s).setFlags rfl).done
  | push f => exact frames_push f
  | pop f => exact frames_pop f
  | pusha => exact frame_pushAll.done
  | popa => exact Frame.next ((Frame.refl _ _ s).keep (u := (s.popAll s.opsz).retire))
  | pushf => exact (frame_push _).done
  | popf => exact ((Frame.refl _ _ s).setFlags rfl).done
  | daa | das | aaa | aas | aad imm | sahf => exact ((Frame.refl _ _ s).setFlags rfl).done
  | inc f | dec f | neg f => exact frames_modify rfl _
  | not f => exact ((frame_writeRM _ _ _).mono fun _ => writes_right).done
  | mul f => exact frames_product rfl _ _ _
  | imul f => exact frames_imul rfl f
  | movs f => exact frames_movs f
  | cmps f => exact frames_cmps rfl f
  | scas f => exact frames_scas rfl f
  | stos f => exact frames_stos f
  | lods f => exact frames_lods f
  | ins f => exact frames_ins rfl f
  | outs f => exact frames_outs rfl f
  | jo f | jno f | jb f | jnb f | jz f | jnz f | jbe f | jnbe f => exact frames_jcc _ f
  | js f | jns f | jp f | jnp f | jl f | jnl f | jle f | jnle f => exact frames_jcc _ f
  | jcxz rel => exact (Frame.refl _ _ s).branchIf _ _
  | loop rel | loope rel | loopne rel => exact (Frame.refl _ _ s).keep.branchIf _ _
  | xchg f => cases f <;> exact frames_exchange _ _ _
  | mov f => exact frames_mov f
  | lea r m | cwd | lahf | xlat => exact frames_writeReg _ _ _
  | nop | wait => exact (Frame.refl _ _ s).done
  | cbw =>
    simp only [exec, execCbw]
    split <;> exact frames_writeReg _ _ _
  | clc | stc | cmc | cli | sti | cld | std => exact ((Frame.refl _ _ s).setFlags rfl).done
  | call f => exact frames_call f
  | jmp f => exact frames_jmp f
  | ret f => exact (Frame.refl _ _ s).keep.next
  | retf f => exact frames_retf f
  | iret => exact frames_iret
  | enter size imm => exact frames_enter size imm
  | leave => exact Frame.next ((Frame.refl _ _ s).keep (u := (s.leaveFrame s.opsz).retire))
  | rol f | ror f | rcl f | rcr f | shl f | shr f | sar f => exact frames_shiftExec rfl _ f
  | shld f | shrd f => exact frames_doubleShiftExec rfl _ f
  | les r m | lds r m | lss r m | lfs r m | lgs r m => exact frames_loadFarPointer rfl rfl _ r m
  | inp f => exact frames_in rfl f
  | out f => exact frames_out rfl f
  | seto rm | setno rm | setb rm | setnb rm | setz rm | setnz rm | setbe rm | setnbe rm => exact frames_setcc _ rm
  | sets rm | setns rm | setp rm | setnp rm | setl rm | setnl rm | setle rm | setnle rm => exact frames_setcc _ rm
  | bt f => exact ((Frame.refl _ _ s).setFlags rfl).done
  | bts f => exact frames_bitModify rfl (fun word mask => word ||| mask) f
  | btr f => exact frames_bitModify rfl (fun word mask => word &&& ~~~mask) f
  | btc f => exact frames_bitModify rfl (fun word mask => word ^^^ mask) f
  | movzx f | movsx f => cases f <;> exact frames_writeReg _ _ _
  | bsf r rm | bsr r rm => exact frames_bitScan rfl _ r rm
  | int3 | int v | into | bound r mo | div f | idiv f | aam imm | hlt => exact nomatch hi
  | _ => exact nomatch hf

end

end Sys2Proof.Machine
end

section
/-! What every instruction may change, and the invariants of a step: O11, O12 and O13. -/

namespace Sys2Proof.Machine

section
variable {i : Instr} {s t : State}

/-- An instruction that raises a vector where a condition holds, and else does what is in its frame. -/
theorem frame_of_raises {c : Prop} [Decidable c] {v : BitVec 8} {ip : BitVec 32} {o : Result}
    (hf : changesFlags i = true) (hs : loadsSelector i = true) (hc : changesCtl i = false)
    (he : exec i s = if c then raiseVector v ip s else o)
    (ho : Frames (mayChange i) (WritesByte (s.accesses i)) s o) (ht : exec i s = .next t) :
    Frame (mayChange i) (WritesByte (s.accessesTo i t)) s t := by
  rw [he] at ht
  split at ht
  · rw [accessesTo_delivered (result_raiseVector ht)]
    exact (frames_raiseVector hf hs hc v ip t ht).mono fun _ => writes_right
  · exact (ho t ht).mono fun _ => writes_left

/-- Every instruction changes only what `mayChange` names and only bytes its calls write. -/
theorem frame_exec (ht : exec i s = .next t) : Frame (mayChange i) (WritesByte (s.accessesTo i t)) s t := by
  by_cases hf : isFpu i = true
  · exact (frames_fpu hf t ht).mono fun _ => writes_left
  by_cases hi : endsOtherwise i = true
  · cases i with
    | int3 | int v =>
      exact frame_of_raises (c := True) rfl rfl rfl (if_pos trivial).symm (Frame.refl _ _ s).done ht
    | into | bound r mo => exact frame_of_raises rfl rfl rfl rfl (Frame.refl _ _ s).done ht
    | div f | idiv f => exact frame_of_raises rfl rfl rfl rfl ((Frame.refl _ _ s).writeQuotient _ _ _).done ht
    | aam imm => exact frame_of_raises rfl rfl rfl rfl ((Frame.refl _ _ s).setFlags rfl).done ht
    | hlt => exact (Frame.refl _ _ s).keep.next t ht
    | _ => exact nomatch hi
  · exact (frames_exec (Bool.eq_false_iff.2 hf) (Bool.eq_false_iff.2 hi) t ht).mono fun _ => writes_left

/-- A step that completes ran one instruction and recorded its calls. -/
theorem exec_of_step (h : step s = .next t) : ∃ (d : Decoded) (u : State),
    exec d.instr ({ s.beginStep with pfx := d.pfx }.withLength d.length) = .next u ∧
      t = { u with pfx := .empty, nextEip := 0, bus := t.bus } := by
  obtain ⟨d, -, hd⟩ := step_next h
  obtain ⟨u, hu, rfl⟩ := runInstr_next hd
  exact ⟨d, u, hu, rfl⟩

end

/-- Settles O11: the meaning keeps the memory canonical, and the end of the step empties PrefixState. -/
theorem invKept : Obligations.InvKept := by
  rintro s t ⟨hwf, -, -⟩ h
  obtain ⟨d, u, hu, ht⟩ := exec_of_step h
  rw [ht]
  exact ⟨(frame_exec hu).wf hwf, rfl, rfl⟩

/-- Settles O12: outside protected mode every selector load stores 16 times the selector, and nothing else
changes a segment register. -/
theorem realModeKept : Obligations.RealModeKept := by
  rintro s t ⟨hp, hsegs⟩ h hpt
  obtain ⟨d, u, hu, ht⟩ := exec_of_step h
  refine ⟨hpt, ?_⟩
  rw [ht]
  exact (frame_exec hu).real hp hsegs

/-! ### Which instructions change what -/

theorem changesCtl_eq_false {i : Instr} (h : ∀ c r, i ≠ .mov (.crnR32 c r)) : changesCtl i = false := by
  unfold changesCtl
  split
  · next c r => exact absurd rfl (h c r)
  · rfl

theorem changesDbg_eq_false {i : Instr} (h : ∀ d r, i ≠ .mov (.drnR32 d r)) : changesDbg i = false := by
  unfold changesDbg
  split
  · next d r => exact absurd rfl (h d r)
  · rfl

theorem usesPorts_eq_false {i : Instr} (hin : ∀ f, i ≠ .inp f) (hout : ∀ f, i ≠ .out f) (hins : ∀ f, i ≠ .ins f)
    (houts : ∀ f, i ≠ .outs f) : usesPorts i = false := by
  unfold usesPorts
  split
  · next f => exact absurd rfl (hin f)
  · next f => exact absurd rfl (hout f)
  · next f => exact absurd rfl (hins f)
  · next f => exact absurd rfl (houts f)
  · rfl

theorem changesFlags_of_isFpu {i : Instr} (h : isFpu i = true) : changesFlags i = false := by
  have hboth : (isFpu i && changesFlags i) = false := by cases i <;> rfl
  simpa [h] using hboth

/-- Settles O13: the clauses are the parts of the frame of `exec`. -/
theorem whoChangesWhat : Obligations.WhoChangesWhat := by
  intro i s t ht
  have h := frame_exec ht
  exact ⟨fun hi => h.ctl (changesCtl_eq_false hi), fun hi => h.dbg (changesDbg_eq_false hi), h.segs,
    fun h1 h2 h3 h4 => h.ports (usesPorts_eq_false h1 h2 h3 h4), h.fpu,
    fun hi => h.flags (changesFlags_of_isFpu hi), h.flags, h.bytes, h.bus⟩

end Sys2Proof.Machine
end

section
/-! A step by `decodeAt`, the register views, and the state after reset: O5, O8 and O10. -/

namespace Sys2Proof.Machine

/-- Settles O5: the step is `runInstr` of what `decodeAt` answers over the window. -/
theorem stepMatchesDecodeAt : Obligations.StepMatchesDecodeAt := by
  intro s M fetch
  rw [step_eq_decodeAt, window_eq]
  cases decodeAt s.csD _ with
  | none => rfl
  | some d =>
    dsimp only [Option.elim_some]
    rw [runInstr_eq, fetches_eq, withLength_eq]
    rfl

/-- Settles O8: a write replaces the bits of its view, and the codes name the views of R21. -/
theorem registerViews : Obligations.RegisterViews :=
  ⟨fun s w r v => ⟨readReg_writeReg s w r v, onlyView_writeReg s w r v, rfl, rfl, rfl, sameRest_writeRM s w (.reg r) v⟩,
    fun _ _ => ⟨rfl, rfl⟩, fun _ => ⟨rfl, rfl, rfl, rfl, rfl, rfl, rfl, rfl⟩⟩

/-- Settles O10: each value is that of `State.reset`, and a selector of 0 has the base 0. -/
theorem resetValues : Obligations.ResetValues := by
  have hslot (k : BitVec 3) : State.reset.fpu.reg k = 0 ∧ State.reset.fpu.used k = false := by
    revert k
    decide
  exact ⟨fun r => by cases r <;> rfl, fun r => by cases r <;> exact ⟨rfl, rfl⟩, rfl, rfl, rfl, rfl, rfl,
    fun c => by cases c <;> rfl, fun d => by cases d <;> rfl, rfl, hslot, rfl, by decide, by decide, rfl, rfl, rfl,
    rfl, rfl, rfl, ⟨reset_wf, rfl, rfl⟩, rfl, rfl, rfl, fun r => by cases r <;> rfl⟩

end Sys2Proof.Machine
end

section
/-! The EFLAGS image bit by bit, and the instructions that move it: O37. -/

namespace Sys2Proof.Machine

/-- Where each flag stands in the image (R33). -/
theorem image_bits (f : Flags) : f.image.getLsbD 0 = f.CF ∧ f.image.getLsbD 2 = f.PF ∧ f.image.getLsbD 4 = f.AF ∧
    f.image.getLsbD 6 = f.ZF ∧ f.image.getLsbD 7 = f.SF ∧ f.image.getLsbD 8 = f.TF ∧
    f.image.getLsbD 9 = f.IF ∧ f.image.getLsbD 10 = f.DF ∧ f.image.getLsbD 11 = f.OF ∧
    f.image.extractLsb' 12 2 = f.IOPL ∧ f.image.getLsbD 14 = f.NT := by
  refine ⟨?_, ?_, ?_, ?_, ?_, ?_, ?_, ?_, ?_, BitVec.eq_of_getLsbD_eq fun i hi => ?_, ?_⟩
  case refine_10 => interval_cases i <;> simp [Flags.image, flagBit]
  all_goals simp [Flags.image, flagBit]

/-- The named flags lie in the low 15 bits (R33). -/
theorem ofImage_congr {m n : ℕ} {v : BitVec m} {v' : BitVec n} (h : ∀ k, k < 15 → v.getLsbD k = v'.getLsbD k) :
    Flags.ofImage v = Flags.ofImage v' := by
  have hiopl : v.extractLsb' 12 2 = v'.extractLsb' 12 2 := BitVec.eq_of_getLsbD_eq fun i hi => by
    simp only [BitVec.getLsbD_extractLsb', h (12 + i) (by omega)]
  simp only [Flags.ofImage, hiopl, h 0, h 2, h 4, h 6, h 7, h 8, h 9, h 10, h 11, h 14, Nat.reduceLT]

@[simp] theorem ofImage_image (f : Flags) : Flags.ofImage f.image = f := by
  obtain ⟨h0, h2, h4, h6, h7, h8, h9, h10, h11, h12, h14⟩ := image_bits f
  simp only [Flags.ofImage, h0, h2, h4, h6, h7, h8, h9, h10, h11, h12, h14]

theorem ofImage_setWidth (f : Flags) {n : ℕ} (hn : 16 ≤ n) : Flags.ofImage (f.image.setWidth n) = f :=
  (ofImage_congr fun k hk => by simp [show k < n by omega]).trans (ofImage_image f)

/-- An image written and read again has bit 1 set and the other reserved bits clear (R33). -/
theorem image_ofImage (v : BitVec 32) : (Flags.ofImage v).image = v &&& 0x7FD5 ||| 0x0002 := by
  refine BitVec.eq_of_getLsbD_eq fun i hi => ?_
  interval_cases i <;> simp [Flags.image, Flags.ofImage, flagBit]

/-- Settles O37: the image is its bits; POPF, LAHF and SAHF write the flags or AH, and nothing else. -/
theorem flagWords : Obligations.FlagWords := by
  refine ⟨ofImage_image, image_ofImage, fun v => ?_, image_bits, fun s => ⟨?_, ?_, rfl⟩⟩
  · rw [← image_ofImage, ofImage_congr (v' := v.setWidth 32) fun k hk => by simp [show k < 32 by omega]]
  · exact ⟨_, rfl, rfl, stackPtr_popped s s.opsz, congrArg Flags.ofImage (popValue_eq s s.opsz),
      onlyView_popped s s.opsz, rfl, ⟨rfl, rfl, rfl⟩, rfl, rfl, rfl, rfl, rfl, rfl, rfl, rfl⟩
  · exact ⟨_, rfl, wrote_writeReg s .w8 .esp _ s.flags⟩

end Sys2Proof.Machine
end

section
/-! Selector loads: the segment register a load stores, and the loads of MOV, POP and the far-pointer
instructions: O29. -/

namespace Sys2Proof.Machine

section
variable {s t : State} {r : SegReg} {sel : BitVec 16} (h : t.ctl = s.ctl) (k : State → Result)
include h

/-- What follows a selector load runs in the state with the register loaded (R27). -/
theorem thenDo_loadSeg_some {d : Descriptor} (hd : segmentFor s r sel = some d) :
    thenDo (loadSeg r sel t) k = k (t.setSeg r sel d.base d.big) := by
  rw [loadSeg_eq, segmentFor_congr h, hd]
  rfl

theorem thenDo_loadSeg_none (hd : segmentFor s r sel = none) :
    thenDo (loadSeg r sel t) k = .refused .descLookup := by
  rw [loadSeg_eq, segmentFor_congr h, hd]
  rfl

end

/-- Settles O29: each load is `loadSeg` of its selector, and `setSeg` replaces one segment register and its
hidden bit. -/
theorem segmentLoads : Obligations.SegmentLoads := by
  intro s z loaded
  have load {i : Instr} {r : SegReg} {sel : BitVec 16} {before t : State} {k : State → Result}
      (hi : exec i s = thenDo (loadSeg r sel t) k) (ht : t.ctl = s.ctl) (hk : ∀ base big,
        k (t.setSeg r sel base big) = .next { before.setSeg r sel base big with eip := s.nextEip }) :
      loaded i r sel before := by
    unfold loaded
    rw [hi]
    cases hd : segmentFor s r sel with
    | none => exact thenDo_loadSeg_none ht k hd
    | some d => exact (thenDo_loadSeg_some ht k hd).trans (hk d.base d.big)
  refine ⟨fun _ _ => rfl, fun r sel base big => ⟨rfl, setSeg_get_self s r sel base big,
    fun q hq => setSeg_get_of_ne s sel base big hq⟩, fun sr rm => load rfl rfl fun _ _ => rfl,
    fun sr => load rfl rfl fun _ _ => rfl, fun sr i r m hi => ?_, fun r sr => ⟨_, rfl, wrote_writeReg s s.opw r _ s.flags⟩,
    fun m sr => ⟨_, rfl, wrote_writeRM s .w16 (.mem m) _ s.flags⟩⟩
  cases sr with
  | cs => exact nomatch hi
  | es | ss | ds | fs | gs =>
    cases hi
    exact load rfl rfl fun _ _ => rfl

end Sys2Proof.Machine
end

section
/-! The FPU stores: the number each leaves at its operand: O52. -/

namespace Sys2Proof.Machine

theorem memReadSpan_toNat (s : State) (a : BitVec 32) (w : ℕ) {n : ℕ} (hn : n ≤ 2 ^ 32) (hw : 2 ^ w = 256 ^ n)
    (v : BitVec w) : (s.memWriteSpan a (leBytes n v.toNat)).memReadSpan n a = v.toNat := by
  have h := memReadSpan_memWriteSpan s a (leBytes n v.toNat) ((leBytes_length n _).symm ▸ hn)
  rwa [leBytes_length, leNat_leBytes, ← hw, Nat.mod_eq_of_lt v.isLt] at h

/-- Settles O52: each store is one `memWriteSpan` of the bytes of its number. -/
theorem fpuStores : Obligations.FpuStores := by
  intro s top rc stores
  have word (m : MemOp) (v : BitVec 16) := memReadSpan_toNat s (s.memAddr m) 16 (n := 2) (by norm_num) (by norm_num) v
  have dword (m : MemOp) (v : BitVec 32) := memReadSpan_toNat s (s.memAddr m) 32 (n := 4) (by norm_num) (by norm_num) v
  have qword (m : MemOp) (v : BitVec 64) := memReadSpan_toNat s (s.memAddr m) 64 (n := 8) (by norm_num) (by norm_num) v
  have tword (m : MemOp) (v : BitVec 80) := memReadSpan_toNat s (s.memAddr m) 80 (n := 10) (by norm_num) (by norm_num) v
  have packed (m : MemOp) : (s.memWriteSpan (s.memAddr m) (f64ToBcd rc top)).memReadSpan 10 (s.memAddr m) =
      leNat (f64ToBcd rc top) := by
    have h := memReadSpan_memWriteSpan s (s.memAddr m) (f64ToBcd rc top)
    rw [f64ToBcd_length] at h
    exact h (by norm_num)
  exact ⟨fun m => ⟨_, rfl, dword m _, rfl⟩, fun m => ⟨_, rfl, qword m _, rfl⟩, fun m => ⟨_, rfl, dword m _, rfl⟩,
    fun m => ⟨_, rfl, qword m _, rfl⟩, fun m => ⟨_, rfl, tword m _, rfl⟩, fun m => ⟨_, rfl, word m _, rfl⟩,
    fun m => ⟨_, rfl, dword m _, rfl⟩, fun m => ⟨_, rfl, word m _, rfl⟩, fun m => ⟨_, rfl, dword m _, rfl⟩,
    fun m => ⟨_, rfl, qword m _, rfl⟩, fun m => ⟨_, rfl, packed m, rfl⟩, fun m => ⟨_, rfl, word m _, rfl⟩,
    fun m => ⟨_, rfl, word m _, rfl⟩, ⟨_, rfl, wrote_writeReg s .w16 .eax _ s.flags⟩, fun _ => rfl, fun _ => rfl⟩

end Sys2Proof.Machine
end

section
/-! PUSH, PUSHF and POP: O35. -/

namespace Sys2Proof.Machine

theorem toNat_stackPtr (s : State) : s.stackPtr.toNat = (s.readReg s.stksz.width .esp).toNat := by
  have hlt := (s.readReg s.stksz.width .esp).isLt
  have hle : s.stksz.width.bits ≤ 32 := by cases s.stksz <;> decide
  exact BitVec.toNat_setWidth_of_le hle

/-- One push followed by a jump leaves the rest of the state (R201, R432). -/
theorem pushed_jumpTo (s : State) (z : Size) (v : BitVec z.bits) (e : BitVec 32) :
    let t := (s.push z v).jumpTo e
    t.eip = e ∧ t.flags = s.flags ∧ SameRest s t ∧ Pushed s t z v := by
  obtain ⟨hspace, hword⟩ := pushed_push s z v
  exact ⟨rfl, rfl, ⟨⟨rfl, rfl, rfl⟩, rfl, rfl, rfl, rfl, rfl, rfl, rfl, rfl⟩,
    pushedSpace_congr hspace rfl rfl rfl rfl, hword⟩

/-- A word popped into a register (R202, R274). -/
theorem popReg_retire (s : State) (z : Size) (r : Reg) :
    let t := (s.popReg z r).retire
    t.eip = s.nextEip ∧ t.flags = s.flags ∧ t.readReg z.width r = s.memRead z.width (s.slot z 0) ∧
      (r ≠ .esp → t.stackPtr = s.spUp z.bytes) ∧ OnlyViews z.width r s.stksz.width .esp s t ∧
      t.mem = s.mem ∧ SameRest s t :=
  ⟨rfl, rfl, readReg_popReg_self s z r, stackPtr_popReg s z,
    (onlyView_popped s z).right.trans (onlyView_writeReg (s.popped z) z.width r _).left, rfl,
    ⟨rfl, rfl, rfl⟩, rfl, rfl, rfl, rfl, rfl, rfl, rfl, rfl⟩

/-- Settles O35: the pushes are `push`; POP pops a word and writes a register, the operand or a selector. -/
theorem pushPop : Obligations.PushPop := by
  intro s z pushes
  have hpush (v : BitVec z.bits) := pushed_jumpTo s z v s.nextEip
  refine ⟨⟨toNat_stackPtr s, fun k => ⟨toNat_spUp s k, toNat_spDown s k, rfl⟩⟩, fun _ => ⟨_, rfl, hpush _⟩,
    fun _ => ⟨_, rfl, hpush _⟩, fun _ => ⟨_, rfl, hpush _⟩, fun _ => ⟨_, rfl, hpush _⟩, fun _ => ⟨_, rfl, hpush _⟩,
    ⟨_, rfl, hpush _⟩, fun r => ⟨_, rfl, popReg_retire s z r⟩, fun r => ⟨_, rfl, popReg_retire s z r⟩, fun m => ?_,
    fun sr => ?_⟩
  · have hwrote := wrote_writeRM (s.popped z) z.width (.mem m) (s.popValue z) s.flags
    obtain ⟨-, hread, -, ⟨hgpr, hmem⟩, hrest⟩ := hwrote
    exact ⟨_, rfl, rfl, rfl, stackPtr_popped s z, onlyView_popped s z, hrest, (popValue_eq s z) ▸ hread, hmem⟩
  · intro sel
    have hexec : exec (.pop (.sreg sr)) s = thenDo (loadSeg sr sel (s.popped z)) done :=
      congrArg (fun v : BitVec z.bits => thenDo (loadSeg sr (v.setWidth 16) (s.popped z)) done) (popValue_eq s z)
    rw [hexec]
    cases hd : segmentFor s sr sel with
    | none => exact thenDo_loadSeg_none rfl done hd
    | some d =>
      exact ⟨_, thenDo_loadSeg_some rfl done hd, rfl, rfl, rfl, rfl, rfl, stackPtr_popped s z, onlyView_popped s z, rfl,
        rfl, rfl, rfl, rfl, rfl, rfl, rfl, rfl⟩

end Sys2Proof.Machine
end

section
/-! CALL, RET and RETF: O40. -/

namespace Sys2Proof.Machine

/-- Two words pushed, the later one lower (R201). -/
theorem pushed_push_push (s : State) (z : Size) (v v' : BitVec z.bits) :
    let t := (s.push z v).push z v'
    PushedSpace s t z 2 ∧ t.memRead z.width (t.slot z 0) = v' ∧ t.memRead z.width (t.slot z 1) = v := by
  obtain ⟨hspace, hword⟩ := pushed_push s z v
  exact ⟨hspace.push rfl v', memRead_push _ z v', (memRead_push_slot_succ _ z v' (by decide)).trans hword⟩

/-- A far call leaves the return address on the stack, CS above the offset (R434). -/
theorem pushed_farCall (s : State) (z : Size) (sel : BitVec 16) (base off : BitVec 32) (big : Bool) :
    let t := (((s.push z ((s.sel .cs).setWidth z.bits)).pushReturn z).setSeg .cs sel base big).jumpTo off
    PushedSpace s t z 2 ∧ t.memRead z.width (t.slot z 0) = s.nextEip.setWidth z.bits ∧
      t.memRead z.width (t.slot z 1) = (s.sel .cs).setWidth z.bits := by
  obtain ⟨hspace, hoff, hsel⟩ := pushed_push_push s z ((s.sel .cs).setWidth z.bits) (s.nextEip.setWidth z.bits)
  have hss := setSeg_get_of_ne ((s.push z ((s.sel .cs).setWidth z.bits)).pushReturn z) (r := .cs) (q := .ss)
    sel base big (by decide)
  exact ⟨pushedSpace_congr hspace rfl rfl hss rfl, (memRead_slot_congr rfl rfl hss rfl z 0).trans hoff,
    (memRead_slot_congr rfl rfl hss rfl z 1).trans hsel⟩

/-- A release adds its count to the stack pointer (R437). -/
theorem stackPtr_release (s : State) (n : BitVec 16) : (s.release n).stackPtr = s.spUp n.toNat := by
  rw [State.release, stackPtr_setStackPtr, State.spUp, BitVec.ofNat_toNat]

theorem onlyView_release_popped (s : State) (z : Size) (n : BitVec 16) :
    OnlyView s.stksz.width .esp s ((s.popped z).release n) :=
  (onlyView_popped s z).trans (onlyView_setStackPtr (s.popped z) _)

/-- One word popped and a count released (R436, R437). -/
theorem stackPtr_release_popped (s : State) (z : Size) (n : BitVec 16) :
    ((s.popped z).release n).stackPtr = s.spUp (z.bytes + n.toNat) :=
  (stackPtr_release _ n).trans (spUp_popped s z n.toNat)

/-- The second word popped is the next slot up (R202). -/
theorem popValue_popped (s : State) (z : Size) : (s.popped z).popValue z = s.memRead z.width (s.slot z 1) := by
  rw [popValue_eq, slot_popped, memRead_popped]

/-- Settles O40: a near form is a push or a pop and a jump; a far form adds the word of CS and the selector
load. -/
theorem callsReturns : Obligations.CallsReturns := by
  intro s z w near farCallTo returned farRet
  have hnear (target : BitVec 32) : ∃ t, nearCall target s = .next t ∧ t.eip = target ∧ t.flags = s.flags ∧
      SameRest s t ∧ Pushed s t z (s.nextEip.setWidth z.bits) := ⟨_, rfl, pushed_jumpTo s z _ target⟩
  have hfar {i : Instr} {sel : BitVec 16} {off : BitVec 32} (hi : exec i s = farCall sel off s) :
      farCallTo i sel off := by
    unfold farCallTo
    rw [hi]
    cases hd : segmentFor s .cs sel with
    | none => exact thenDo_loadSeg_none rfl _ hd
    | some d =>
      exact ⟨_, thenDo_loadSeg_some rfl _ hd, rfl, rfl, rfl, ⟨rfl, rfl, rfl, rfl, rfl, rfl, rfl⟩, rfl, rfl, rfl,
        pushed_farCall s z sel d.base off d.big⟩
  have hret (f : RetForm) : ∃ t, exec (.ret f) s = .next t ∧
      returned t (z.bytes + (releaseCount f).toNat) ∧ SameSegs s t :=
    ⟨_, rfl, ⟨congrArg (BitVec.setWidth 32) (popValue_eq s z), rfl, rfl, rfl, ⟨rfl, rfl, rfl, rfl, rfl, rfl, rfl⟩, rfl,
      stackPtr_release_popped s z _, onlyView_release_popped s z _⟩, rfl, rfl, rfl⟩
  have hretf (f : RetForm) : farRet f (releaseCount f) := by
    unfold farRet
    intro sel
    have hexec : exec (.retf f) s = thenDo (loadSeg .cs sel ((s.popped z).popped z)) fun t =>
        .next ((t.release (releaseCount f)).jumpTo ((s.memRead w (s.slot z 0)).setWidth 32)) := by
      rw [← popValue_eq]
      exact congrArg (fun v : BitVec z.bits => thenDo (loadSeg .cs (v.setWidth 16) ((s.popped z).popped z)) fun t =>
        .next ((t.release (releaseCount f)).jumpTo ((s.popValue z).setWidth 32))) (popValue_popped s z)
    rw [hexec]
    cases hd : segmentFor s .cs sel with
    | none => exact thenDo_loadSeg_none rfl _ hd
    | some d =>
      have hptr : (((s.popped z).popped z).release (releaseCount f)).stackPtr =
          s.spUp (2 * z.bytes + (releaseCount f).toNat) := by
        rw [stackPtr_release_popped, spUp_popped, Nat.two_mul, Nat.add_assoc]
      exact ⟨_, thenDo_loadSeg_some rfl _ hd, ⟨rfl, rfl, rfl, rfl, ⟨rfl, rfl, rfl, rfl, rfl, rfl, rfl⟩, rfl, hptr,
        (onlyView_popped s z).trans (onlyView_release_popped (s.popped z) z _)⟩, rfl, rfl⟩
  exact ⟨fun _ => hnear _, fun _ => hnear _, fun _ _ => hfar rfl, fun _ => hfar rfl, hret .plain,
    fun count => hret (.iw count), hretf .plain, fun count => hretf (.iw count)⟩

end Sys2Proof.Machine
end

section
/-! IRET, and a software interrupt with its return in real mode: O43. -/

namespace Sys2Proof.Machine

/-- The general registers are determined by the stack pointer when nothing else changed. -/
theorem gpr_eq_of_stackPtr_eq {s t : State} (hb : t.ssB = s.ssB) (hp : t.stackPtr = s.stackPtr)
    (hview : OnlyView s.stksz.width .esp s t) : t.gpr = s.gpr := by
  obtain ⟨hesp, hregs⟩ := highKept_of_onlyView_esp s.stksz hview
  have hlow := readReg_esp_eq t
  rw [stksz_congr hb, hp, ← readReg_esp_eq] at hlow
  refine Gpr.ext_get fun r => BitVec.eq_of_getLsbD_eq fun k _ => ?_
  by_cases hr : r = .esp
  · rw [hr, get_eq_of_readReg_eq hlow hesp]
  · exact hview r k fun hin => hr ((inView_size_iff ..).1 hin).1

/-- A segment register that holds what a real mode load of its selector stores is unchanged by that load
(R27). -/
theorem set_real {g : Segs} {r : SegReg} (h : (g.get r).Real) :
    g.set r ⟨(g.get r).sel, BitVec.ofNat 32 (16 * (g.get r).sel.toNat)⟩ = g := by
  unfold Seg.Real at h
  rw [← h, BitVec.ofNat_toNat, BitVec.setWidth_eq, Segs.set_get]

section
variable (s : State) (z : Size)

theorem popValue_popped_popped : ((s.popped z).popped z).popValue z = s.memRead z.width (s.slot z 2) := by
  rw [popValue_popped, slot_popped, memRead_popped]

/-- The offset IRET pops first (R443, R681). -/
def State.frameOffset : BitVec 32 := (s.memRead z.width (s.slot z 0)).setWidth 32

/-- The selector IRET pops next. -/
def State.frameSelector : BitVec 16 := (s.memRead z.width (s.slot z 1)).setWidth 16

/-- The flags of the image IRET pops last. -/
def State.frameFlags : Flags := .ofImage (s.memRead z.width (s.slot z 2))

/-- The end of an IRET whose selector gave `d`. -/
def State.returned (d : Descriptor) : State :=
  { ((((s.popped z).popped z).popped z).setSeg .cs (s.frameSelector z) d.base d.big).jumpTo (s.frameOffset z) with
    flags := s.frameFlags z }

/-- IRET loads CS once its three words are popped (R443). -/
theorem exec_iret {s : State} {z : Size} (hz : s.opsz = z) : exec .iret s =
    thenDo (loadSeg .cs (s.frameSelector z) (((s.popped z).popped z).popped z)) fun t =>
      .next { t.jumpTo (s.frameOffset z) with flags := s.frameFlags z } := by
  subst hz
  unfold State.frameSelector State.frameOffset State.frameFlags
  rw [← popValue_eq, ← popValue_popped, ← popValue_popped_popped]
  rfl

theorem exec_iret_some {s : State} {z : Size} {d : Descriptor} (hz : s.opsz = z)
    (hd : segmentFor s .cs (s.frameSelector z) = some d) : exec .iret s = .next (s.returned z d) :=
  (exec_iret hz).trans (thenDo_loadSeg_some rfl _ hd)

theorem exec_iret_none {s : State} {z : Size} (hz : s.opsz = z)
    (hd : segmentFor s .cs (s.frameSelector z) = none) : exec .iret s = .refused .descLookup :=
  (exec_iret hz).trans (thenDo_loadSeg_none rfl _ hd)

theorem stackPtr_returned (d : Descriptor) : (s.returned z d).stackPtr = s.spUp (3 * z.bytes) := by
  have hpops : (((s.popped z).popped z).popped z).stackPtr = s.spUp (z.bytes + (z.bytes + z.bytes)) := by
    rw [stackPtr_popped, spUp_popped, spUp_popped]
  rw [show 3 * z.bytes = z.bytes + (z.bytes + z.bytes) by omega]
  exact hpops

theorem mem_returned (d : Descriptor) : (s.returned z d).mem = s.mem := rfl

theorem ssB_returned (d : Descriptor) : (s.returned z d).ssB = s.ssB := rfl

theorem onlyView_returned (d : Descriptor) : OnlyView s.stksz.width .esp s (s.returned z d) :=
  ((onlyView_popped s z).trans (onlyView_popped (s.popped z) z)).trans (onlyView_popped ((s.popped z).popped z) z)

end

/-- A software interrupt in real mode: the frame pushed and CS:EIP taken from the vector (R441, R676). -/
theorem exec_int_real {s t : State} {n : BitVec 8} (hs : s.protectedMode = false) (ht : exec (.int n) s = .next t) :
    ∃ sel base off, t = { ((s.pushFrame s.nextEip).setSeg .cs sel base false).jumpTo off with
      result := some (.delivered n) } := by
  have hexec : exec (.int n) s = raiseVector n s.nextEip s := rfl
  rw [hexec, raiseVector_eq, deliver_real hs] at ht
  exact ⟨_, _, _, (Host.Outcome.next.inj ht).symm⟩

/-- What a software interrupt in real mode left, as the IRET that follows finds it. -/
def State.delivered (s : State) (sel : BitVec 16) (base off : BitVec 32) (n : BitVec 8) : State :=
  { ((s.pushFrame s.nextEip).setSeg .cs sel base false).jumpTo off with result := some (.delivered n), pfx := .empty }

theorem frame_delivered (s : State) (sel : BitVec 16) (base off : BitVec 32) (n : BitVec 8) :
    let u := s.delivered sel base off n
    u.frameOffset .s16 = (s.nextEip.setWidth 16).setWidth 32 ∧ u.frameSelector .s16 = s.sel .cs ∧
      u.frameFlags .s16 = s.flags := by
  intro u
  have hword (i : ℕ) : u.memRead .w16 (u.slot .s16 i) =
      (s.pushFrame s.nextEip).memRead .w16 ((s.pushFrame s.nextEip).slot .s16 i) :=
    memRead_slot_congr rfl rfl (setSeg_get_of_ne _ sel base false (r := .cs) (q := .ss) (by decide)) rfl .s16 i
  obtain ⟨hip, hsel, hflags⟩ := frame_pushFrame s s.nextEip
  refine ⟨?_, ?_, ?_⟩
  · exact congrArg (BitVec.setWidth 32) ((hword 0).trans hip)
  · exact (congrArg (BitVec.setWidth 16) ((hword 1).trans hsel)).trans (BitVec.setWidth_eq _)
  · exact (congrArg Flags.ofImage ((hword 2).trans hflags)).trans (ofImage_setWidth s.flags le_rfl)

/-- The return gives the general registers of before the interrupt back. -/
theorem gpr_returned_delivered (s : State) (sel : BitVec 16) (base off : BitVec 32) (n : BitVec 8)
    (d : Descriptor) : ((s.delivered sel base off n).returned .s16 d).gpr = s.gpr := by
  have hssB : (s.delivered sel base off n).ssB = s.ssB := rfl
  obtain ⟨hptr, hview, -⟩ : PushedSpace s (s.delivered sel base off n) .s16 3 :=
    pushedSpace_congr (pushedSpace_pushFrame s s.nextEip) rfl rfl
      (setSeg_get_of_ne _ sel base false (r := .cs) (q := .ss) (by decide)) rfl
  have hback := onlyView_returned (s.delivered sel base off n) .s16 d
  rw [stksz_congr hssB] at hback
  refine gpr_eq_of_stackPtr_eq ((ssB_returned _ .s16 d).trans hssB) ?_ (hview.trans hback)
  rw [stackPtr_returned, spUp_of_down hssB hptr le_rfl, Nat.sub_self, spUp_zero]

/-- The return loads CS with what it held: in real mode its selector fixes its base (R27). -/
theorem seg_returned_delivered {s : State} (h : (s.seg.get .cs).Real) (sel : BitVec 16) (base off : BitVec 32)
    (n : BitVec 8) : let u := s.delivered sel base off n
    (u.returned .s16 ⟨BitVec.ofNat 32 (16 * (u.frameSelector .s16).toNat), false⟩).seg = s.seg := by
  intro u
  obtain ⟨-, hsel, -⟩ := frame_delivered s sel base off n
  have hset (v : Seg) : (s.seg.set .cs ⟨sel, base⟩).set .cs v = s.seg.set .cs v := Segs.set_set s.seg .cs _ v
  have hseg : (⟨u.frameSelector .s16, BitVec.ofNat 32 (16 * (u.frameSelector .s16).toNat)⟩ : Seg) =
      ⟨s.sel .cs, BitVec.ofNat 32 (16 * (s.sel .cs).toNat)⟩ := by rw [hsel]
  exact (congrArg ((s.seg.set .cs ⟨sel, base⟩).set .cs) hseg).trans ((hset _).trans (set_real h))

/-- Settles O43: IRET pops three words, and after an interrupt in real mode they are the pushed frame. -/
theorem interruptReturns : Obligations.InterruptReturn := by
  refine ⟨fun s => ?_, fun n s t hreal ht => ?_⟩
  · intro z w sel
    cases hd : segmentFor s .cs sel with
    | none => exact exec_iret_none rfl hd
    | some d =>
      exact ⟨_, exec_iret_some rfl hd, rfl, rfl, rfl, rfl, rfl, stackPtr_returned s z d,
        onlyView_returned s z d, rfl, rfl, rfl, rfl, rfl, rfl, rfl, rfl, rfl⟩
  · obtain ⟨hpe, hcsD, -, hsegs⟩ := hreal
    obtain ⟨sel, base, off, rfl⟩ := exec_int_real hpe ht
    obtain ⟨hoff, hsel, hflags⟩ := frame_delivered s sel base off n
    have hsize : (s.delivered sel base off n).opsz = .s16 := rfl
    have hreal : (s.delivered sel base off n).protectedMode = false := (protectedMode_congr rfl).trans hpe
    have hd := segmentFor_real hreal .cs ((s.delivered sel base off n).frameSelector .s16)
    have hiret := exec_iret_some hsize hd
    exact ⟨_, hiret, hoff, hflags, seg_returned_delivered (hsegs .cs) sel base off n, hcsD.symm,
      gpr_returned_delivered s sel base off n _, mem_returned _ .s16 _⟩

end Sys2Proof.Machine
end

section
/-! Which bytes decide whether the opcode map has a row: the opcode and ModRM, SIB and displacement. -/

namespace Sys2Proof

open Machine

/-- `x`, an answer read after the opcode byte off `tail`, is that of a row that is there for `y` too; only
prefixes take no byte but the opcode. -/
def Rows (tail : List Byte) (x y : Parse) : Prop :=
  ∀ i rest, x = some (i, rest) → (isPrefix i = true → rest = tail) ∧ y.isSome = true

/-- Reading ModRM, SIB and displacement off `bs` gives what it gives off `bs'`, where six more bytes
follow, enough for any immediate. -/
def SameRM (a : Size) (bs bs' : List Byte) : Prop :=
  (∀ k, takeRM a bs k = none) ∨ ∃ g rm o o', 6 ≤ o'.length ∧
    ∀ k, takeRM a bs k = k g rm o ∧ takeRM a bs' k = k g rm o'

section
variable {z a : Size} {tail bs bs' : List Byte} {b : Byte}

theorem rows_none {y : Parse} : Rows tail none y := fun _ _ h => nomatch h

theorem rows_some {i i' : Instr} {o o' : List Byte} (h : isPrefix i = false) :
    Rows tail (some (i, o)) (some (i', o')) := by
  rintro _ _ ⟨⟩
  exact ⟨fun hi => absurd (h.symm.trans hi) nofun, rfl⟩

theorem rows_prefix {i i' : Instr} {o' : List Byte} : Rows tail (some (i, tail)) (some (i', o')) := by
  rintro _ _ ⟨⟩
  exact ⟨fun _ => rfl, rfl⟩

theorem rows_bind {α : Type} {o : Option α} {f f' : α → Parse} (h : ∀ c, Rows tail (f c) (f' c)) :
    Rows tail (o.bind f) (o.bind f') := by
  cases o with
  | none => exact rows_none
  | some c => exact h c

theorem rows_take8 {n : ℕ} {k k' : Byte → List Byte → Parse} (hn : n + 1 ≤ bs'.length)
    (h : ∀ v v' o o', n ≤ o'.length → Rows tail (k v o) (k' v' o')) :
    Rows tail (take8 bs k) (take8 bs' k') := by
  cases bs' with
  | nil => exact absurd hn (Nat.not_succ_le_zero n)
  | cons v' o' =>
    cases bs with
    | nil => exact rows_none
    | cons v o => exact h v v' o o' (Nat.le_of_succ_le_succ hn)

theorem rows_take16 {n : ℕ} {k k' : BitVec 16 → List Byte → Parse} (hn : n + 2 ≤ bs'.length)
    (h : ∀ v v' o o', n ≤ o'.length → Rows tail (k v o) (k' v' o')) :
    Rows tail (take16 bs k) (take16 bs' k') := by
  simp only [take16_eq_take8]
  exact rows_take8 hn fun b0 b0' _ _ hn => rows_take8 hn fun b1 b1' _ _ hn => h (b1 ++ b0) (b1' ++ b0') _ _ hn

theorem rows_take32 {n : ℕ} {k k' : BitVec 32 → List Byte → Parse} (hn : n + 4 ≤ bs'.length)
    (h : ∀ v v' o o', n ≤ o'.length → Rows tail (k v o) (k' v' o')) :
    Rows tail (take32 bs k) (take32 bs' k') := by
  simp only [take32_eq_take8]
  exact rows_take8 hn fun b0 b0' _ _ hn => rows_take8 hn fun b1 b1' _ _ hn => rows_take8 hn fun b2 b2' _ _ hn =>
    rows_take8 hn fun b3 b3' _ _ hn => h (b3 ++ b2 ++ b1 ++ b0) (b3' ++ b2' ++ b1' ++ b0') _ _ hn

theorem rows_takeImm {n : ℕ} {y : Size} {k : BitVec 32 → List Byte → Parse} (hn : n + 4 ≤ bs'.length)
    (h : ∀ v v' o o', n ≤ o'.length → Rows tail (k v o) (k v' o')) :
    Rows tail (takeImm y bs k) (takeImm y bs' k) := by
  cases y with
  | s16 =>
    have hn : n + 2 ≤ bs'.length := by omega
    exact rows_take16 (k := fun v => k (v.setWidth 32)) (k' := fun v => k (v.setWidth 32)) hn fun _ _ => h _ _
  | s32 => exact rows_take32 hn h

theorem rows_takeRel {n : ℕ} {y : Size} {k : BitVec 32 → List Byte → Parse} (hn : n + 4 ≤ bs'.length)
    (h : ∀ v v' o o', n ≤ o'.length → Rows tail (k v o) (k v' o')) :
    Rows tail (takeRel y bs k) (takeRel y bs' k) := by
  cases y with
  | s16 =>
    have hn : n + 2 ≤ bs'.length := by omega
    exact rows_take16 (k := fun v => k (v.signExtend 32)) (k' := fun v => k (v.signExtend 32)) hn fun _ _ => h _ _
  | s32 => exact rows_take32 hn h

theorem rows_takeRM {k : BitVec 3 → RM → List Byte → Parse} (hrm : SameRM a bs bs')
    (h : ∀ g rm o o', 6 ≤ o'.length → Rows tail (k g rm o) (k g rm o')) :
    Rows tail (takeRM a bs k) (takeRM a bs' k) := by
  obtain hnone | ⟨g, rm, o, o', hlen, hsame⟩ := hrm
  · rw [hnone k]
    exact rows_none
  · obtain ⟨hx, hy⟩ := hsame k
    rw [hx, hy]
    exact h g rm o o' hlen

theorem rows_takeM {k : BitVec 3 → MemOp → List Byte → Parse} (hrm : SameRM a bs bs')
    (h : ∀ g m o o', 6 ≤ o'.length → Rows tail (k g m o) (k g m o')) :
    Rows tail (takeM a bs k) (takeM a bs' k) :=
  rows_takeRM hrm fun g rm o o' hlen => by
    cases rm with
    | reg r => exact rows_none
    | mem m => exact h g m o o' hlen

/-! ### The tables of the opcode map -/

theorem oneNeedsModRM_of {n : ℕ} (hb : b.toNat = n) (h : oneNeedsModRM (BitVec.ofNat 8 n) = true) :
    oneNeedsModRM b = true := by
  subst hb
  simpa using h

theorem twoNeedsModRM_of {n : ℕ} (hb : b.toNat = n) (h : twoNeedsModRM (BitVec.ofNat 8 n) = true) :
    twoNeedsModRM b = true := by
  subst hb
  simpa using h

theorem rows_one4 : Rows bs (one4 b bs) (one4 b bs') := by
  unfold one4
  split
  case h_17 => exact rows_none
  all_goals exact rows_some rfl

theorem rows_one5 : Rows bs (one5 b bs) (one5 b bs') := by
  unfold one5
  split
  case h_17 => exact rows_none
  all_goals exact rows_some rfl

section
variable (hlen : 6 ≤ bs'.length)
include hlen

theorem rows_one7 : Rows bs (one7 b bs) (one7 b bs') := by
  unfold one7
  split
  case h_17 => exact rows_none
  all_goals exact rows_take8 hlen fun _ _ _ _ _ => rows_some rfl

theorem rows_one9 : Rows bs (one9 z b bs) (one9 z b bs') := by
  unfold one9
  split
  case h_11 => exact rows_takeImm hlen fun _ _ _ _ hn => rows_take16 hn fun _ _ _ _ _ => rows_some rfl
  case h_17 => exact rows_none
  all_goals exact rows_some rfl

theorem rows_oneA : Rows bs (oneA z a b bs) (oneA z a b bs') := by
  unfold oneA
  split
  case h_1 | h_2 | h_3 | h_4 | h_10 => exact rows_takeImm hlen fun _ _ _ _ _ => rows_some rfl
  case h_9 => exact rows_take8 hlen fun _ _ _ _ _ => rows_some rfl
  case h_17 => exact rows_none
  all_goals exact rows_some rfl

theorem rows_oneB : Rows bs (oneB z b bs) (oneB z b bs') := by
  unfold oneB
  split
  case h_1 | h_2 | h_3 | h_4 | h_5 | h_6 | h_7 | h_8 => exact rows_take8 hlen fun _ _ _ _ _ => rows_some rfl
  case h_17 => exact rows_none
  all_goals exact rows_takeImm hlen fun _ _ _ _ _ => rows_some rfl

theorem rows_oneE : Rows bs (oneE z b bs) (oneE z b bs') := by
  unfold oneE
  split
  case h_9 | h_10 => exact rows_takeRel hlen fun _ _ _ _ _ => rows_some rfl
  case h_11 => exact rows_takeImm hlen fun _ _ _ _ hn => rows_take16 hn fun _ _ _ _ _ => rows_some rfl
  case h_13 | h_14 | h_15 | h_16 => exact rows_some rfl
  case h_17 => exact rows_none
  all_goals exact rows_take8 hlen fun _ _ _ _ _ => rows_some rfl

theorem rows_two8 : Rows tail (two8 z b bs) (two8 z b bs') := by
  unfold two8
  split
  case h_17 => exact rows_none
  all_goals exact rows_takeRel hlen fun _ _ _ _ _ => rows_some rfl

variable (hrm : oneNeedsModRM b = true → SameRM a bs bs')
include hrm

theorem rows_one0 : Rows bs (one0 z a b bs) (one0 z a b bs') := by
  unfold one0
  split
  case h_5 | h_13 => exact rows_take8 hlen fun _ _ _ _ _ => rows_some rfl
  case h_6 | h_14 => exact rows_takeImm hlen fun _ _ _ _ _ => rows_some rfl
  case h_7 | h_8 | h_15 => exact rows_some rfl
  case h_16 => exact rows_none
  all_goals exact rows_takeRM (hrm (oneNeedsModRM_of ‹_› rfl)) fun _ _ _ _ _ => rows_some rfl

theorem rows_one1 : Rows bs (one1 z a b bs) (one1 z a b bs') := by
  unfold one1
  split
  case h_5 | h_13 => exact rows_take8 hlen fun _ _ _ _ _ => rows_some rfl
  case h_6 | h_14 => exact rows_takeImm hlen fun _ _ _ _ _ => rows_some rfl
  case h_7 | h_8 | h_15 | h_16 => exact rows_some rfl
  case h_17 => exact rows_none
  all_goals exact rows_takeRM (hrm (oneNeedsModRM_of ‹_› rfl)) fun _ _ _ _ _ => rows_some rfl

theorem rows_one2 : Rows bs (one2 z a b bs) (one2 z a b bs') := by
  unfold one2
  split
  case h_5 | h_13 => exact rows_take8 hlen fun _ _ _ _ _ => rows_some rfl
  case h_6 | h_14 => exact rows_takeImm hlen fun _ _ _ _ _ => rows_some rfl
  case h_7 | h_15 => exact rows_prefix
  case h_8 | h_16 => exact rows_some rfl
  case h_17 => exact rows_none
  all_goals exact rows_takeRM (hrm (oneNeedsModRM_of ‹_› rfl)) fun _ _ _ _ _ => rows_some rfl

theorem rows_one3 : Rows bs (one3 z a b bs) (one3 z a b bs') := by
  unfold one3
  split
  case h_5 | h_13 => exact rows_take8 hlen fun _ _ _ _ _ => rows_some rfl
  case h_6 | h_14 => exact rows_takeImm hlen fun _ _ _ _ _ => rows_some rfl
  case h_7 | h_15 => exact rows_prefix
  case h_8 | h_16 => exact rows_some rfl
  case h_17 => exact rows_none
  all_goals exact rows_takeRM (hrm (oneNeedsModRM_of ‹_› rfl)) fun _ _ _ _ _ => rows_some rfl

theorem rows_one6 : Rows bs (one6 z a b bs) (one6 z a b bs') := by
  unfold one6
  split
  case h_3 => exact rows_takeM (hrm (oneNeedsModRM_of ‹_› rfl)) fun _ _ _ _ _ => rows_some rfl
  case h_4 | h_5 | h_6 | h_7 => exact rows_prefix
  case h_8 => exact rows_takeImm hlen fun _ _ _ _ _ => rows_some rfl
  case h_9 =>
    exact rows_takeRM (hrm (oneNeedsModRM_of ‹_› rfl)) fun _ _ _ _ hlen =>
      rows_takeImm hlen fun _ _ _ _ _ => rows_some rfl
  case h_10 => exact rows_take8 hlen fun _ _ _ _ _ => rows_some rfl
  case h_11 =>
    exact rows_takeRM (hrm (oneNeedsModRM_of ‹_› rfl)) fun _ _ _ _ hlen =>
      rows_take8 hlen fun _ _ _ _ _ => rows_some rfl
  case h_16 => exact rows_none
  all_goals exact rows_some rfl

omit hlen in
theorem rows_one8 : Rows bs (one8 z a b bs) (one8 z a b bs') := by
  unfold one8
  split
  case h_13 => exact rows_takeM (hrm (oneNeedsModRM_of ‹_› rfl)) fun _ _ _ _ _ => rows_some rfl
  case h_16 => exact rows_none
  all_goals refine rows_takeRM (hrm (oneNeedsModRM_of ‹_› rfl)) fun g rm o o' hlen => ?_
  -- 80, 81 and 83: an ALU operation with an immediate
  case h_1 | h_3 =>
    split
    case h_9 => exact rows_none
    all_goals exact rows_take8 hlen fun _ _ _ _ _ => rows_some rfl
  case h_2 =>
    split
    case h_9 => exact rows_none
    all_goals exact rows_takeImm hlen fun _ _ _ _ _ => rows_some rfl
  -- 8C and 8E: the segment register of MOV
  case h_12 => exact rows_bind fun _ => rows_some rfl
  case h_14 =>
    split
    case h_3 => exact rows_some rfl
    all_goals exact rows_none
  -- 8F: POP
  case h_15 =>
    split
    · exact rows_some rfl
    · exact rows_none
  all_goals exact rows_some rfl

theorem rows_oneC : Rows bs (oneC z a b bs) (oneC z a b bs') := by
  unfold oneC
  split
  -- C0 and C1: a shift with a byte immediate
  case h_1 | h_2 =>
    refine rows_takeRM (hrm (oneNeedsModRM_of ‹_› rfl)) fun g rm o o' hlen => ?_
    split
    case h_8 => exact rows_none
    all_goals exact rows_take8 hlen fun _ _ _ _ _ => rows_some rfl
  case h_3 | h_11 => exact rows_take16 hlen fun _ _ _ _ _ => rows_some rfl
  case h_5 | h_6 => exact rows_takeM (hrm (oneNeedsModRM_of ‹_› rfl)) fun _ _ _ _ _ => rows_some rfl
  -- C6 and C7: MOV with an immediate
  case h_7 =>
    refine rows_takeRM (hrm (oneNeedsModRM_of ‹_› rfl)) fun g rm o o' hlen => ?_
    split
    · exact rows_take8 hlen fun _ _ _ _ _ => rows_some rfl
    · exact rows_none
  case h_8 =>
    refine rows_takeRM (hrm (oneNeedsModRM_of ‹_› rfl)) fun g rm o o' hlen => ?_
    split
    · exact rows_takeImm hlen fun _ _ _ _ _ => rows_some rfl
    · exact rows_none
  case h_9 => exact rows_take16 hlen fun _ _ _ _ hn => rows_take8 hn fun _ _ _ _ _ => rows_some rfl
  case h_14 => exact rows_take8 hlen fun _ _ _ _ _ => rows_some rfl
  case h_17 => exact rows_none
  all_goals exact rows_some rfl

omit hlen in
theorem rows_oneF : Rows bs (oneF z a b bs) (oneF z a b bs') := by
  unfold oneF
  split
  case h_1 | h_2 | h_3 => exact rows_prefix
  -- F6 and F7: TEST has an immediate
  case h_6 =>
    refine rows_takeRM (hrm (oneNeedsModRM_of ‹_› rfl)) fun g rm o o' hlen => ?_
    split
    case h_1 => exact rows_take8 hlen fun _ _ _ _ _ => rows_some rfl
    case h_8 => exact rows_none
    all_goals exact rows_some rfl
  case h_7 =>
    refine rows_takeRM (hrm (oneNeedsModRM_of ‹_› rfl)) fun g rm o o' hlen => ?_
    split
    case h_1 => exact rows_takeImm hlen fun _ _ _ _ _ => rows_some rfl
    case h_8 => exact rows_none
    all_goals exact rows_some rfl
  -- FE and FF
  case h_14 =>
    refine rows_takeRM (hrm (oneNeedsModRM_of ‹_› rfl)) fun g rm o o' hlen => ?_
    split
    case h_3 => exact rows_none
    all_goals exact rows_some rfl
  case h_15 =>
    refine rows_takeRM (hrm (oneNeedsModRM_of ‹_› rfl)) fun g rm o o' hlen => ?_
    split
    case h_8 => exact rows_none
    all_goals exact rows_some rfl
  case h_16 => exact rows_none
  all_goals exact rows_some rfl

theorem rows_oneD : Rows bs (oneD a b bs) (oneD a b bs') := by
  unfold oneD
  split
  case h_5 | h_6 => exact rows_take8 hlen fun _ _ _ _ _ => rows_some rfl
  case h_7 => exact rows_some rfl
  case h_16 => exact rows_none
  all_goals refine rows_takeRM (hrm (oneNeedsModRM_of ‹_› rfl)) fun g rm o o' hlen => ?_
  all_goals repeat' split
  all_goals rintro _ _ ⟨⟩ <;> exact ⟨nofun, rfl⟩

/-- The one-byte tables. -/
theorem rows_decode_one (hb : b ≠ 0x0F) : Rows bs (decode z a (b :: bs)) (decode z a (b :: bs')) := by
  simp only [decode, if_neg hb]
  split
  · exact rows_one0 hlen hrm
  · exact rows_one1 hlen hrm
  · exact rows_one2 hlen hrm
  · exact rows_one3 hlen hrm
  · exact rows_one4
  · exact rows_one5
  · exact rows_one6 hlen hrm
  · exact rows_one7 hlen
  · exact rows_one8 hrm
  · exact rows_one9 hlen
  · exact rows_oneA hlen
  · exact rows_oneB hlen
  · exact rows_oneC hlen hrm
  · exact rows_oneD hlen hrm
  · exact rows_oneE hlen
  · exact rows_oneF hrm

end

section
variable (hmove : 0x20 ≤ b.toNat → b.toNat ≤ 0x23 → ∀ m o, bs = m :: o → ∃ o', bs' = m :: o')
variable (hlen : 6 ≤ bs'.length)
variable (hrm : 0x23 < b.toNat → twoNeedsModRM b = true → SameRM a bs bs')

include hmove in
theorem rows_two2 : Rows tail (two2 b bs) (two2 b bs') := by
  unfold two2
  split
  case h_5 => exact rows_none
  all_goals
    cases bs with
    | nil => exact rows_none
    | cons m o =>
      obtain ⟨o', rfl⟩ := hmove (by omega) (by omega) m o rfl
      exact rows_bind fun _ => rows_some rfl

include hrm

theorem rows_two9 : Rows tail (two9 a b bs) (two9 a b bs') := by
  unfold two9
  split
  case h_17 => exact rows_none
  all_goals exact rows_takeRM (hrm (by omega) (twoNeedsModRM_of ‹_› rfl)) fun _ _ _ _ _ => rows_some rfl

theorem rows_twoA : Rows tail (twoA a b bs) (twoA a b bs') := by
  unfold twoA
  split
  case h_1 | h_2 | h_6 | h_7 => exact rows_some rfl
  case h_4 | h_9 =>
    exact rows_takeRM (hrm (by omega) (twoNeedsModRM_of ‹_› rfl)) fun _ _ _ _ hlen =>
      rows_take8 hlen fun _ _ _ _ _ => rows_some rfl
  case h_12 => exact rows_none
  all_goals exact rows_takeRM (hrm (by omega) (twoNeedsModRM_of ‹_› rfl)) fun _ _ _ _ _ => rows_some rfl

theorem rows_twoB : Rows tail (twoB a b bs) (twoB a b bs') := by
  unfold twoB
  split
  case h_1 | h_3 | h_4 =>
    exact rows_takeM (hrm (by omega) (twoNeedsModRM_of ‹_› rfl)) fun _ _ _ _ _ => rows_some rfl
  -- BA: a bit operation with a byte immediate
  case h_7 =>
    refine rows_takeRM (hrm (by omega) (twoNeedsModRM_of ‹_› rfl)) fun g rm o o' hlen => ?_
    split
    case h_5 => exact rows_none
    all_goals exact rows_take8 hlen fun _ _ _ _ _ => rows_some rfl
  case h_13 => exact rows_none
  all_goals exact rows_takeRM (hrm (by omega) (twoNeedsModRM_of ‹_› rfl)) fun _ _ _ _ _ => rows_some rfl

include hmove hlen in
/-- The two-byte tables. -/
theorem rows_decodeTwo : Rows tail (decodeTwo z a b bs) (decodeTwo z a b bs') := by
  unfold decodeTwo
  split
  · exact rows_two2 hmove
  · exact rows_two8 hlen
  · exact rows_two9 hrm
  · exact rows_twoA hrm
  · exact rows_twoB hrm
  · exact rows_none

end
end

end Sys2Proof
end

section
/-! The bytes a decode fetches: bytes without a row stay undecodable whatever follows them. -/

namespace Sys2Proof

open Machine

/-! ### Fields -/

/-- A reading of fields takes the bytes of the fields, and neither its value nor what is left depends on
the bytes after them. -/
def Reads {α : Type} (P : List Byte → (α → List Byte → Parse) → Parse) : Prop :=
  ∀ bs, (∀ k, P bs k = none) ∨ ∃ v front o, bs = front ++ o ∧ ∀ o' k, P (front ++ o') k = k v o'

section
variable {α β : Type} {P : List Byte → (α → List Byte → Parse) → Parse}
  {Q : α → List Byte → (β → List Byte → Parse) → Parse}

theorem reads_value (v : α) : Reads fun bs k => k v bs :=
  fun bs => .inr ⟨v, [], bs, rfl, fun _ _ => rfl⟩

theorem reads_take8 : Reads take8 := by
  intro bs
  cases bs with
  | nil => exact .inl fun _ => rfl
  | cons v o => exact .inr ⟨v, [v], o, rfl, fun _ _ => rfl⟩

theorem Reads.bind (hP : Reads P) (hQ : ∀ v, Reads (Q v)) : Reads fun bs k => P bs fun v o => Q v o k := by
  intro bs
  obtain hnone | ⟨v, front, o, rfl, hv⟩ := hP bs
  · exact .inl fun k => hnone _
  · obtain hnone | ⟨v', front', o', rfl, hv'⟩ := hQ v o
    · exact .inl fun k => (hv _ _).trans (hnone k)
    · refine .inr ⟨v', front ++ front', o', (List.append_assoc ..).symm, fun o' k => ?_⟩
      rw [List.append_assoc]
      exact (hv _ _).trans (hv' o' k)

theorem Reads.map (hP : Reads P) (f : α → β) : Reads fun bs k => P bs fun v => k (f v) :=
  hP.bind fun v => reads_value (f v)

end

theorem reads_take16 : Reads take16 := by
  simp only [funext₂ take16_eq_take8]
  exact reads_take8.bind fun _ => reads_take8.map _

theorem reads_take32 : Reads take32 := by
  simp only [funext₂ take32_eq_take8]
  exact reads_take8.bind fun _ => reads_take8.bind fun _ => reads_take8.bind fun _ => reads_take8.map _

theorem reads_takeSib (md : BitVec 2) : Reads (takeSib md) := by
  refine reads_take8.bind fun s => ?_
  split
  · split
    · exact reads_take32.map _
    · exact reads_value _
  · exact reads_take8.map _
  · exact reads_take32.map _

theorem reads_takeMem (a : Size) (md : BitVec 2) (rm : BitVec 3) : Reads (takeMem a md rm) := by
  unfold takeMem
  split
  · split
    · split
      · exact reads_take16.map _
      · exact reads_value _
    · exact reads_take8.map _
    · exact reads_take16.map _
  · split
    · exact reads_takeSib md
    · split
      · split
        · exact reads_take32.map _
        · exact reads_value _
      · exact reads_take8.map _
      · exact reads_take32.map _

/-- ModRM, SIB and displacement as one field. -/
theorem reads_takeRM (a : Size) : Reads fun bs (k : BitVec 3 × RM → List Byte → Parse) =>
    takeRM a bs fun g rm => k (g, rm) := by
  refine reads_take8.bind fun m => ?_
  split
  · exact reads_value (mid3 m, RM.reg (.ofCode (lo3 m)))
  · exact (reads_takeMem a (hi2 m) (lo3 m)).map fun mem => (mid3 m, RM.mem mem)

/-- ModRM, SIB and displacement end too soon, or are at the front and are read whatever follows. -/
theorem modRM_cases (a : Size) (bs : List Byte) :
    (∀ k, takeRM a bs k = none) ∧ modRMLength a bs = bs.length ∨ ∃ g rm front o, bs = front ++ o ∧
      modRMLength a bs = front.length ∧ ∀ o' k, takeRM a (front ++ o') k = k g rm o' := by
  obtain hnone | ⟨⟨g, rm⟩, front, o, rfl, hread⟩ := reads_takeRM a bs
  · have hnone (k : BitVec 3 → RM → List Byte → Parse) : takeRM a bs k = none := hnone fun v => k v.1 v.2
    exact .inl ⟨hnone, by simp only [modRMLength, hnone]⟩
  · have hread (o' : List Byte) (k : BitVec 3 → RM → List Byte → Parse) : takeRM a (front ++ o') k = k g rm o' :=
      hread o' fun v => k v.1 v.2
    exact .inr ⟨g, rm, front, o, rfl, by simp [modRMLength, hread], hread⟩

theorem modRMLength_le (a : Size) (bs : List Byte) : modRMLength a bs ≤ bs.length := by
  obtain ⟨-, hlen⟩ | ⟨g, rm, front, o, rfl, hlen, -⟩ := modRM_cases a bs
  · exact hlen.le
  · simp [hlen]

section
variable {z a : Size} {b : Byte} {bs ext : List Byte} (hext : 6 ≤ ext.length)
include hext

theorem length_append_of_ext : 6 ≤ (bs ++ ext).length := by
  rw [List.length_append]
  omega

theorem sameRM_append : SameRM a bs (bs ++ ext) := by
  obtain ⟨hnone, -⟩ | ⟨g, rm, front, o, rfl, -, hread⟩ := modRM_cases a bs
  · exact .inl hnone
  · refine .inr ⟨g, rm, o, o ++ ext, length_append_of_ext hext, fun k => ⟨hread o k, ?_⟩⟩
    rw [List.append_assoc, hread]

/-- Other bytes after the displacement do not change what is read before. -/
theorem sameRM_take (h : modRMLength a bs < bs.length) (other : List Byte) :
    SameRM a (bs.take (modRMLength a bs) ++ other) (bs ++ ext) := by
  obtain ⟨-, hlen⟩ | ⟨g, rm, front, o, rfl, hlen, hread⟩ := modRM_cases a bs
  · exact absurd h hlen.not_lt
  · rw [hlen, List.take_left']
    · refine .inr ⟨g, rm, other, o ++ ext, length_append_of_ext hext, fun k => ⟨hread other k, ?_⟩⟩
      rw [List.append_assoc, hread]
    · rfl

end

/-! ### The opcode map -/

section
variable {z a : Size}

/-- A prefix takes its byte only. -/
theorem rest_of_isPrefix {b : Byte} {bs rest : List Byte} {i : Instr} (hd : decode z a (b :: bs) = some (i, rest))
    (hi : isPrefix i = true) : rest = bs := by
  have hext : 6 ≤ (List.replicate maxLength (0 : Byte)).length := by decide
  by_cases hb : b = 0x0F
  · subst hb
    cases bs with
    | nil => exact nomatch hd
    | cons b2 bs2 =>
      have hrow : Rows (b2 :: bs2) (decodeTwo z a b2 bs2) _ := rows_decodeTwo
        (fun _ _ m o h => ⟨o ++ List.replicate maxLength 0, congrArg (· ++ List.replicate maxLength 0) h⟩)
        (length_append_of_ext hext) fun _ _ => sameRM_append hext
      exact (hrow i rest hd).1 hi
  · exact (rows_decode_one (length_append_of_ext hext) (fun _ => sameRM_append hext) hb i rest hd).1 hi

theorem lookupLength_one {b : Byte} (hb : b ≠ 0x0F) (bs : List Byte) :
    lookupLength a (b :: bs) = if oneNeedsModRM b then 1 + modRMLength a bs else 1 := if_neg hb

theorem lookupLength_two (b2 : Byte) (bs2 : List Byte) : lookupLength a (0x0F :: b2 :: bs2) =
    if 0x20 ≤ b2.toNat ∧ b2.toNat ≤ 0x23 then min 3 (bs2.length + 2)
    else if twoNeedsModRM b2 then 2 + modRMLength a bs2 else 2 := rfl

theorem lookupLength_le (bytes : List Byte) : lookupLength a bytes ≤ bytes.length := by
  match bytes with
  | [] => exact le_rfl
  | b :: bs =>
    by_cases hb : b = 0x0F
    · subst hb
      match bs with
      | [] => exact le_rfl
      | b2 :: bs2 =>
        have hle := modRMLength_le a bs2
        rw [lookupLength_two, List.length_cons, List.length_cons]
        split_ifs <;> omega
    · have hle := modRMLength_le a bs
      rw [lookupLength_one hb, List.length_cons]
      split_ifs <;> omega

section
variable {b : Byte} {bs other rest : List Byte} {i : Instr} {n : ℕ}

theorem hasRow_one (hb : b ≠ 0x0F) (hd : decode z a (b :: (bs.take n ++ other)) = some (i, rest))
    (hrm : oneNeedsModRM b = true → SameRM a (bs.take n ++ other) (bs ++ List.replicate maxLength 0)) :
    hasRow z a (b :: bs) = true :=
  (rows_decode_one (length_append_of_ext (by decide)) hrm hb i rest hd).2

theorem hasRow_two (hd : decodeTwo z a b (bs.take n ++ other) = some (i, rest))
    (hmove : 0x20 ≤ b.toNat → b.toNat ≤ 0x23 → ∀ m o, bs.take n ++ other = m :: o →
      ∃ o', bs ++ List.replicate maxLength 0 = m :: o')
    (hrm : 0x23 < b.toNat → twoNeedsModRM b = true →
      SameRM a (bs.take n ++ other) (bs ++ List.replicate maxLength 0)) : hasRow z a (0x0F :: b :: bs) = true :=
  (rows_decodeTwo (tail := []) hmove (length_append_of_ext (by decide)) hrm i rest hd).2

end

/-- A row found with other bytes after the ones fetched for the lookup is there for the bytes themselves. -/
theorem hasRow_of_decode_take {bytes other rest : List Byte} {i : Instr}
    (hlt : lookupLength a bytes < bytes.length)
    (hd : decode z a (bytes.take (lookupLength a bytes) ++ other) = some (i, rest)) : hasRow z a bytes = true := by
  match bytes with
  | [] => exact absurd hlt (lt_irrefl 0)
  | b :: bs =>
    by_cases hb : b = 0x0F
    · subst hb
      match bs with
      | [] => exact absurd hlt (lt_irrefl 1)
      | b2 :: bs2 =>
        simp only [lookupLength_two, List.length_cons] at hd hlt
        split_ifs at hd hlt with hmove hneeds
        · obtain ⟨m, o, rfl⟩ := List.exists_cons_of_length_pos (l := bs2) (by omega)
          rw [Nat.min_eq_left (by omega)] at hd
          exact hasRow_two (n := 1) hd (fun _ _ _ _ h => ⟨_, congrArg (· :: _) (List.cons.inj h).1⟩)
            fun h => absurd h (by omega)
        · rw [Nat.add_comm] at hd
          exact hasRow_two hd (fun h h' => absurd ⟨h, h'⟩ hmove) fun _ _ => sameRM_take (by decide) (by omega) other
        · exact hasRow_two (n := 0) hd (fun h h' => absurd ⟨h, h'⟩ hmove) fun _ h => absurd h hneeds
    · simp only [lookupLength_one hb, List.length_cons] at hd hlt
      split_ifs at hd hlt with hneeds
      · rw [Nat.add_comm] at hd
        exact hasRow_one hb hd fun _ => sameRM_take (by decide) (by omega) other
      · exact hasRow_one (n := 0) hb hd fun h => absurd h hneeds

theorem undecodedLength_le (bytes : List Byte) : undecodedLength z a bytes ≤ bytes.length := by
  unfold undecodedLength
  split
  · exact le_rfl
  · exact lookupLength_le bytes

/-- Undecodable bytes are so by the ones fetched, unless all were fetched. -/
theorem decode_take_undecodedLength {bytes : List Byte} (hlt : undecodedLength z a bytes < bytes.length)
    (other : List Byte) : decode z a (bytes.take (undecodedLength z a bytes) ++ other) = none := by
  unfold undecodedLength at hlt ⊢
  split at hlt
  next => exact absurd hlt (lt_irrefl _)
  next hrow =>
    rw [if_neg hrow]
    cases hd : decode z a (bytes.take (lookupLength a bytes) ++ other) with
    | none => rfl
    | some d => exact absurd (hasRow_of_decode_take hlt hd) hrow

/-- A prefix is read the same whatever follows it. -/
theorem decode_prefix {bytes rest : List Byte} {i : Instr} (hd : decode z a bytes = some (i, rest))
    (hi : isPrefix i = true) : ∃ b, bytes = b :: rest ∧ ∀ other, decode z a (b :: other) = some (i, other) := by
  cases bytes with
  | nil => exact nomatch hd
  | cons b bs =>
    obtain rfl := rest_of_isPrefix hd hi
    obtain ⟨-, front, hne, hfront, hread⟩ := decodedIsWellFormed z a _ _ i hd
    obtain rfl : [b] = front := List.append_cancel_right hfront
    exact ⟨b, rfl, hread⟩

end

/-! ### The prefix loop (R121, R126) -/

section
variable {csD : Bool} {total fuel : ℕ} {p q : PrefixState} {bytes rest : List Byte} {i : Instr}

theorem decodeFrom_none (hx : decode (sizeFor csD p.opsize) (sizeFor csD p.adsize) bytes = none) :
    decodeFrom csD total (fuel + 1) p bytes = none := by
  simp only [decodeFrom, hx]

theorem fetchedFrom_none (hx : decode (sizeFor csD p.opsize) (sizeFor csD p.adsize) bytes = none) :
    fetchedFrom csD (fuel + 1) p bytes = undecodedLength (sizeFor csD p.opsize) (sizeFor csD p.adsize) bytes := by
  simp only [fetchedFrom, hx]

section
variable (hx : decode (sizeFor csD p.opsize) (sizeFor csD p.adsize) bytes = some (i, rest))
include hx

theorem decodeFrom_prefix (hq : p.record i = some q) :
    decodeFrom csD total (fuel + 1) p bytes = decodeFrom csD total fuel q rest := by
  simp only [decodeFrom, hx, hq]

theorem fetchedFrom_prefix (hq : p.record i = some q) :
    fetchedFrom csD (fuel + 1) p bytes = 1 + fetchedFrom csD fuel q rest := by
  simp only [fetchedFrom, hx, hq]

theorem decodeFrom_instr (hq : p.record i = none) :
    decodeFrom csD total (fuel + 1) p bytes = some ⟨p, i, total - rest.length⟩ := by
  simp only [decodeFrom, hx, hq]

theorem fetchedFrom_instr (hq : p.record i = none) :
    fetchedFrom csD (fuel + 1) p bytes = bytes.length - rest.length := by
  simp only [fetchedFrom, hx, hq]

end

theorem isPrefix_of_record (hq : p.record i = some q) : isPrefix i = true := by
  rw [isPrefix_eq_isSome_record p, hq]
  rfl

/-- A decode that answers has fetched the bytes it took. -/
theorem fetchedFrom_of_decoded {d : Decoded} (hd : decodeFrom csD total fuel p bytes = some d)
    (hle : bytes.length ≤ total) : fetchedFrom csD fuel p bytes + (total - bytes.length) = d.length := by
  induction fuel generalizing p bytes with
  | zero => exact nomatch hd
  | succ fuel ih =>
    cases hx : decode (sizeFor csD p.opsize) (sizeFor csD p.adsize) bytes with
    | none => exact nomatch (decodeFrom_none hx).symm.trans hd
    | some x =>
      obtain ⟨i, rest⟩ := x
      cases hq : p.record i with
      | none =>
        obtain rfl := Option.some.inj ((decodeFrom_instr hx hq).symm.trans hd)
        obtain ⟨-, front, -, rfl, -⟩ := decodedIsWellFormed _ _ _ _ _ hx
        rw [fetchedFrom_instr hx hq]
        rw [List.length_append] at hle ⊢
        dsimp only
        omega
      | some q =>
        obtain ⟨b, rfl, -⟩ := decode_prefix hx (isPrefix_of_record hq)
        rw [List.length_cons] at hle
        have hrest := ih ((decodeFrom_prefix hx hq).symm.trans hd) (by omega)
        rw [fetchedFrom_prefix hx hq, List.length_cons]
        omega

/-- Undecodable bytes are so by the ones fetched, unless all were fetched. -/
theorem fetchedFrom_of_undecodable (hd : decodeFrom csD total fuel p bytes = none) (hfuel : bytes.length < fuel) :
    fetchedFrom csD fuel p bytes ≤ bytes.length ∧ (fetchedFrom csD fuel p bytes < bytes.length →
      ∀ total' other, decodeFrom csD total' fuel p (bytes.take (fetchedFrom csD fuel p bytes) ++ other) = none) := by
  induction fuel generalizing p bytes with
  | zero => exact absurd hfuel (Nat.not_lt_zero _)
  | succ fuel ih =>
    cases hx : decode (sizeFor csD p.opsize) (sizeFor csD p.adsize) bytes with
    | none =>
      rw [fetchedFrom_none hx]
      exact ⟨undecodedLength_le bytes, fun hlt _ other => decodeFrom_none (decode_take_undecodedLength hlt other)⟩
    | some x =>
      obtain ⟨i, rest⟩ := x
      cases hq : p.record i with
      | none => exact nomatch (decodeFrom_instr hx hq).symm.trans hd
      | some q =>
        obtain ⟨b, rfl, hread⟩ := decode_prefix hx (isPrefix_of_record hq)
        obtain ⟨hle, hrest⟩ := ih ((decodeFrom_prefix hx hq).symm.trans hd) (Nat.lt_of_succ_lt_succ hfuel)
        rw [fetchedFrom_prefix hx hq, Nat.add_comm 1, List.length_cons]
        refine ⟨Nat.succ_le_succ hle, fun hlt total' other => ?_⟩
        exact (decodeFrom_prefix (hread _) hq).trans (hrest (Nat.lt_of_succ_lt_succ hlt) total' other)

end

/-! ### `DecodeAt` -/

theorem bytesFetched_of_decodeAt {csD : Bool} {bytes : List Byte} {d : Decoded} (hd : decodeAt csD bytes = some d) :
    bytesFetched csD bytes = d.length := by
  have h := fetchedFrom_of_decoded hd le_rfl
  rwa [Nat.sub_self] at h

/-- The bytes fetched of an undecodable window are undecodable whatever follows them (R126). -/
theorem undecodable_of_take_bytesFetched {csD : Bool} {window : List Byte} (hlen : window.length = maxLength)
    (hd : decodeAt csD window = none) : bytesFetched csD window ≤ maxLength ∧
      ∀ other, decodeAt csD (window.take (bytesFetched csD window) ++ other) = none := by
  have htake : window.take maxLength = window := by rw [← hlen, List.take_length]
  have hfrom : decodeFrom csD window.length (maxLength + 1) .empty window = none := by
    rwa [decodeAt, htake] at hd
  have hk : bytesFetched csD window = fetchedFrom csD (maxLength + 1) .empty window := by rw [bytesFetched, htake]
  obtain ⟨hle, hrest⟩ := fetchedFrom_of_undecodable hfrom (by rw [hlen]; exact Nat.lt_succ_self _)
  rw [hk]
  refine ⟨hlen ▸ hle, fun other => ?_⟩
  rcases Nat.lt_or_eq_of_le hle with hlt | heq
  · have hshort : (window.take (fetchedFrom csD (maxLength + 1) .empty window)).length ≤ maxLength := by
      rw [List.length_take]
      omega
    rw [decodeAt, List.take_append, List.take_of_length_le hshort]
    exact hrest hlt _ _
  · rw [heq, List.take_length, decodeAt, ← hlen, List.take_left', hlen]
    · rwa [hlen] at hfrom
    · rfl

end Sys2Proof
end

section
/-! The state after a step that stops, the bytes it fetched and the operands it read: O32. -/

namespace Sys2Proof.Machine

/-- An opcode without a row is fetched alone (R173). -/
theorem bytesFetched_noRow (csD : Bool) {b : Byte} (rest : List Byte) (hb : b ∈ [0x63, 0x82, 0xD6, 0xF1]) :
    bytesFetched csD (b :: rest) = 1 := by
  simp only [List.mem_cons, List.not_mem_nil, or_false] at hb
  rcases hb with rfl | rfl | rfl | rfl <;> rfl

section
variable {m : Byte} (hm : 0xC0 ≤ m.toNat)
include hm

theorem hi2_eq_three : hi2 m = 3 := by
  revert m
  decide

theorem takeM_register (a : Size) (bs : List Byte) (k : BitVec 3 → MemOp → List Byte → Parse) :
    takeM a (m :: bs) k = none := if_pos (hi2_eq_three hm)

theorem modRMLength_register (a : Size) (bs : List Byte) : modRMLength a (m :: bs) = 1 := by
  have hrm : takeRM a (m :: bs) (fun _ _ rest => some (.nop, rest)) = some (.nop, bs) := if_pos (hi2_eq_three hm)
  simp [modRMLength, hrm]

theorem decode_memOnly {b : Byte} (hb : b ∈ [0x8D, 0x62, 0xC4, 0xC5]) (z a : Size) (bs : List Byte) :
    decode z a (b :: m :: bs) = none := by
  simp only [List.mem_cons, List.not_mem_nil, or_false] at hb
  rcases hb with rfl | rfl | rfl | rfl
  · exact takeM_register hm a bs fun g m bs => some (.lea (.ofCode g) m, bs)
  · exact takeM_register hm a bs fun g m bs => some (.bound (.ofCode g) m, bs)
  · exact takeM_register hm a bs fun g m bs => some (.les (.ofCode g) m, bs)
  · exact takeM_register hm a bs fun g m bs => some (.lds (.ofCode g) m, bs)

/-- A row for a memory operand only is looked for once ModRM is fetched (R172, R196). -/
theorem bytesFetched_memOnly (csD : Bool) {b : Byte} (rest : List Byte) (hb : b ∈ [0x8D, 0x62, 0xC4, 0xC5]) :
    bytesFetched csD (b :: m :: rest) = 2 := by
  have hlookup : b ≠ 0x0F ∧ oneNeedsModRM b = true := by
    revert b
    decide
  obtain ⟨hne, hneeds⟩ := hlookup
  rw [bytesFetched, maxLength, List.take_succ_cons, List.take_succ_cons, fetchedFrom_none (decode_memOnly hm hb _ _ _),
    undecodedLength, hasRow, List.cons_append, List.cons_append, decode_memOnly hm hb, lookupLength_one hne, if_pos hneeds,
    modRMLength_register hm]
  rfl

end

theorem State.length_window (s : State) : s.window.length = maxLength := by simp [State.window]

theorem undecodable_of_fault {s : State} {r : Fault} (hr : step s = .fault r) : decodeAt s.csD s.window = none := by
  obtain ⟨hstops, -⟩ := onlyStops
  obtain ⟨hfault, -⟩ := hstops s
  exact hfault.1 ⟨r, hr⟩

theorem decoded_of_refused {s : State} {r : Refusal} (hr : step s = .refused r) :
    ∃ d, decodeAt s.csD s.window = some d := by
  cases hd : decodeAt s.csD s.window with
  | none => exact nomatch (step_undecodable hd).symm.trans hr
  | some d => exact ⟨d, rfl⟩

/-- Settles O32: the stop of a step is `afterStop`; undecodable bytes keep having no row whatever follows the
ones fetched; the operand reads are those of the instruction before its first write. -/
theorem stoppedSteps : Obligations.StoppedSteps := by
  refine ⟨fun s => ⟨fun t => afterStep_next, fun r hr => ?_, fun r hr => ?_⟩,
    fun _ _ _ => bytesFetched_of_decodeAt, fun csD b m rest =>
      ⟨bytesFetched_noRow csD rest, fun hb hm => bytesFetched_memOnly hm csD rest hb⟩, fun s m r => ?_⟩
  · have hd := undecodable_of_fault hr
    obtain ⟨hle, hrest⟩ := undecodable_of_take_bytesFetched s.length_window hd
    rw [afterStep_fault hr, afterStop_eq, callsOfStop_undecodable hd]
    rw [window_eq] at hle hrest ⊢
    rw [fetches_eq]
    exact ⟨rfl, hle, hrest⟩
  · obtain ⟨d, hd⟩ := decoded_of_refused hr
    rw [afterStep_refused hr, afterStop_eq, callsOfStop_decoded hd, fetches_eq, withLength_eq]
    rw [window_eq] at hd
    exact ⟨d, hd, rfl⟩
  · have hn : (if s.opsz = .s16 then 2 else 4) = s.opsz.bytes := by cases s.opsz <;> rfl
    rw [hn]
    refine ⟨fun sr => ⟨rfl, rfl⟩, fun sr i hi => ?_, rfl, rfl, fun _ _ => ⟨rfl, rfl⟩, fun _ => rfl, rfl,
      fun _ => ⟨rfl, rfl⟩, rfl, rfl, rfl, fun op hop => ?_⟩
    · cases sr with
      | cs => exact nomatch hi
      | es | ss | ds | fs | gs =>
        cases hi
        rfl
    · simp only [List.mem_cons, List.not_mem_nil, or_false] at hop
      rcases hop with rfl | rfl <;> exact ⟨rfl, rfl⟩

end Sys2Proof.Machine
end
